-- ==== Sys2Proof/Word.lean ====
section
/-! DEFINITION. The bit-vector types of the model: what the manual treats as bits (interval numbers that wrap,
zone codes and patterns, event flags, frame bytes, the backoff and CRC registers). -/

namespace Sys2Proof

/-- One byte of a frame. -/
abbrev Byte := BitVec 8

/-- A 16-bit quantity: an interval number, a zone code, a mask, a register of the line. -/
abbrev Word := BitVec 16

end Sys2Proof
end

