-- ==== Sys2Proof/Config.lean ====
section
/-! DEFINITION. What the part fixes once for all (the numbers its rules state outside the configuration items)
and the one free value of the model, the choice among orders that the spec leaves open. -/

namespace Sys2Proof.Config

/-- The choice the part makes where the spec says that either of several events that arrive together may be taken
first. No body: nothing is known of it. DESIGN CHOICE (log 5): the n-th open order is settled by `tieBreak n`. -/
opaque tieBreak : Nat → Nat

/-- Seconds in a market interval (Table 0-3). -/
def intervalSeconds : Nat := 300

/-- Milliseconds in a second. -/
def msPerSecond : Nat := 1000

/-- Counts of the 10 MHz reference in a millisecond (section 8.1: one count is 100 ns). -/
def countsPerMs : Nat := 10000

/-- The LEAVING timer, 5 s (R8). -/
def leavingMs : Nat := 5000

/-- The supply warning filter's timer, 20 ms (R13). -/
def supplyFilterMs : Nat := 20

/-- A computation ends within 20 ms of its start (R49). -/
def computationMs : Nat := 20

/-- A burst becomes line carrier after 2 ms (R59). -/
def carrierMs : Nat := 2

/-- Line carrier for 400 ms jams the transmitter (R61). -/
def jamMs : Nat := 400

/-- An idle line for 50 ms ends JAMMED (R61). -/
def jamClearMs : Nat := 50

/-- Feedback is LOST 50 ms after the last valid period (R152). -/
def feedbackLossMs : Nat := 50

/-- The Transmit Queue holds at most 12 entries (R70). -/
def queueLimit : Nat := 12

/-- The receive buffer holds at most 4 frames (R68). -/
def rxLimit : Nat := 4

/-- The Cluster View holds at most 47 peer records (R76). -/
def viewLimit : Nat := 47

/-- The Settlement Log holds at most 32 records (R166). -/
def logLimit : Nat := 32

/-- The receive counters stay at 65535 once there (R67, R68). -/
def counterLimit : Nat := 65535

/-- The longest frame after its preamble, a PLEDGE with 8 entries (R66, R169). -/
def longestFrame : Nat := 49

/-- The cover slack, 20 power units on each side (R114). -/
def coverSlack : Nat := 20

/-- The neutral duty count (R146). -/
def neutralDuty : Nat := 512

end Sys2Proof.Config
end

