-- ==== Sys2Proof/Syntax.lean ====
section
/-! DEFINITION. The commands of the part: one constructor of `Instr` for each row of spec/opcode_table.json, and
the operands they carry. A row that is a host command carries the SPI transaction it came in: how many bytes the
host clocked, and the fields of the body where its length is one R160 allows. -/

namespace Sys2Proof

/-- The two directions of reserve (00_scope.md, section 4.1). -/
inductive Direction where
  | raise
  | lower
  deriving DecidableEq, Repr

/-- One SPI transaction that carries a command with a body of type `α` (R159, R171). `clocked` counts the bytes
between the fall and the rise of NCS. `body` is none where the body's length does not match the length field or is
not a length the command allows (R160). -/
structure Transaction (α : Type) where
  clocked : Nat
  body    : Option α
  deriving DecidableEq, Repr

/-- One item of a CONFIGURE list: item id and value (Table 12-3). -/
structure Item where
  id    : Byte
  value : Word
  deriving DecidableEq, Repr

/-- The body of INTERVAL_MARK: interval and second (Table 12-3). -/
structure MarkBody where
  interval : Word
  second   : Word
  deriving DecidableEq, Repr

/-- The body of SET_STATE, in energy units (R38). -/
structure StateBody where
  eNow   : Word
  eFloor : Word
  eCeil  : Word
  deriving DecidableEq, Repr

/-- The body of SET_BASELINE: the first interval and n signed values of 4 bytes; n is the length of the list (R39). -/
structure BaselineBody where
  first  : Word
  values : List (BitVec 32)
  deriving DecidableEq, Repr

/-- The body of SET_PRICE (R41). -/
structure PriceBody where
  raiseBand : Byte
  lowerBand : Byte
  deriving DecidableEq, Repr

/-- The body of SET_AVAILABILITY: the first interval and n bytes, bit 0 RAISE and bit 1 LOWER; n is the length of
the list (R42, Table 12-3). -/
structure AvailabilityBody where
  first : Word
  flags : List Byte
  deriving DecidableEq, Repr

/-- The body of INJECT_AWARD, as the AWARD body of Table 12-2 (R101). -/
structure AwardBody where
  interval  : Word
  direction : Byte
  issue     : Byte
  band      : Byte
  quantity  : Word
  compare   : Word
  mask      : Word
  deriving DecidableEq, Repr

/-- The body of READ_LADDER: interval and direction byte (R93). -/
structure LadderBody where
  interval  : Word
  direction : Byte
  deriving DecidableEq, Repr

/-- The commands of the part, one constructor for each row of spec/opcode_table.json, in the table's order. -/
inductive Instr where
  /-- POWER_ON_RESET (R1): power-up, or RESET_N low for 10 µs or longer. -/
  | powerOnReset
  /-- NO_COMMAND_TRANSACTION (R159): `clocked` bytes, the first of them 0x00 or fewer than three. -/
  | noCommandTransaction (clocked : Nat)
  /-- UNKNOWN_COMMAND (R160): a transaction of `clocked` bytes whose code is none of Table 12-3. -/
  | unknownCommand (clocked : Nat) (code : Byte)
  /-- CONFIGURE (R3). -/
  | configure (t : Transaction (List Item))
  /-- JOIN (R5). -/
  | join (t : Transaction Unit)
  /-- LEAVE (R8). -/
  | leave (t : Transaction Unit)
  /-- RESTART (R11). -/
  | restart (t : Transaction Unit)
  /-- CLEAR_SUSPEND (R14). -/
  | clearSuspend (t : Transaction Unit)
  /-- INTERVAL_MARK (R18). -/
  | intervalMark (t : Transaction MarkBody)
  /-- SET_STATE (R38). -/
  | setState (t : Transaction StateBody)
  /-- SET_BASELINE (R39). -/
  | setBaseline (t : Transaction BaselineBody)
  /-- SET_PRICE (R41). -/
  | setPrice (t : Transaction PriceBody)
  /-- SET_AVAILABILITY (R42). -/
  | setAvailability (t : Transaction AvailabilityBody)
  /-- INJECT_AWARD (R101). -/
  | injectAward (t : Transaction AwardBody)
  /-- READ_STATUS (R161). -/
  | readStatus (t : Transaction Unit)
  /-- READ_HORIZON (R34). -/
  | readHorizon (t : Transaction Unit)
  /-- READ_VIEW (R89): the body is the index. -/
  | readView (t : Transaction Byte)
  /-- READ_LADDER (R93). -/
  | readLadder (t : Transaction LadderBody)
  /-- READ_LOG (R167). -/
  | readLog (t : Transaction Unit)
  /-- READ_EVENTS (R162). -/
  | readEvents (t : Transaction Unit)
  /-- CLEAR_EVENTS (R163): the body is the mask. -/
  | clearEvents (t : Transaction Word)
  /-- SET_EVENT_MASK (R163): the body is the mask. -/
  | setEventMask (t : Transaction Word)
  /-- CLOCK_SECOND (R16): the one-second period of the Interval Clock expires. -/
  | clockSecond
  /-- INTERVAL_BOUNDARY (R17): second 299 has stood for one second. -/
  | intervalBoundary
  /-- MARK_BOUNDARY (R21): the clock issues the next boundary of a forward mark. -/
  | markBoundary
  /-- REBUILD (R19): a waiting rebuild is performed. -/
  | rebuild
  /-- COMPUTATION_END (R50). -/
  | computationEnd
  /-- REFRESH_TIMER_EXPIRY (R55). -/
  | refreshTimerExpiry
  /-- LISTENING_TIMER_EXPIRY (R7). -/
  | listeningTimerExpiry
  /-- LEAVING_TIMER_EXPIRY (R9). -/
  | leavingTimerExpiry
  /-- STATE_STALE_LIMIT (R15): the state-stale timer reaches its limit. -/
  | stateStaleLimit
  /-- SUPPLY_WARNING_ACTIVE (R13): the supply warning input becomes active. -/
  | supplyWarningActive
  /-- SUPPLY_WARNING_INACTIVE (R13): the supply warning input becomes inactive. -/
  | supplyWarningInactive
  /-- SUPPLY_FILTER_EXPIRY (R13): 20 ms of active input have passed. -/
  | supplyFilterExpiry
  /-- CROSSING (R130): a rising edge on MSENSE, timed at `count` of the free-running 10 MHz count. -/
  | crossing (count : Nat)
  /-- MISSED_PERIOD (R131): the miss timer reaches 150 % of the nominal period. -/
  | missedPeriod
  /-- PWM_PERIOD_START (R146). -/
  | pwmPeriodStart
  /-- FEEDBACK_PERIOD (R151): a rising edge on FBK ends a period of `period` counts of 100 ns, whose first high time
  was `high` counts and which held `falls` falling edges. -/
  | feedbackPeriod (period high falls : Nat)
  /-- FEEDBACK_LOST (R152): 50 ms without a valid feedback period. -/
  | feedbackLost
  /-- MEASUREMENT_PERIOD_END (R153). -/
  | measurementPeriodEnd
  /-- SETTLING_EXPIRY (R154). -/
  | settlingExpiry
  /-- JUDGE_PERIOD_END (R155). -/
  | judgePeriodEnd
  /-- CARRIER_DETECT_CHANGE (R59): CDET changes to `active`. -/
  | carrierDetectChange (active : Bool)
  /-- LINE_CARRIER (R59): a burst has been present for 2 ms. -/
  | lineCarrier
  /-- IDLE_RUN_COMPLETE (R62): the idle run reaches its target. -/
  | idleRunComplete
  /-- TRANSMISSION_END (R72): the frame's line time ends. -/
  | transmissionEnd
  /-- LINE_JAM (R61): line carrier has been present for 400 ms. -/
  | lineJam
  /-- JAM_CLEAR (R61): the line has been idle for 50 ms in JAMMED. -/
  | jamClear
  /-- FRAME_RECEIVED (R67): the receiver closes a frame; `bytes` are those collected after its preamble. -/
  | frameReceived (bytes : List Byte)
  /-- RECEIVED_PLEDGE (R80): the PLEDGE at the front of the receive buffer is dispatched. -/
  | receivedPledge
  /-- RECEIVED_TAKE (R81): the TAKE at the front of the receive buffer is dispatched. -/
  | receivedTake
  /-- RECEIVED_WITHDRAW (R82): the WITHDRAW at the front of the receive buffer is dispatched. -/
  | receivedWithdraw
  /-- RECEIVED_AWARD (R95): the AWARD at the front of the receive buffer is dispatched. -/
  | receivedAward
  /-- PEER_STALE (R84): the age of the record of station `id` reaches 3 × Tp. -/
  | peerStale (id : Nat)
  /-- PEER_REMOVED (R85): the age of the record of station `id` reaches 10 × Tp. -/
  | peerRemoved (id : Nat)
  /-- HOLD_EXPIRY (R120): the hold timer of the record of `interval` and `dir` expires. -/
  | holdExpiry (interval : Word) (dir : Direction)
  deriving DecidableEq, Repr

end Sys2Proof
end

