-- ==== Sys2Proof/WellFormed.lean ====
section
/-! DEFINITION. Which terms of `Instr` stand for a command that can arise: a transaction clocks at least the frame
its body fills, lists stay within what a length field allows, and an unknown code is none of Table 12-3. -/

namespace Sys2Proof

/-- The command codes of Table 12-3: 0x01 to 0x0B and 0x10 to 0x17. -/
def knownCode (code : Byte) : Bool :=
  (1 ≤ code.toNat && code.toNat ≤ 0x0B) || (0x10 ≤ code.toNat && code.toNat ≤ 0x17)

/-- A transaction that carries a command clocks the code, the length and the whole body (R159, R160). -/
def Transaction.wellFormed {α : Type} (t : Transaction α) (size : α → Nat) (fits : α → Bool) : Bool :=
  match t.body with
  | none => 3 ≤ t.clocked
  | some b => 3 + size b ≤ t.clocked && fits b

/-- Whether a term of `Instr` stands for a command that can arise. -/
def Instr.wellFormed : Instr → Bool
  | .powerOnReset => true
  | .noCommandTransaction _ => true
  | .unknownCommand clocked code => 3 ≤ clocked && code != 0 && !knownCode code
  | .configure t => t.wellFormed (fun items => 3 * items.length) (fun items => items.length ≤ 32)
  | .join t => t.wellFormed (fun _ => 0) (fun _ => true)
  | .leave t => t.wellFormed (fun _ => 0) (fun _ => true)
  | .restart t => t.wellFormed (fun _ => 0) (fun _ => true)
  | .clearSuspend t => t.wellFormed (fun _ => 0) (fun _ => true)
  | .intervalMark t => t.wellFormed (fun _ => 4) (fun _ => true)
  | .setState t => t.wellFormed (fun _ => 6) (fun _ => true)
  | .setBaseline t => t.wellFormed (fun b => 3 + 4 * b.values.length) (fun b => b.values.length ≤ 255)
  | .setPrice t => t.wellFormed (fun _ => 2) (fun _ => true)
  | .setAvailability t => t.wellFormed (fun b => 3 + b.flags.length) (fun b => b.flags.length ≤ 255)
  | .injectAward t => t.wellFormed (fun _ => 11) (fun _ => true)
  | .readStatus t => t.wellFormed (fun _ => 0) (fun _ => true)
  | .readHorizon t => t.wellFormed (fun _ => 0) (fun _ => true)
  | .readView t => t.wellFormed (fun _ => 1) (fun _ => true)
  | .readLadder t => t.wellFormed (fun _ => 3) (fun _ => true)
  | .readLog t => t.wellFormed (fun _ => 0) (fun _ => true)
  | .readEvents t => t.wellFormed (fun _ => 0) (fun _ => true)
  | .clearEvents t => t.wellFormed (fun _ => 2) (fun _ => true)
  | .setEventMask t => t.wellFormed (fun _ => 2) (fun _ => true)
  | .clockSecond => true
  | .intervalBoundary => true
  | .markBoundary => true
  | .rebuild => true
  | .computationEnd => true
  | .refreshTimerExpiry => true
  | .listeningTimerExpiry => true
  | .leavingTimerExpiry => true
  | .stateStaleLimit => true
  | .supplyWarningActive => true
  | .supplyWarningInactive => true
  | .supplyFilterExpiry => true
  | .crossing _ => true
  | .missedPeriod => true
  | .pwmPeriodStart => true
  | .feedbackPeriod period high _ => 0 < period && high ≤ period
  | .feedbackLost => true
  | .measurementPeriodEnd => true
  | .settlingExpiry => true
  | .judgePeriodEnd => true
  | .carrierDetectChange _ => true
  | .lineCarrier => true
  | .idleRunComplete => true
  | .transmissionEnd => true
  | .lineJam => true
  | .jamClear => true
  | .frameReceived bytes => bytes.length ≤ Config.longestFrame
  | .receivedPledge => true
  | .receivedTake => true
  | .receivedWithdraw => true
  | .receivedAward => true
  | .peerStale id => 1 ≤ id && id ≤ 250
  | .peerRemoved id => 1 ≤ id && id ≤ 250
  | .holdExpiry _ _ => true

end Sys2Proof
end

