-- ==== Sys2Proof/Decode.lean ====
section
/-! DEFINITION. Reading a host-link transaction's bytes as a command (R159, R160, R168, R171, Table 12-3), and the
bytes of a command. The opcode table gives no row any bits, so `decodeTableWord` reads none. -/

namespace Sys2Proof

/-! ### Byte order (R168): most significant byte first -/

/-- The 16-bit value of two bytes. -/
def u16 (hi lo : Byte) : Word := hi ++ lo

/-- The 32-bit value of four bytes. -/
def u32 (a b c d : Byte) : BitVec 32 := u16 a b ++ u16 c d

/-- The two bytes of a 16-bit value. -/
def be16 (w : Word) : List Byte := [w.extractLsb' 8 8, w.extractLsb' 0 8]

/-- The four bytes of a 32-bit value. -/
def be32 (v : BitVec 32) : List Byte :=
  [v.extractLsb' 24 8, v.extractLsb' 16 8, v.extractLsb' 8 8, v.extractLsb' 0 8]

/-! ### Command bodies (Table 12-3); none where the length is not one the command allows -/

def parseNothing : List Byte → Option Unit
  | [] => some ()
  | _ => none

/-- Items of 3 bytes, to the end of the body. -/
def parseItemList : List Byte → Option (List Item)
  | [] => some []
  | id :: hi :: lo :: rest => (parseItemList rest).map (fun items => ⟨id, u16 hi lo⟩ :: items)
  | _ => none

/-- CONFIGURE: 3 × k bytes, k = 0..32. -/
def parseConfigure (body : List Byte) : Option (List Item) :=
  if body.length ≤ 96 then parseItemList body else none

def parseMark : List Byte → Option MarkBody
  | [a, b, c, d] => some ⟨u16 a b, u16 c d⟩
  | _ => none

def parseState : List Byte → Option StateBody
  | [a, b, c, d, e, f] => some ⟨u16 a b, u16 c d, u16 e f⟩
  | _ => none

/-- Values of 4 bytes, to the end of the body. -/
def parseValueList : List Byte → Option (List (BitVec 32))
  | [] => some []
  | a :: b :: c :: d :: rest => (parseValueList rest).map (fun vs => u32 a b c d :: vs)
  | _ => none

/-- SET_BASELINE: 3 + 4 × n bytes. -/
def parseBaseline : List Byte → Option BaselineBody
  | a :: b :: n :: rest =>
    match parseValueList rest with
    | some vs => if vs.length = n.toNat then some ⟨u16 a b, vs⟩ else none
    | none => none
  | _ => none

def parsePrice : List Byte → Option PriceBody
  | [a, b] => some ⟨a, b⟩
  | _ => none

/-- SET_AVAILABILITY: 3 + n bytes. -/
def parseAvailability : List Byte → Option AvailabilityBody
  | a :: b :: n :: rest => if rest.length = n.toNat then some ⟨u16 a b, rest⟩ else none
  | _ => none

def parseAward : List Byte → Option AwardBody
  | [a, b, d, i, band, q1, q0, c1, c0, m1, m0] => some ⟨u16 a b, d, i, band, u16 q1 q0, u16 c1 c0, u16 m1 m0⟩
  | _ => none

def parseIndex : List Byte → Option Byte
  | [i] => some i
  | _ => none

def parseLadder : List Byte → Option LadderBody
  | [a, b, d] => some ⟨u16 a b, d⟩
  | _ => none

def parseMask : List Byte → Option Word
  | [a, b] => some (u16 a b)
  | _ => none

/-! ### A whole transaction -/

/-- The transaction of a command whose body is read by `parse` (R160): the body is none where fewer bytes were
clocked than the length field announces, or where `parse` does not allow the length. Bytes beyond the end of the
frame are ignored (R159). -/
def frameBody {α : Type} (clocked len : Nat) (rest : List Byte) (parse : List Byte → Option α) : Transaction α :=
  ⟨clocked, if len ≤ rest.length then parse (rest.take len) else none⟩

/-- The command an SPI transaction carries, by the bytes clocked in on SDI (R159, R160, Table 12-3). Total. -/
def decodeTransaction (bytes : List Byte) : Instr :=
  match bytes with
  | code :: l1 :: l0 :: rest =>
    let n := bytes.length
    let len := (u16 l1 l0).toNat
    match code.toNat with
    | 0x00 => .noCommandTransaction n
    | 0x01 => .configure (frameBody n len rest parseConfigure)
    | 0x02 => .join (frameBody n len rest parseNothing)
    | 0x03 => .leave (frameBody n len rest parseNothing)
    | 0x04 => .restart (frameBody n len rest parseNothing)
    | 0x05 => .clearSuspend (frameBody n len rest parseNothing)
    | 0x06 => .intervalMark (frameBody n len rest parseMark)
    | 0x07 => .setState (frameBody n len rest parseState)
    | 0x08 => .setBaseline (frameBody n len rest parseBaseline)
    | 0x09 => .setPrice (frameBody n len rest parsePrice)
    | 0x0A => .setAvailability (frameBody n len rest parseAvailability)
    | 0x0B => .injectAward (frameBody n len rest parseAward)
    | 0x10 => .readStatus (frameBody n len rest parseNothing)
    | 0x11 => .readHorizon (frameBody n len rest parseNothing)
    | 0x12 => .readView (frameBody n len rest parseIndex)
    | 0x13 => .readLadder (frameBody n len rest parseLadder)
    | 0x14 => .readLog (frameBody n len rest parseNothing)
    | 0x15 => .readEvents (frameBody n len rest parseNothing)
    | 0x16 => .clearEvents (frameBody n len rest parseMask)
    | 0x17 => .setEventMask (frameBody n len rest parseMask)
    | _ => .unknownCommand n code
  | _ => .noCommandTransaction bytes.length

/-! ### The bytes of a command -/

def encodeItem (i : Item) : List Byte := i.id :: be16 i.value

def encodeAward (b : AwardBody) : List Byte :=
  be16 b.interval ++ [b.direction, b.issue, b.band] ++ be16 b.quantity ++ be16 b.compare ++ be16 b.mask

/-- Code and body of a host command whose body stands; none for the other commands. -/
def commandBytes : Instr → Option (Byte × List Byte)
  | .configure t => t.body.map (fun items => (0x01, items.flatMap encodeItem))
  | .join t => t.body.map (fun _ => (0x02, []))
  | .leave t => t.body.map (fun _ => (0x03, []))
  | .restart t => t.body.map (fun _ => (0x04, []))
  | .clearSuspend t => t.body.map (fun _ => (0x05, []))
  | .intervalMark t => t.body.map (fun b => (0x06, be16 b.interval ++ be16 b.second))
  | .setState t => t.body.map (fun b => (0x07, be16 b.eNow ++ be16 b.eFloor ++ be16 b.eCeil))
  | .setBaseline t =>
    t.body.map (fun b => (0x08, be16 b.first ++ [BitVec.ofNat 8 b.values.length] ++ b.values.flatMap be32))
  | .setPrice t => t.body.map (fun b => (0x09, [b.raiseBand, b.lowerBand]))
  | .setAvailability t =>
    t.body.map (fun b => (0x0A, be16 b.first ++ [BitVec.ofNat 8 b.flags.length] ++ b.flags))
  | .injectAward t => t.body.map (fun b => (0x0B, encodeAward b))
  | .readStatus t => t.body.map (fun _ => (0x10, []))
  | .readHorizon t => t.body.map (fun _ => (0x11, []))
  | .readView t => t.body.map (fun i => (0x12, [i]))
  | .readLadder t => t.body.map (fun b => (0x13, be16 b.interval ++ [b.direction]))
  | .readLog t => t.body.map (fun _ => (0x14, []))
  | .readEvents t => t.body.map (fun _ => (0x15, []))
  | .clearEvents t => t.body.map (fun m => (0x16, be16 m))
  | .setEventMask t => t.body.map (fun m => (0x17, be16 m))
  | _ => none

/-- How many bytes the transaction of a command clocked; 0 for a command that is no transaction. -/
def clockedBytes : Instr → Nat
  | .noCommandTransaction clocked => clocked
  | .unknownCommand clocked _ => clocked
  | .configure t => t.clocked
  | .join t => t.clocked
  | .leave t => t.clocked
  | .restart t => t.clocked
  | .clearSuspend t => t.clocked
  | .intervalMark t => t.clocked
  | .setState t => t.clocked
  | .setBaseline t => t.clocked
  | .setPrice t => t.clocked
  | .setAvailability t => t.clocked
  | .injectAward t => t.clocked
  | .readStatus t => t.clocked
  | .readHorizon t => t.clocked
  | .readView t => t.clocked
  | .readLadder t => t.clocked
  | .readLog t => t.clocked
  | .readEvents t => t.clocked
  | .clearEvents t => t.clocked
  | .setEventMask t => t.clocked
  | _ => 0

/-- The bytes clocked in by a host command's transaction (R171): code, length, body, and 0x00 for every byte clocked
beyond the frame. Empty for a command that is no host command. -/
def encodeTransaction (i : Instr) (clocked : Nat) : List Byte :=
  match commandBytes i with
  | some (code, body) =>
    code :: (be16 (BitVec.ofNat 16 body.length) ++ body ++ List.replicate (clocked - (3 + body.length)) 0)
  | none => []

/-- The command a word of the opcode table spells: the table gives no row any bits, so there is none. -/
def decodeTableWord (_nbits _w : Nat) : Option Instr := none

end Sys2Proof
end

