-- ==== Sys2Proof/Machine/State.lean ====
section
/-! DEFINITION. The state of the part: one structure for each block of Table 0-2, the queue of waiting commands, and
the state after power-on reset. Plain data throughout. -/

namespace Sys2Proof.Machine

/-! ### Names the rules use -/

/-- The five station states (Table 1-1). -/
inductive StationState where
  | unjoined
  | listening
  | active
  | suspended
  | leaving
  deriving DecidableEq, Repr

/-- The three suspension reasons (Table 1-1, NOTE 2). -/
inductive SuspendReason where
  | delivery
  | inverter
  | supply
  deriving DecidableEq, Repr

/-- The five reasons of a withdrawal, in rising severity (R73, R157). -/
inductive Reason where
  | owner
  | leave
  | delivery
  | inverter
  | supply
  deriving DecidableEq, Repr

/-- Nominal mains frequency (Table 1-3). -/
inductive Nominal where
  | hz50
  | hz60
  deriving DecidableEq, Repr

/-- The 22 configuration items (Table 1-3). -/
structure StationConfig where
  stationId     : Nat
  zone          : Word
  uplink        : Bool
  bidCompare    : Word
  bidMask       : Word
  nominal       : Nominal
  gateLead      : Nat
  refreshPeriod : Nat
  sustain       : Nat
  minPledge     : Nat
  suspendAt     : Nat
  overCover     : Nat
  deadband      : Nat
  fullDeviation : Nat
  averaging     : Nat
  ditherX       : Nat
  ditherY       : Nat
  rotation      : Nat
  settleTime    : Nat
  staleLimit    : Nat
  dischargeMax  : Nat
  chargeMax     : Nat
  deriving DecidableEq, Repr

/-- The defaults of Table 1-3. -/
def StationConfig.default : StationConfig where
  stationId     := 0
  zone          := 0
  uplink        := false
  bidCompare    := 0
  bidMask       := 0xFFFF
  nominal       := .hz50
  gateLead      := 2
  refreshPeriod := 30
  sustain       := 15
  minPledge     := 50
  suspendAt     := 6
  overCover     := 4
  deadband      := 20
  fullDeviation := 500
  averaging     := 4
  ditherX       := 5
  ditherY       := 3
  rotation      := 4
  settleTime    := 300
  staleLimit    := 120
  dischargeMax  := 0
  chargeMax     := 0

/-- The supply warning filter (R13); TIMING holds the milliseconds left of its 20. -/
inductive SupplyFilter where
  | idle
  | timing (left : Nat)
  | active
  deriving DecidableEq, Repr

/-- The Station Controller (Chapter 1). A timer is none while stopped, else the milliseconds left. -/
structure Controller where
  station       : StationState
  suspendReason : Option SuspendReason
  config        : StationConfig
  listening     : Option Nat
  leaving       : Option Nat
  filter        : SupplyFilter
  swarn         : Bool
  staleMs       : Nat
  stale         : Bool
  deriving DecidableEq, Repr

/-- A forward mark being performed: boundaries still to issue and the marked second (R21). -/
structure ForwardMark where
  left   : Nat
  second : Nat
  deriving DecidableEq, Repr

/-- A rebuild that waits for the Pledge Engine (R19). -/
structure WaitingRebuild where
  interval : Word
  second   : Nat
  deriving DecidableEq, Repr

/-- The Interval Clock (section 2.1). `subMs` counts the one-second period in milliseconds. -/
structure IntervalClock where
  current : Word
  second  : Nat
  isSet   : Bool
  subMs   : Nat
  mark    : Option ForwardMark
  rebuild : Option WaitingRebuild
  deriving DecidableEq, Repr

/-- The states of a commitment record (Table 2-7). -/
inductive RecordState where
  | opened
  | closed
  | awarded
  | running
  deriving DecidableEq, Repr

/-- An award as held in a commitment record (Table 6-1). -/
structure Award where
  issue    : Nat
  band     : Nat
  quantity : Nat
  compare  : Word
  mask     : Word
  conflict : Bool
  deriving DecidableEq, Repr

/-- The fields a record has only while it is RUNNING (R27). `delivered` has no bound: the spec gives no rule for
delivered energy beyond signed 32 bits (log 37). -/
structure RunFields where
  maxTake   : Nat
  minTake   : Nat
  delivered : Int
  good      : Nat
  bad       : Nat
  deriving DecidableEq, Repr

/-- A commitment record (Table 2-6). `hold` is none while the hold timer is stopped, else the milliseconds left. -/
structure CRecord where
  interval     : Word
  dir          : Direction
  state        : RecordState
  live         : Option Nat
  frozen       : Option Nat
  frozenBand   : Option Nat
  cap          : Option Nat
  award        : Option Award
  take         : Nat
  lastSent     : Option Nat
  hold         : Option Nat
  evalPending  : Bool
  withdrawn    : Option Reason
  run          : Option RunFields
  deriving DecidableEq, Repr

/-- A baseline entry of the Pledge Engine (Table 3-1). -/
structure BaselineEntry where
  interval : Word
  value    : Int
  deriving DecidableEq, Repr

/-- An availability entry of the Pledge Engine (Table 3-1). -/
structure AvailEntry where
  interval  : Word
  raiseFlag : Bool
  lowerFlag : Bool
  deriving DecidableEq, Repr

/-- A pledge computation in flight: the snapshot of R49, what kind of computation it is (R54, R51, R56), and the
milliseconds left of the 20 it may take. The lists hold one entry for each slot, slot 0 first. -/
structure Computation where
  estimate  : Nat
  remaining : Nat
  baselines : List Int
  avails    : List (Bool × Bool)
  raiseBand : Nat
  lowerBand : Nat
  errors    : Nat
  stale     : Bool
  openRecs  : List (Word × Direction)
  boundary  : Bool
  refresh   : Bool
  price     : Bool
  left      : Nat
  deriving DecidableEq, Repr

/-- An offer ladder (Table 5-5): one band sum and one cumulative sum for each band 0..15. -/
structure Ladder where
  interval      : Word
  dir           : Direction
  compare       : Word
  mask          : Word
  bandSums      : List Nat
  cumulative    : List Nat
  contributing  : Nat
  staleExcluded : Nat
  deriving DecidableEq, Repr

/-- The Pledge Engine (Table 3-1). The busy flag is the presence of `comp`. A set rerun request holds whether it
carries the refresh mark. `positioned` says that the host has given an energy position since the reset (R36,
log 38). -/
structure PledgeEngine where
  positioned      : Bool
  eHost           : Nat
  eFloor          : Nat
  eCeil           : Nat
  baselines       : List BaselineEntry
  avails          : List AvailEntry
  raiseBand       : Nat
  lowerBand       : Nat
  acc             : Int
  comp            : Option Computation
  rerun           : Option Bool
  boundaryPending : Bool
  refresh         : Option Nat
  ladders         : List Ladder
  deriving DecidableEq, Repr

/-- A slot entry of a PLEDGE notice and of a peer record (Table 12-2, Table 5-1). -/
structure SlotEntry where
  raiseBand : BitVec 4
  lowerBand : BitVec 4
  raiseQty  : Word
  lowerQty  : Word
  deriving DecidableEq, Repr

/-- The body of a notice (Table 4-1, Table 12-2). -/
inductive NoticeBody where
  | pledge (first : Word) (entries : List SlotEntry)
  | take (interval : Word) (dir : Direction) (issue : Byte) (amount : Word)
  | award (interval : Word) (dir : Direction) (issue : Byte) (band : BitVec 4) (quantity compare mask : Word)
  | withdraw (reason : Reason) (first : Word) (affected : Byte)
  deriving DecidableEq, Repr

/-- A notice: the header's sender and zone code, and the body (R58). -/
structure Notice where
  sender : Byte
  zone   : Word
  body   : NoticeBody
  deriving DecidableEq, Repr

/-- The states of the transmitter (Table 4-2). -/
inductive TxState where
  | idle
  | waiting
  | sending
  | jammed
  deriving DecidableEq, Repr

/-- Kind and key of a queue entry (Table 4-6). -/
inductive NoticeKey where
  | pledge
  | take (interval : Word) (dir : Direction)
  | award (interval : Word) (dir : Direction)
  | withdraw
  deriving DecidableEq, Repr

/-- The content of a WITHDRAW entry: reason, first interval, affected set by offset (Table 4-6). -/
structure WithdrawContent where
  reason   : Reason
  first    : Word
  affected : Byte
  deriving DecidableEq, Repr

/-- The renewal of an entry in flight (R71); for WITHDRAW it holds the pending content. -/
inductive Renewal where
  | absent
  | plain
  | withdraw (w : WithdrawContent)
  deriving DecidableEq, Repr

/-- A Transmit Queue entry (Table 4-6). -/
structure QEntry where
  key      : NoticeKey
  content  : Option WithdrawContent
  sends    : Nat
  draw     : Nat
  inFlight : Bool
  renewal  : Renewal
  deriving DecidableEq, Repr

/-- The frame on the line: all its bytes, preamble included, and the line time left in thirds of a millisecond
(a byte takes 8 / 4800 s, that is five thirds of a millisecond). -/
structure Sending where
  bytes : List Byte
  left  : Nat
  deriving DecidableEq, Repr

/-- What the receiver can make of the carrier on the line (R66). It is idle where no line carrier has begun since it last
closed a frame, sent, or was off. It has the whole of a stretch of line carrier that began while it listened; of a
carrier that stood already when it began to listen, at the end of a transmission or at JOIN, it has the milliseconds
since then (log 36). -/
inductive Receiver where
  | idle
  | whole
  | since (ms : Nat)
  deriving DecidableEq, Repr

/-- The Line Interface (Chapter 4). It is on exactly while the station is not UNJOINED (R57). -/
structure LineInterface where
  tx        : TxState
  queue     : List QEntry
  rx        : List Notice
  rxBad     : Nat
  rxDropped : Nat
  backoff   : Word
  cdet      : Bool
  burst     : Option Nat
  carrier   : Bool
  idleMs    : Nat
  run       : Option Nat
  sending   : Option Sending
  receiver  : Receiver
  deriving DecidableEq, Repr

/-- The status of a peer record (Table 5-2). -/
inductive PeerStatus where
  | fresh
  | stale
  | withdrawn
  deriving DecidableEq, Repr

/-- An entry of a peer record and the horizon interval it stands for (Table 5-1). -/
structure PeerEntry where
  interval : Word
  entry    : SlotEntry
  deriving DecidableEq, Repr

/-- A heard take of a peer record (Table 5-1). -/
structure HeardTake where
  interval : Word
  dir      : Direction
  amount   : Nat
  issue    : Nat
  deriving DecidableEq, Repr

/-- A peer record (Table 5-1). `ageMs` is the time since the latest good frame was taken. -/
structure Peer where
  id      : Nat
  zone    : Word
  status  : PeerStatus
  ageMs   : Nat
  entries : List PeerEntry
  heard   : List HeardTake
  deriving DecidableEq, Repr

/-- FREQ state (Table 8-1). -/
inductive FreqState where
  | valid
  | invalid
  deriving DecidableEq, Repr

/-- The Frequency Meter (Table 8-1). `count` is the free-running count of the 10 MHz reference; the miss timer reads
`count - missStart`. -/
structure FrequencyMeter where
  count     : Nat
  reference : Option Nat
  missStart : Nat
  ring      : List Nat
  invalids  : Nat
  measured  : Option Nat
  state     : FreqState
  deriving DecidableEq, Repr

/-- The Activation Unit (Table 9-1). `lineDuty` is the duty of the PWM period in progress on SETPT (R146); `pwmDue`
is the model's: a PWM period has ended and the next has not begun. -/
structure ActivationUnit where
  heldFreq  : Option Nat
  heldState : FreqState
  phase     : Nat
  level     : Nat
  dir       : Option Direction
  delta     : Int
  duty      : Nat
  lineDuty  : Nat
  pwmDue    : Bool
  deriving DecidableEq, Repr

/-- Feedback state (Table 10-1). -/
inductive FeedbackState where
  | present
  | lost
  deriving DecidableEq, Repr

/-- The verification window (Table 10-3). -/
inductive WindowState where
  | stopped
  | settling
  | judging
  deriving DecidableEq, Repr

/-- The Delivery Monitor (Table 10-1). `settling` holds the milliseconds left of T_settle, `judgeMs` the
milliseconds the judge period has run, `measureMs` those of the measurement period. -/
structure DeliveryMonitor where
  fbDuty    : Nat
  f         : Int
  fb        : FeedbackState
  lossMs    : Nat
  window    : WindowState
  reference : Int
  settling  : Option Nat
  judgeMs   : Option Nat
  heldD     : Int
  samples   : Int
  measureMs : Nat
  dSum      : Int
  fSum      : Int
  errors    : Nat
  goodRun   : Nat
  deriving DecidableEq, Repr

/-- The award fields of a settlement record (Table 11-3). -/
structure SettledAward where
  issue    : Nat
  band     : Nat
  quantity : Nat
  conflict : Bool
  deriving DecidableEq, Repr

/-- A settlement record (Table 11-3). -/
structure Settlement where
  interval  : Word
  dir       : Direction
  award     : Option SettledAward
  frozen    : Nat
  finalTake : Nat
  maxTake   : Nat
  minTake   : Nat
  delivered : Int
  good      : Nat
  bad       : Nat
  withdrawn : Option Reason
  deriving DecidableEq, Repr

/-! ### Answers -/

/-- Answer codes (Table 12-4). -/
inductive AnswerCode where
  | done
  | busy
  | refusedState
  | refusedRange
  | refusedRole
  | refusedConfig
  | unknownCommand
  | empty
  deriving DecidableEq, Repr

/-- The outcome of an INJECT_AWARD (R102). -/
inductive AwardOutcome where
  | applied
  | duplicate
  | conflict
  deriving DecidableEq, Repr

/-- What READ_STATUS returns (R161). -/
structure StatusReport where
  station       : StationState
  suspendReason : Option SuspendReason
  clockSet      : Bool
  interval      : Word
  second        : Nat
  freqState     : FreqState
  measured      : Nat
  errors        : Nat
  feedback      : FeedbackState
  tx            : TxState
  queueLength   : Nat
  viewSize      : Nat
  rxBad         : Nat
  rxDropped     : Nat
  estimate      : Nat
  logLength     : Nat
  deriving DecidableEq, Repr

/-- One record as READ_HORIZON returns it: every field of Table 2-6 but the hold timer and the evaluation-pending
flag (R34). -/
structure HorizonRow where
  interval   : Word
  dir        : Direction
  state      : RecordState
  live       : Option Nat
  frozen     : Option Nat
  frozenBand : Option Nat
  cap        : Option Nat
  award      : Option Award
  take       : Nat
  lastSent   : Option Nat
  withdrawn  : Option Reason
  run        : Option RunFields
  deriving DecidableEq, Repr

/-- What READ_VIEW returns (R89): the entries of the eight horizon intervals in slot order, and for each slot the
RAISE and the LOWER heard take with its issue. -/
structure PeerReport where
  id         : Nat
  zone       : Word
  status     : PeerStatus
  ageSeconds : Nat
  entries    : List (Option SlotEntry)
  heard      : List (Option (Nat × Nat))
  deriving DecidableEq, Repr

/-- The fields a DONE answer carries (Table 11-1). -/
inductive AnswerBody where
  | none
  | config (c : StationConfig)
  | injected (outcome : AwardOutcome) (held : Award)
  | status (r : StatusReport)
  | horizon (rows : List HorizonRow)
  | peer (p : PeerReport)
  | ladder (l : Ladder)
  | settled (r : Settlement) (left : Nat)
  | events (flags again mask : Word)
  deriving DecidableEq, Repr

/-- An answer frame (R171). -/
structure Answer where
  code : AnswerCode
  body : AnswerBody
  deriving DecidableEq, Repr

/-- The Host Link (Chapter 11). Flags, again flags and mask hold bit n for the event of bit n of Table 11-2. ATTN is
asserted exactly while flags and mask meet (R164). `sdo` is what the last transaction shifted out on SDO. -/
structure HostLink where
  flags : Word
  again : Word
  mask  : Word
  held  : Option Answer
  sdo   : List Byte
  log   : List Settlement
  deriving DecidableEq, Repr

/-! ### The state -/

/-- The state of the part. `entryTakesDue` is the own-take computation of an entry into ACTIVE that waits for the
lock to end (R52, R106). `ties` (the model's) counts the open orders drawn from `Config.tieBreak`. `pending` is the
queue of waiting commands, first in first out. -/
structure State where
  ctrl          : Controller
  clock         : IntervalClock
  table         : List CRecord
  pledge        : PledgeEngine
  line          : LineInterface
  view          : List Peer
  entryTakesDue : Bool
  freq          : FrequencyMeter
  act           : ActivationUnit
  mon           : DeliveryMonitor
  host          : HostLink
  ties          : Nat
  pending       : List Instr
  deriving DecidableEq, Repr

/-- The fault type has no constructor: no rule of the spec stops the part. Safe: no claim rests on a stop. -/
inductive Fault where
  deriving DecidableEq, Repr

/-- Why a command has no meaning. -/
inductive Refusal where
  /-- Answered by exec for a command that has no meaning yet. Safe: the model stops where the part goes on. No arm of
  exec answers it. -/
  | notModelled (mnemonic : String)
  deriving DecidableEq, Repr

/-- What a step of the part answers. -/
abbrev Result := Host.Outcome State Fault Refusal

/-! ### Updates, one for each field -/

def State.setCtrl (s : State) (x : Controller) : State := { s with ctrl := x }
def State.setClock (s : State) (x : IntervalClock) : State := { s with clock := x }
def State.setTable (s : State) (x : List CRecord) : State := { s with table := x }
def State.setPledge (s : State) (x : PledgeEngine) : State := { s with pledge := x }
def State.setLine (s : State) (x : LineInterface) : State := { s with line := x }
def State.setView (s : State) (x : List Peer) : State := { s with view := x }
def State.setEntryDue (s : State) (x : Bool) : State := { s with entryTakesDue := x }
def State.setFreq (s : State) (x : FrequencyMeter) : State := { s with freq := x }
def State.setAct (s : State) (x : ActivationUnit) : State := { s with act := x }
def State.setMon (s : State) (x : DeliveryMonitor) : State := { s with mon := x }
def State.setHost (s : State) (x : HostLink) : State := { s with host := x }
def State.setTies (s : State) (x : Nat) : State := { s with ties := x }
def State.setPending (s : State) (x : List Instr) : State := { s with pending := x }

/-! ### Reset -/

/-- The Station Controller after power-on reset (R1, R4). -/
def Controller.reset : Controller where
  station       := .unjoined
  suspendReason := none
  config        := .default
  listening     := none
  leaving       := none
  filter        := .idle
  swarn         := false
  staleMs       := 0
  stale         := false

/-- The Interval Clock after power-on reset (R16). -/
def IntervalClock.reset : IntervalClock where
  current := 0
  second  := 0
  isSet   := false
  subMs   := 0
  mark    := none
  rebuild := none

/-- The Pledge Engine after power-on reset (R36). -/
def PledgeEngine.reset : PledgeEngine where
  positioned      := false
  eHost           := 0
  eFloor          := 0
  eCeil           := 0
  baselines       := []
  avails          := []
  raiseBand       := 15
  lowerBand       := 15
  acc             := 0
  comp            := none
  rerun           := none
  boundaryPending := false
  refresh         := none
  ladders         := []

/-- The Line Interface after power-on reset (R57). -/
def LineInterface.reset : LineInterface where
  tx        := .idle
  queue     := []
  rx        := []
  rxBad     := 0
  rxDropped := 0
  backoff   := 1
  cdet      := false
  burst     := none
  carrier   := false
  idleMs    := 0
  run       := none
  sending   := none
  receiver  := .idle

/-- The Frequency Meter after power-on reset (R128). -/
def FrequencyMeter.reset : FrequencyMeter where
  count     := 0
  reference := none
  missStart := 0
  ring      := []
  invalids  := 0
  measured  := none
  state     := .invalid

/-- The Activation Unit after power-on reset (R138): the phase is 0 because id and interval are 0. -/
def ActivationUnit.reset : ActivationUnit where
  heldFreq  := none
  heldState := .invalid
  phase     := 0
  level     := 0
  dir       := none
  delta     := 0
  duty      := 512
  lineDuty  := 512
  pwmDue    := false

/-- The Delivery Monitor after power-on reset (R150). -/
def DeliveryMonitor.reset : DeliveryMonitor where
  fbDuty    := 512
  f         := 0
  fb        := .lost
  lossMs    := 50
  window    := .stopped
  reference := 0
  settling  := none
  judgeMs   := none
  heldD     := 0
  samples   := 0
  measureMs := 0
  dSum      := 0
  fSum      := 0
  errors    := 0
  goodRun   := 0

/-- The Host Link after power-on reset (R159, R162, R166). -/
def HostLink.reset : HostLink where
  flags := 0
  again := 0
  mask  := 0
  held  := none
  sdo   := []
  log   := []

/-- The part right after power-on reset, with no command waiting. -/
def State.reset : State where
  ctrl          := .reset
  clock         := .reset
  table         := []
  pledge        := .reset
  line          := .reset
  view          := []
  entryTakesDue := false
  freq          := .reset
  act           := .reset
  mon           := .reset
  host          := .reset
  ties          := 0
  pending       := []

end Sys2Proof.Machine
end

