-- ==== Sys2Proof/Machine/Flags.lean ====
section
/-! DEFINITION. The event flags, the again flags and the attention line (R162, R164, Table 11-2). -/

namespace Sys2Proof.Machine

/-- The 14 events (Table 11-2). -/
inductive Event where
  | award
  | take
  | settled
  | withdrawn
  | suspended
  | lineJam
  | viewFull
  | idClash
  | awardConflict
  | logOverrun
  | stateStale
  | freqInvalid
  | queueDrop
  | rxOverflow
  deriving DecidableEq, Repr

/-- The bit number of an event (Table 11-2). -/
def Event.bit : Event → Nat
  | .award => 0
  | .take => 1
  | .settled => 2
  | .withdrawn => 3
  | .suspended => 4
  | .lineJam => 5
  | .viewFull => 6
  | .idClash => 7
  | .awardConflict => 8
  | .logOverrun => 9
  | .stateStale => 10
  | .freqInvalid => 11
  | .queueDrop => 12
  | .rxOverflow => 13

/-- The word with the event's bit set. -/
def Event.word (e : Event) : Word := 1#16 <<< e.bit

/-- Whether the event's flag is set. -/
def flagSet (e : Event) (s : State) : Bool := s.host.flags.getLsbD e.bit

/-- Whether the event's again flag is set. -/
def againSet (e : Event) (s : State) : Bool := s.host.again.getLsbD e.bit

/-- An event is raised: its flag is set where it is clear, its again flag where the flag is set already (R162). -/
def raiseEvent (e : Event) (s : State) : State :=
  if flagSet e s then
    s.setHost { s.host with again := s.host.again ||| e.word }
  else
    s.setHost { s.host with flags := s.host.flags ||| e.word }

/-- Raises an event where a condition holds. -/
def raiseWhen (b : Bool) (e : Event) (s : State) : State := if b then raiseEvent e s else s

/-- ATTN is asserted while a flag whose mask bit is set is set (R164). -/
def attnAsserted (s : State) : Bool := (s.host.flags &&& s.host.mask) != 0

/-- Bits 14 and 15 of an event mask are reserved (Table 11-2, R163). -/
def eventMaskAllowed (m : Word) : Bool := !m.getLsbD 14 && !m.getLsbD 15

end Sys2Proof.Machine
end

