-- ==== Sys2Proof/Machine/Ops.lean ====
section
/-! DEFINITION. The shared operations: rounding, interval order and slots, zone match, the lookups of the commitment
table, and the choice among open orders. -/

namespace Sys2Proof.Machine

/-! ### Rounding (section 4.5) -/

/-- round: to the nearest integer, halves away from zero. -/
def roundDiv (a : Int) (b : Nat) : Int :=
  if 0 ≤ a then (((2 * a.natAbs + b) / (2 * b) : Nat) : Int)
  else -(((2 * a.natAbs + b) / (2 * b) : Nat) : Int)

/-- trunc: toward zero. -/
def truncDiv (a : Int) (b : Nat) : Int := a.tdiv (b : Int)

/-- The value nearest to `x` within `lo..hi`. -/
def clampInt (lo hi x : Int) : Int := max lo (min hi x)

/-! ### Interval order, slots, zone match (sections 4.2 to 4.4, R22) -/

/-- The slot of interval `k` against the first interval of a horizon. -/
def slotOf (first k : Word) : Nat := (k - first).toNat

/-- Whether `k` is one of the eight intervals from `first` on. -/
def inHorizon (first k : Word) : Bool := slotOf first k < 8

/-- Interval `a` is after interval `b`. -/
def isAfter (a b : Word) : Bool := 1 ≤ (a - b).toNat && (a - b).toNat ≤ 32767

/-- Interval `a` is before interval `b`. -/
def isBefore (a b : Word) : Bool := isAfter b a

/-- The interval at slot `j` of the horizon that starts at `first`. -/
def atSlot (first : Word) (j : Nat) : Word := first + BitVec.ofNat 16 j

/-- A zone code matches a pattern where they agree in every bit the mask holds 0 in (section 4.4). -/
def zoneMatch (zone compare mask : Word) : Bool := ((zone ^^^ compare) &&& ~~~mask) == 0

/-- The 16 pairs of a horizon in slot order, RAISE before LOWER. -/
def horizonPairs (first : Word) : List (Word × Direction) :=
  (List.range 8).flatMap fun j => [(atSlot first j, .raise), (atSlot first j, .lower)]

/-! ### Readings of the state -/

/-- The station is in one of the four joined states; the Line Interface is on and the table holds records (R2, R57). -/
def joined (s : State) : Bool := s.ctrl.station != .unjoined

/-- The station is ACTIVE. -/
def isActive (s : State) : Bool := s.ctrl.station == .active

/-- The busy flag; the records are locked for the Allocation Unit exactly while it is set (R52, R101 NOTE 2). -/
def busy (s : State) : Bool := s.pledge.comp.isSome

/-- The Commitment Table's first interval: the current interval, except while a boundary is held (R22, R30). -/
def tableFirst (s : State) : Word :=
  if s.pledge.boundaryPending then s.clock.current - 1 else s.clock.current

/-- P_scale (Table 1-3, NOTE 2). -/
def pScale (c : StationConfig) : Nat := c.dischargeMax + c.chargeMax

/-- The clock counts seconds except while a mark or a rebuild is being performed (R19, R21). -/
def clockCounts (s : State) : Bool := s.clock.mark.isNone && s.clock.rebuild.isNone

/-- The length of the listening period, 3 × Tp (R6). -/
def listeningMs (c : StationConfig) : Nat := 3 * c.refreshPeriod * Config.msPerSecond

/-- The hold time H of a station (R120). -/
def holdMs (c : StationConfig) : Nat := 2000 + (c.stationId % 16) * 250

/-! ### Commitment records -/

/-- Whether a record is the one of interval `k` and direction `d` (R22). -/
def CRecord.is (r : CRecord) (k : Word) (d : Direction) : Bool := r.interval == k && r.dir == d

/-- The record of (k, d), none where the table holds none (R22). -/
def findRec (table : List CRecord) (k : Word) (d : Direction) : Option CRecord :=
  table.find? fun r => r.is k d

/-- Rewrites the record of (k, d). -/
def mapRec (k : Word) (d : Direction) (f : CRecord → CRecord) (table : List CRecord) : List CRecord :=
  table.map fun r => if r.is k d then f r else r

/-- Rewrites the record of (k, d) in the state. -/
def State.updRec (s : State) (k : Word) (d : Direction) (f : CRecord → CRecord) : State :=
  s.setTable (mapRec k d f s.table)

/-- A record that is CLOSED, AWARDED or RUNNING has a frozen pledge, a band and a cap (Table 2-8, NOTE 1). -/
def CRecord.committed (r : CRecord) : Bool := r.state != .opened

/-- An own take is written; a RUNNING record's max take and min take follow it (R27). -/
def CRecord.withTake (r : CRecord) (t : Nat) : CRecord :=
  { r with
    take := t
    run := r.run.map fun f => { f with maxTake := max f.maxTake t, minTake := min f.minTake t } }

/-- The own take of the RUNNING record of a direction, 0 where there is none (R142). -/
def runningTake (table : List CRecord) (d : Direction) : Nat :=
  match table.find? fun r => r.state == .running && r.dir == d with
  | some r => r.take
  | none => 0

/-- Rewrites the RUNNING records of the directions chosen. -/
def State.updRunning (s : State) (f : Direction → RunFields → RunFields) : State :=
  s.setTable (s.table.map fun r => if r.state == .running then { r with run := r.run.map (f r.dir) } else r)

/-! ### Open orders -/

/-- Draws one choice among `n` from `Config.tieBreak` (log 5): the number drawn, and the state with the draw
counted. -/
def drawTie (n : Nat) (s : State) : Nat × State :=
  (Config.tieBreak s.ties % n, s.setTies (s.ties + 1))

/-! ### The severity of reasons (R73, R157) -/

def Reason.severity : Reason → Nat
  | .owner => 0
  | .leave => 1
  | .delivery => 2
  | .inverter => 3
  | .supply => 4

/-- The more severe of two reasons. -/
def Reason.worse (a b : Reason) : Reason := if a.severity ≤ b.severity then b else a

/-- The withdrawal reason of a suspension (Table 10-5). -/
def SuspendReason.toReason : SuspendReason → Reason
  | .delivery => .delivery
  | .inverter => .inverter
  | .supply => .supply

end Sys2Proof.Machine
end

