-- ==== Sys2Proof/Machine/Operands.lean ====
section
/-! DEFINITION. The operand forms of the host commands: the items of CONFIGURE (Table 1-3, R3), direction bytes,
intervals that follow a first one, availability bytes, and the award of an injection. -/

namespace Sys2Proof.Machine

/-- An item a CONFIGURE list may hold: a known id and a value in the range of Table 1-3, odd for Xo and Yo (R3). -/
def itemAllowed (i : Item) : Bool :=
  let v := i.value.toNat
  match i.id.toNat with
  | 1 => v ≤ 250
  | 2 => true
  | 3 => v ≤ 1
  | 4 => true
  | 5 => true
  | 6 => v == 50 || v == 60
  | 7 => 1 ≤ v && v ≤ 4
  | 8 => 15 ≤ v && v ≤ 120
  | 9 => 5 ≤ v && v ≤ 60
  | 10 => 10 ≤ v && v ≤ 200
  | 11 => 2 ≤ v && v ≤ 15
  | 12 => v ≤ 16
  | 13 => v ≤ 500
  | 14 => 50 ≤ v && v ≤ 2000
  | 15 => 1 ≤ v && v ≤ 8
  | 16 => 1 ≤ v && v ≤ 15 && v % 2 == 1
  | 17 => 1 ≤ v && v ≤ 15 && v % 2 == 1
  | 18 => 1 ≤ v && v ≤ 16
  | 19 => 100 ≤ v && v ≤ 1000
  | 20 => 30 ≤ v && v ≤ 600
  | 21 => v ≤ 2000
  | 22 => v ≤ 2000
  | _ => false

/-- One item is stored (R3); item ids are 1..22 in the row order of Table 1-3 (Table 12-3, NOTE 1). -/
def storeItem (c : StationConfig) (i : Item) : StationConfig :=
  let v := i.value.toNat
  match i.id.toNat with
  | 1 => { c with stationId := v }
  | 2 => { c with zone := i.value }
  | 3 => { c with uplink := v == 1 }
  | 4 => { c with bidCompare := i.value }
  | 5 => { c with bidMask := i.value }
  | 6 => { c with nominal := if v == 60 then .hz60 else .hz50 }
  | 7 => { c with gateLead := v }
  | 8 => { c with refreshPeriod := v }
  | 9 => { c with sustain := v }
  | 10 => { c with minPledge := v }
  | 11 => { c with suspendAt := v }
  | 12 => { c with overCover := v }
  | 13 => { c with deadband := v }
  | 14 => { c with fullDeviation := v }
  | 15 => { c with averaging := v }
  | 16 => { c with ditherX := v }
  | 17 => { c with ditherY := v }
  | 18 => { c with rotation := v }
  | 19 => { c with settleTime := v }
  | 20 => { c with staleLimit := v }
  | 21 => { c with dischargeMax := v }
  | 22 => { c with chargeMax := v }
  | _ => c

/-- Every item of a list is stored in order, a later one over an earlier (R3). -/
def storeItems (items : List Item) (c : StationConfig) : StationConfig := items.foldl storeItem c

/-- The direction a direction byte codes: 0 RAISE, 1 LOWER (Table 12-2, NOTE 1). -/
def directionOf (b : Byte) : Option Direction :=
  if b = 0 then some .raise else if b = 1 then some .lower else none

/-- The values of a list with the intervals first, first + 1, … they stand for (R39, R42, R80). -/
def fromInterval {α : Type} (first : Word) : List α → List (Word × α)
  | [] => []
  | a :: rest => (first, a) :: fromInterval (first + 1) rest

/-- The flags of an availability byte: bit 0 RAISE, bit 1 LOWER, 1 = available (Table 12-3). -/
def availabilityFlags (b : Byte) : Bool × Bool := (b.getLsbD 0, b.getLsbD 1)

/-- A count n of 0 or above 8 is out of range (R39, R42). -/
def countAllowed (n : Nat) : Bool := 1 ≤ n && n ≤ 8

/-- The award an INJECT_AWARD carries, its conflict flag clear (R101, R102). -/
def awardOfBody (b : AwardBody) : Award :=
  ⟨b.issue.toNat, b.band.toNat, b.quantity.toNat, b.compare, b.mask, false⟩

end Sys2Proof.Machine
end

