-- ==== Sys2Proof/Machine/Answers.lean ====
section
/-! DEFINITION. Answer frames (R171, Table 12-4): the bytes of each answer, and the one way in which a transaction
shifts the held answer out and a command leaves its own (R159, R160). Layouts of optional fields: log 19. -/

namespace Sys2Proof.Machine

/-! ### Field widths (R171) -/

def byteOf (n : Nat) : List Byte := [BitVec.ofNat 8 n]
def wordOf (n : Nat) : List Byte := be16 (BitVec.ofNat 16 n)
def longOf (n : Nat) : List Byte := be32 (BitVec.ofNat 32 n)
/-- A signed field of 4 bytes: the low 32 bits (log 37). -/
def signedOf (x : Int) : List Byte := be32 (BitVec.ofInt 32 x)
def flagOf (b : Bool) : List Byte := byteOf b.toNat

/-- An optional field: a presence byte, then the field where it is present. -/
def optionalOf {α : Type} (f : α → List Byte) : Option α → List Byte
  | some a => 1#8 :: f a
  | none => [0#8]

/-! ### Enumerations (Table 12-4, Table 12-2 NOTE 1) -/

def AnswerCode.byte : AnswerCode → Byte
  | .done => 0x01
  | .busy => 0x02
  | .refusedState => 0x03
  | .refusedRange => 0x04
  | .refusedRole => 0x05
  | .refusedConfig => 0x06
  | .unknownCommand => 0x07
  | .empty => 0x08

def StationState.code : StationState → Nat
  | .unjoined => 0
  | .listening => 1
  | .active => 2
  | .suspended => 3
  | .leaving => 4

def RecordState.code : RecordState → Nat
  | .opened => 0
  | .closed => 1
  | .awarded => 2
  | .running => 3

def PeerStatus.code : PeerStatus → Nat
  | .fresh => 0
  | .stale => 1
  | .withdrawn => 2

def TxState.code : TxState → Nat
  | .idle => 0
  | .waiting => 1
  | .sending => 2
  | .jammed => 3

def FreqState.code : FreqState → Nat
  | .valid => 0
  | .invalid => 1

def FeedbackState.code : FeedbackState → Nat
  | .present => 0
  | .lost => 1

def AwardOutcome.code : AwardOutcome → Nat
  | .applied => 0
  | .duplicate => 1
  | .conflict => 2

def directionCode : Direction → Nat
  | .raise => 0
  | .lower => 1

def Reason.code (r : Reason) : Nat := r.severity

def Nominal.hertz : Nominal → Nat
  | .hz50 => 50
  | .hz60 => 60

/-! ### Bodies -/

/-- The stored value of each item, in the order of Table 1-3. -/
def configValues (c : StationConfig) : List Word :=
  [ .ofNat 16 c.stationId, c.zone, .ofNat 16 c.uplink.toNat, c.bidCompare, c.bidMask,
    .ofNat 16 c.nominal.hertz, .ofNat 16 c.gateLead, .ofNat 16 c.refreshPeriod, .ofNat 16 c.sustain,
    .ofNat 16 c.minPledge, .ofNat 16 c.suspendAt, .ofNat 16 c.overCover, .ofNat 16 c.deadband,
    .ofNat 16 c.fullDeviation, .ofNat 16 c.averaging, .ofNat 16 c.ditherX, .ofNat 16 c.ditherY,
    .ofNat 16 c.rotation, .ofNat 16 c.settleTime, .ofNat 16 c.staleLimit, .ofNat 16 c.dischargeMax,
    .ofNat 16 c.chargeMax ]

/-- Items of 3 bytes, ids counting up from `id` (R171). -/
def itemsOf (id : Nat) : List Word → List Byte
  | [] => []
  | v :: rest => byteOf id ++ be16 v ++ itemsOf (id + 1) rest

def configBytes (c : StationConfig) : List Byte := itemsOf 1 (configValues c)

def awardBytes (a : Award) : List Byte :=
  byteOf a.issue ++ byteOf a.band ++ wordOf a.quantity ++ be16 a.compare ++ be16 a.mask ++ flagOf a.conflict

def statusBytes (r : StatusReport) : List Byte :=
  byteOf r.station.code ++ optionalOf (fun q => byteOf (SuspendReason.toReason q).code) r.suspendReason ++
  flagOf r.clockSet ++ be16 r.interval ++ wordOf r.second ++ byteOf r.freqState.code ++ longOf r.measured ++
  byteOf r.errors ++ byteOf r.feedback.code ++ byteOf r.tx.code ++ byteOf r.queueLength ++ byteOf r.viewSize ++
  wordOf r.rxBad ++ wordOf r.rxDropped ++ longOf r.estimate ++ byteOf r.logLength

/-- A record of READ_HORIZON (R34, R171). Each of the four numbers of the running fields has a presence byte of its own
(log 19). -/
def rowBytes (r : HorizonRow) : List Byte :=
  be16 r.interval ++ byteOf (directionCode r.dir) ++ byteOf r.state.code ++ optionalOf wordOf r.live ++
  optionalOf wordOf r.frozen ++ optionalOf byteOf r.frozenBand ++ optionalOf wordOf r.cap ++
  optionalOf awardBytes r.award ++ wordOf r.take ++ optionalOf wordOf r.lastSent ++
  optionalOf (fun q => byteOf (Reason.code q)) r.withdrawn ++
  optionalOf wordOf (r.run.map (·.maxTake)) ++ optionalOf wordOf (r.run.map (·.minTake)) ++
  optionalOf signedOf (r.run.map (·.delivered)) ++ optionalOf wordOf (r.run.map (·.good)) ++
  optionalOf wordOf (r.run.map (·.bad))

/-- An entry of READ_VIEW (R89, R171): each band is a byte of its own (log 19). -/
def entryBytes (e : SlotEntry) : List Byte :=
  byteOf e.raiseBand.toNat ++ byteOf e.lowerBand.toNat ++ be16 e.raiseQty ++ be16 e.lowerQty

def peerBytes (p : PeerReport) : List Byte :=
  byteOf p.id ++ be16 p.zone ++ byteOf p.status.code ++ wordOf p.ageSeconds ++
  p.entries.flatMap (optionalOf entryBytes) ++
  p.heard.flatMap (optionalOf fun h => wordOf h.1 ++ byteOf h.2)

def ladderBytes (l : Ladder) : List Byte :=
  be16 l.interval ++ byteOf (directionCode l.dir) ++ be16 l.compare ++ be16 l.mask ++ l.bandSums.flatMap longOf ++
  l.cumulative.flatMap longOf ++ byteOf l.contributing ++ byteOf l.staleExcluded

def settledAwardBytes (a : SettledAward) : List Byte :=
  byteOf a.issue ++ byteOf a.band ++ wordOf a.quantity ++ flagOf a.conflict

def settlementBytes (r : Settlement) : List Byte :=
  be16 r.interval ++ byteOf (directionCode r.dir) ++ optionalOf settledAwardBytes r.award ++ wordOf r.frozen ++
  wordOf r.finalTake ++ wordOf r.maxTake ++ wordOf r.minTake ++ signedOf r.delivered ++ wordOf r.good ++
  wordOf r.bad ++ optionalOf (fun q => byteOf (Reason.code q)) r.withdrawn

def AnswerBody.bytes : AnswerBody → List Byte
  | .none => []
  | .config c => configBytes c
  | .injected o a => byteOf o.code ++ awardBytes a
  | .status r => statusBytes r
  | .horizon rows => rows.flatMap rowBytes
  | .peer p => peerBytes p
  | .ladder l => ladderBytes l
  | .settled r left => settlementBytes r ++ byteOf left
  | .events f a m => be16 f ++ be16 a ++ be16 m

/-- An answer frame: code, length, body (R171). -/
def Answer.bytes (a : Answer) : List Byte :=
  a.code.byte :: (wordOf a.body.bytes.length ++ a.body.bytes)

/-- An answer that carries no field. -/
def plain (c : AnswerCode) : Answer := ⟨c, .none⟩

/-! ### Transactions (R159, R160) -/

/-- What a transaction of `clocked` bytes shifts out: the held answer, then 0x00 for every byte beyond it (R159). -/
def shiftOut (held : Option Answer) (clocked : Nat) : List Byte :=
  let bytes := match held with
    | some a => a.bytes
    | none => []
  (bytes ++ List.replicate (clocked - bytes.length) 0).take clocked

/-- A transaction of `clocked` bytes: the held answer is shifted out, and given up where its first byte was clocked
out (R159). -/
def clockOut (clocked : Nat) (s : State) : State :=
  s.setHost { s.host with
    sdo := shiftOut s.host.held clocked
    held := if clocked = 0 then s.host.held else none }

/-- The answer is held for the next transaction (R160). -/
def holdAnswer (a : Answer) (s : State) : State := s.setHost { s.host with held := some a }

/-- A host command: the transaction shifts the held answer out; a body of a length that is not allowed is refused
REFUSED_RANGE; in LEAVING a command outside the set of R9 is refused REFUSED_STATE; otherwise `serve` carries the
command out and forms its answer (R160). -/
def hostCommand {α : Type} (t : Transaction α) (inLeaving : Bool) (serve : α → State → State × Answer)
    (s : State) : State :=
  let s1 := clockOut t.clocked s
  match t.body with
  | none => holdAnswer (plain .refusedRange) s1
  | some b =>
    if s.ctrl.station = .leaving ∧ inLeaving = false then holdAnswer (plain .refusedState) s1
    else holdAnswer (serve b s1).2 (serve b s1).1

end Sys2Proof.Machine
end

