-- ==== Sys2Proof/Machine/Frames.lean ====
section
/-! DEFINITION. Cluster-line frames: their bytes, the CRC-16, and the frame check (R58, R67, R168 to R170, Tables
12-1 and 12-2, Table 4-5). -/

namespace Sys2Proof.Machine

/-! ### CRC-16 (R170) -/

/-- One shift of the register; the bit leaving the top, where 1, brings in 0x1021. -/
def crcShift (r : Word) : Word := if r.getLsbD 15 then (r <<< 1) ^^^ 0x1021#16 else r <<< 1

/-- One byte: combined into the upper eight bits, then eight shifts. -/
def crcByte (r : Word) (b : Byte) : Word :=
  let r0 := r ^^^ (b ++ 0#8)
  crcShift (crcShift (crcShift (crcShift (crcShift (crcShift (crcShift (crcShift r0)))))))

/-- The CRC over a list of bytes, from 0xFFFF. -/
def crc16 (bytes : List Byte) : Word := bytes.foldl crcByte 0xFFFF#16

/-! ### Assembly (R169) -/

/-- The synchronisation preamble. -/
def preamble : List Byte := [0x55, 0x55, 0x55, 0x55, 0x55, 0xB4]

/-- The reason byte (Table 12-2, NOTE 1). -/
def reasonByte (r : Reason) : Byte := BitVec.ofNat 8 (Reason.code r)

/-- The reason a byte codes; none for a value that is no reason (Table 4-5). -/
def reasonOf (b : Byte) : Option Reason :=
  match b.toNat with
  | 0 => some .owner
  | 1 => some .leave
  | 2 => some .delivery
  | 3 => some .inverter
  | 4 => some .supply
  | _ => none

def dirByte (d : Direction) : Byte := BitVec.ofNat 8 (directionCode d)

/-- A PLEDGE slot entry: RAISE band in the high four bits, LOWER band in the low four, then the quantities. -/
def slotEntryBytes (e : SlotEntry) : List Byte :=
  (e.raiseBand ++ e.lowerBand : Byte) :: (be16 e.raiseQty ++ be16 e.lowerQty)

/-- The kind byte, and the body with its fill bytes (Tables 12-1 and 12-2). -/
def kindAndBody : NoticeBody → Byte × List Byte
  | .pledge first entries =>
    (BitVec.ofNat 8 (0x10 + entries.length),
      be16 first ++ BitVec.ofNat 8 entries.length :: entries.flatMap slotEntryBytes)
  | .take k d i t => (0x20, be16 k ++ [dirByte d, i] ++ be16 t ++ [0])
  | .award k d i b q c m =>
    (0x30, be16 k ++ [dirByte d, i, b.setWidth 8] ++ be16 q ++ be16 c ++ be16 m)
  | .withdraw r f a => (0x40, reasonByte r :: (be16 f ++ [a, 0, 0, 0]))

/-- Header, body and fill: the bytes the CRC covers. -/
def coveredBytes (n : Notice) : List Byte :=
  (kindAndBody n.body).1 :: n.sender :: (be16 n.zone ++ (kindAndBody n.body).2)

/-- The frame after its preamble: the covered bytes and the CRC, upper byte first. -/
def frameBytes (n : Notice) : List Byte := coveredBytes n ++ be16 (crc16 (coveredBytes n))

/-- The line time of a frame in thirds of a millisecond: 8 bits of 1/4800 s for each byte, preamble included (R58). -/
def lineThirds (bytes : List Byte) : Nat := bytes.length * 5

/-! ### The frame check (R67, Table 4-5) -/

/-- Exactly `n` slot entries of 5 bytes. -/
def parseEntries : Nat → List Byte → Option (List SlotEntry)
  | 0, [] => some []
  | n + 1, b :: r1 :: r0 :: l1 :: l0 :: rest =>
    (parseEntries n rest).map fun es =>
      ⟨b.extractLsb' 4 4, b.extractLsb' 0 4, u16 r1 r0, u16 l1 l0⟩ :: es
  | _, _ => none

/-- The body of a kind byte; none for a malformed one. -/
def parseBody (kind : Byte) (body : List Byte) : Option NoticeBody :=
  if 0x10 ≤ kind.toNat ∧ kind.toNat ≤ 0x1F then
    match body with
    | f1 :: f0 :: c :: rest =>
      let n := kind.toNat - 0x10
      if 1 ≤ n ∧ n ≤ 8 ∧ c.toNat = n then (parseEntries n rest).map (.pledge (u16 f1 f0)) else none
    | _ => none
  else if kind = 0x20 then
    match body with
    | [k1, k0, d, i, t1, t0, _] => (directionOf d).map fun d => .take (u16 k1 k0) d i (u16 t1 t0)
    | _ => none
  else if kind = 0x30 then
    match body with
    | [k1, k0, d, i, b, q1, q0, c1, c0, m1, m0] =>
      if b.toNat ≤ 15 then
        (directionOf d).map fun d => .award (u16 k1 k0) d i (b.setWidth 4) (u16 q1 q0) (u16 c1 c0) (u16 m1 m0)
      else none
    | _ => none
  else if kind = 0x40 then
    match body with
    | [r, f1, f0, a, _, _, _] => (reasonOf r).map fun r => .withdraw r (u16 f1 f0) a
    | _ => none
  else none

/-- Header and body of the covered bytes: the sender id is 1..250 (Table 4-5). -/
def parseCovered : List Byte → Option Notice
  | kind :: id :: z1 :: z0 :: body =>
    if 1 ≤ id.toNat ∧ id.toNat ≤ 250 then (parseBody kind body).map fun b => ⟨id, u16 z1 z0, b⟩ else none
  | _ => none

/-- The last two of at least two bytes, as the CRC received. -/
def receivedCrc (bytes : List Byte) : Option Word :=
  match bytes.drop (bytes.length - 2) with
  | [c1, c0] => some (u16 c1 c0)
  | _ => none

/-- The frame check: the notice of a good frame, none for a bad one. -/
def checkFrame (bytes : List Byte) : Option Notice :=
  let covered := bytes.take (bytes.length - 2)
  if receivedCrc bytes = some (crc16 covered) then parseCovered covered else none

/-! ### The intervals a notice names (R69) -/

/-- The intervals of an affected set (Table 4-1). -/
def affectedIntervals (first : Word) (affected : Byte) : List Word :=
  ((List.range 8).filter fun o => affected.getLsbD o).map (atSlot first)

def NoticeBody.intervals : NoticeBody → List Word
  | .pledge first entries => (fromInterval first entries).map (·.1)
  | .take k _ _ _ => [k]
  | .award k _ _ _ _ _ _ => [k]
  | .withdraw _ first affected => affectedIntervals first affected

/-- Whether the frame at the front of the receive buffer may be dispatched: while the records are locked a frame that
names a horizon interval is held, against the Commitment Table's first interval (R52, R69). -/
def mayDispatch (s : State) (n : Notice) : Bool :=
  !(busy s && n.body.intervals.any (inHorizon (tableFirst s)))

end Sys2Proof.Machine
end

