-- ==== Sys2Proof/Machine/View.lean ====
section
/-! DEFINITION. The Cluster View: taking a frame, ageing, pruning and membership (R76 to R88). A view change report
(R83) is the list of the (interval, direction) pairs it names, in slot order, RAISE first. -/

namespace Sys2Proof.Machine

/-- The pairs a report names. -/
abbrev Report := List (Word × Direction)

/-- The record of a station id. -/
def findPeer (view : List Peer) (id : Nat) : Option Peer := view.find? fun p => p.id == id

/-- Rewrites the record of a station id. -/
def mapPeer (id : Nat) (f : Peer → Peer) (view : List Peer) : List Peer :=
  view.map fun p => if p.id = id then f p else p

/-- Places a record in ascending order of station id (R89). -/
def placePeer (p : Peer) : List Peer → List Peer
  | [] => [p]
  | q :: rest => if p.id < q.id then p :: q :: rest else q :: placePeer p rest

/-- The entry a record holds for an interval. -/
def Peer.entryAt (p : Peer) (k : Word) : Option SlotEntry := (p.entries.find? fun e => e.interval == k).map (·.entry)

/-- The heard take a record holds for (k, d). -/
def Peer.heardAt (p : Peer) (k : Word) (d : Direction) : Option HeardTake :=
  p.heard.find? fun h => h.interval == k && h.dir == d

/-- The pairs of the horizon from `cur` that a test selects. -/
def reportWhere (cur : Word) (named : Word → Direction → Bool) : Report :=
  (horizonPairs cur).filter fun kd => named kd.1 kd.2

/-- The pairs for which a record holds an entry. -/
def Peer.entryPairs (cur : Word) (p : Peer) : Report := reportWhere cur fun k _ => (p.entryAt k).isSome

/-! ### The header (R78, R79) -/

/-- Of two STALE records the one that makes room: the greater age, and of equal ages the lower id (R79). -/
def olderStale (a b : Peer) : Peer := if a.ageMs < b.ageMs then b else if a.ageMs = b.ageMs ∧ b.id < a.id then b else a

/-- The STALE record that makes room in a full view; none where no record is STALE (R79). -/
def roomMaker (view : List Peer) : Option Peer :=
  match view.filter fun p => p.status == .stale with
  | [] => none
  | p :: rest => some (rest.foldl olderStale p)

/-- A record as R79 creates it. -/
def newPeer (id : Nat) (zone : Word) : Peer := ⟨id, zone, .fresh, 0, [], []⟩

/-- The header update of a good frame: the view with the sender's record found or created, its age 0 and its zone
code stored, and the report of a changed zone code. None where the view is full and no record is STALE. -/
def headerUpdate (cur : Word) (id : Nat) (zone : Word) (view : List Peer) : Option (List Peer × Report) :=
  match findPeer view id with
  | some p =>
    let report :=
      if p.zone = zone then [] else reportWhere cur fun k d => (p.entryAt k).isSome || (p.heardAt k d).isSome
    some (mapPeer id (fun p => { p with zone := zone, ageMs := 0 }) view, report)
  | none =>
    if view.length < Config.viewLimit then some (placePeer (newPeer id zone) view, [])
    else
      match roomMaker view with
      | some out => some (placePeer (newPeer id zone) (view.filter fun p => p.id != out.id), [])
      | none => none

/-! ### Bodies (R80 to R82) -/

/-- An entry with both quantities set to 0 and its bands kept. -/
def SlotEntry.zeroed (e : SlotEntry) : SlotEntry := { e with raiseQty := 0, lowerQty := 0 }

/-- A PLEDGE's slot entries that lie in the horizon. -/
def carriedEntries (cur first : Word) (entries : List SlotEntry) : List PeerEntry :=
  ((fromInterval first entries).filter fun ke => inHorizon cur ke.1).map fun ke => ⟨ke.1, ke.2⟩

/-- Whether a list of entries carries an interval. -/
def carries (es : List PeerEntry) (k : Word) : Bool := es.any fun e => e.interval == k

/-- A PLEDGE at its sender's record (R80). -/
def Peer.takePledge (cur first : Word) (entries : List SlotEntry) (p : Peer) : Peer :=
  let carried := carriedEntries cur first entries
  let kept := (p.entries.filter fun e => !carries carried e.interval).map fun e =>
    if inHorizon cur e.interval then { e with entry := e.entry.zeroed } else e
  { p with entries := carried ++ kept, status := .fresh }

/-- Whether a TAKE of issue `i` is stored against the heard take held (Table 5-3). -/
def takeStored (held : Option HeardTake) (i : Nat) : Bool :=
  match held with
  | none => true
  | some h => h.issue ≤ i

/-- A TAKE at its sender's record, where it is stored (R81). -/
def Peer.takeTake (k : Word) (d : Direction) (issue amount : Nat) (p : Peer) : Peer :=
  { p with heard := ⟨k, d, amount, issue⟩ :: p.heard.filter fun h => !(h.interval == k && h.dir == d) }

/-- Whether an affected set covers the eight horizon intervals from the current one (R82). -/
def coversHorizon (cur first : Word) (affected : Byte) : Bool := affected == 0xFF && first == cur

/-- A WITHDRAW at its sender's record (R82). One of the whole horizon makes a record WITHDRAWN, but for a STALE one, which
stays STALE until a PLEDGE (R78 before R82, log 40). -/
def Peer.takeWithdraw (cur first : Word) (affected : Byte) (p : Peer) : Peer :=
  let hit (k : Word) : Bool := inHorizon cur k && (affectedIntervals first affected).any (· == k)
  { p with
    entries := p.entries.map fun e => if hit e.interval then { e with entry := e.entry.zeroed } else e
    heard := p.heard.map fun h => if hit h.interval then { h with amount := 0 } else h
    status := if coversHorizon cur first affected = true ∧ p.status ≠ .stale then .withdrawn else p.status }

/-- The report of a PLEDGE update: both directions of every horizon interval whose entry was created, replaced or
zeroed; where the status changed, all pairs the record holds an entry for (Table 5-4). Every entry of a horizon
interval is one of these. -/
def pledgeReport (cur : Word) (after : Peer) : Report := after.entryPairs cur

/-- The report of a TAKE that was stored (Table 5-4). -/
def takeReport (k : Word) (d : Direction) : Report := [(k, d)]

/-- The report of a WITHDRAW update (Table 5-4). -/
def withdrawReport (cur first : Word) (affected : Byte) (before after : Peer) : Report :=
  reportWhere cur fun k _ =>
    (affectedIntervals first affected).any (· == k) || (before.status != after.status && (after.entryAt k).isSome)

/-! ### Boundaries and rebuilds (R86, R19) -/

/-- Drops the entries and heard takes of the intervals a test selects, from every record. -/
def pruneView (drop : Word → Bool) (view : List Peer) : List Peer :=
  view.map fun p =>
    { p with
      entries := p.entries.filter fun e => !drop e.interval
      heard := p.heard.filter fun h => !drop h.interval }

/-! ### Membership (R87, R88) -/

/-- A member as the view answers it: id, band, quantity, and the heard take where present. -/
structure Member where
  id    : Nat
  band  : Nat
  qty   : Nat
  heard : Option HeardTake
  deriving DecidableEq, Repr

def SlotEntry.band (e : SlotEntry) : Direction → Nat
  | .raise => e.raiseBand.toNat
  | .lower => e.lowerBand.toNat

def SlotEntry.qty (e : SlotEntry) : Direction → Nat
  | .raise => e.raiseQty.toNat
  | .lower => e.lowerQty.toNat

/-- A record as a member for (k, d) and a pattern: FRESH, in the pattern, with an entry for k (R87). -/
def Peer.asMember (k : Word) (d : Direction) (compare mask : Word) (p : Peer) : Option Member :=
  if p.status = .fresh ∧ zoneMatch p.zone compare mask = true then
    (p.entryAt k).map fun e => ⟨p.id, e.band d, e.qty d, p.heardAt k d⟩
  else none

/-- The members for (k, d) and a pattern (R88). -/
def membersOf (view : List Peer) (k : Word) (d : Direction) (compare mask : Word) : List Member :=
  view.filterMap (Peer.asMember k d compare mask)

end Sys2Proof.Machine
end

