-- ==== Sys2Proof/Machine/Merit.lean ====
section
/-! DEFINITION. The merit take, used takes, cover and the walks of an evaluation (R104, R105, R108, R113 to R116). -/

namespace Sys2Proof.Machine

/-- The own station's term in the sums, while it is ACTIVE: its cap and frozen band (R104). -/
structure OwnTerm where
  qty  : Nat
  band : Nat
  deriving DecidableEq, Repr

/-- The sum of the quantities in bands that a test selects, over the members and the own term. -/
def bandSum (inBand : Nat → Bool) (ms : List Member) (own : Option OwnTerm) : Nat :=
  ((ms.filter fun m => inBand m.band).map (·.qty)).sum +
    match own with
    | some o => if inBand o.band then o.qty else 0
    | none => 0

/-- Below: the quantities in bands below the clearing band (R104). -/
def sumBelow (clearing : Nat) (ms : List Member) (own : Option OwnTerm) : Nat := bandSum (fun b => decide (b < clearing)) ms own

/-- At: the quantities in the clearing band (R104). -/
def sumAt (clearing : Nat) (ms : List Member) (own : Option OwnTerm) : Nat := bandSum (fun b => b == clearing) ms own

/-- The merit take of a station with quantity `p` in band `b` (Table 6-7). -/
def meritTake (p b clearing quantity below at' : Nat) : Nat :=
  if p = 0 ∨ quantity = 0 then 0
  else if b < clearing then p
  else if clearing < b then 0
  else if at' ≤ quantity - below then p
  else p * (quantity - below) / at'

/-- The own merit take of a record under an award (R104, R105). -/
def ownMerit (ms : List Member) (a : Award) (own : OwnTerm) : Nat :=
  meritTake own.qty own.band a.band a.quantity (sumBelow a.band ms (some own)) (sumAt a.band ms (some own))

/-- The estimated take of a member (R108). -/
def estimatedTake (ms : List Member) (a : Award) (own : Option OwnTerm) (m : Member) : Nat :=
  meritTake m.qty m.band a.band a.quantity (sumBelow a.band ms own) (sumAt a.band ms own)

/-- The used take of a member: the heard take under the issue of the held award, no higher than the entry quantity,
or else the estimate (Table 7-1). A heard take that a WITHDRAW zeroed under the held issue is used as 0 (Table 7-1, NOTE 2)
also once a PLEDGE has brought the member's quantity back above 0, where R124 says that the member counts again with its
estimate: the model's choice (log 44). -/
def usedTake (ms : List Member) (a : Award) (own : Option OwnTerm) (m : Member) : Nat :=
  match m.heard with
  | some h => if h.issue = a.issue then min h.amount m.qty else estimatedTake ms a own m
  | none => estimatedTake ms a own m

/-- The cover of an awarded record: the own take and the used take of every member (R113). -/
def coverOf (ms : List Member) (a : Award) (own : OwnTerm) (take : Nat) : Nat :=
  take + (ms.map (usedTake ms a (some own))).sum

/-- The over-cover allowance of an award (R114). -/
def allowance (quantity overCover : Nat) : Nat := quantity * overCover / 64

/-- A station in a walk: its place by band and id, and its spare or its take. -/
structure Ranked where
  band   : Nat
  id     : Nat
  amount : Nat
  own    : Bool
  deriving DecidableEq, Repr

/-- Band from the lowest up, and within a band id from the lowest up (R115). -/
def Ranked.before (a b : Ranked) : Bool := a.band < b.band || (a.band == b.band && a.id ≤ b.id)

def insertRanked (le : Ranked → Ranked → Bool) (x : Ranked) : List Ranked → List Ranked
  | [] => [x]
  | y :: rest => if le x y then x :: y :: rest else y :: insertRanked le x rest

/-- The ranking of a list of stations. -/
def rank (le : Ranked → Ranked → Bool) (xs : List Ranked) : List Ranked := xs.foldr (insertRanked le) []

/-- The walk: each station in order is assigned the lower of its amount and what remains; what the own station is
assigned (R115, R116). -/
def ownAssigned : Nat → List Ranked → Nat
  | _, [] => 0
  | remaining, r :: rest =>
    if r.own then min r.amount remaining else ownAssigned (remaining - min r.amount remaining) rest

/-- The stations of a raising walk, each with its spare (R115). -/
def raiseStations (ownId : Nat) (ms : List Member) (a : Award) (own : OwnTerm) (take : Nat) : List Ranked :=
  ⟨own.band, ownId, own.qty - take, true⟩ ::
    ms.map fun m => ⟨m.band, m.id, m.qty - usedTake ms a (some own) m, false⟩

/-- The stations of a lowering walk, each with its take (R116). -/
def lowerStations (ownId : Nat) (ms : List Member) (a : Award) (own : OwnTerm) (take : Nat) : List Ranked :=
  ⟨own.band, ownId, take, true⟩ :: ms.map fun m => ⟨m.band, m.id, usedTake ms a (some own) m, false⟩

/-- The own take an evaluation leaves (R114 to R117): raised where the record is short, lowered where it is over, left
where cover is within bounds. -/
def evaluatedTake (ownId overCover : Nat) (ms : List Member) (a : Award) (own : OwnTerm) (take : Nat) : Nat :=
  let cover := coverOf ms a own take
  let upper := a.quantity + allowance a.quantity overCover
  if cover + Config.coverSlack < a.quantity then
    take + ownAssigned (a.quantity - cover) (rank Ranked.before (raiseStations ownId ms a own take))
  else if upper + Config.coverSlack < cover then
    take - ownAssigned (cover - upper) (rank (fun x y => y.before x) (lowerStations ownId ms a own take))
  else take

end Sys2Proof.Machine
end

