-- ==== Sys2Proof/Machine/Activation.lean ====
section
/-! DEFINITION. The Activation Unit and the verification window: phase, level, setpoint delta, duty, and the hand-over
of a new delta to the Delivery Monitor (R139 to R147, R154). -/

namespace Sys2Proof.Machine

/-! ### Phase and level -/

/-- The dither phase of an interval (R139). -/
def ditherPhase (c : StationConfig) (k : Word) : Nat :=
  (c.stationId * c.ditherX + k.toNat / c.rotation * c.ditherY) % 16

/-- The phase is computed afresh from the values stored at the moment (R139). -/
def recomputePhase (s : State) : State :=
  s.setAct { s.act with phase := ditherPhase s.ctrl.config s.clock.current }

/-- The nominal frequency in mHz (R140). -/
def nominalMilliHertz : Nominal → Int
  | .hz50 => 50000
  | .hz60 => 60000

/-- The level for a deviation `x` beyond the deadband (R141): min(16, floor((256 x + φ span) / (16 span))). -/
def levelFor (span x : Int) (phase : Nat) : Nat :=
  (min 16 ((256 * x + phase * span) / (16 * span))).toNat

/-- Level and active direction for a held frequency (R140, R141). -/
def levelAndDir (c : StationConfig) (phase : Nat) (freq : Nat) : Nat × Option Direction :=
  let dev : Int := (freq : Int) - nominalMilliHertz c.nominal
  let db : Int := c.deadband
  let span : Int := (c.fullDeviation : Int) - db
  if 0 < -dev - db then (levelFor span (-dev - db) phase, some .raise)
  else if 0 < dev - db then (levelFor span (dev - db) phase, some .lower)
  else (0, none)

/-- The setpoint delta for a level, a direction and the running take (Table 9-4). -/
def setpointDelta (dir : Option Direction) (take level : Nat) : Int :=
  match dir with
  | some .raise => ((take * level / 16 : Nat) : Int)
  | some .lower => -((take * level / 16 : Nat) : Int)
  | none => 0

/-- The duty count of a delta (R146). -/
def dutyFor (scale : Nat) (d : Int) : Nat :=
  if d = 0 then Config.neutralDuty else (clampInt 0 1024 (512 + roundDiv (512 * d) scale)).toNat

/-! ### The verification window (R154, Table 10-3) -/

/-- The judging conditions end: the window is STOPPED, both timers stop and a judge period is abandoned. -/
def stopWindow (s : State) : State :=
  s.setMon { s.mon with window := .stopped, settling := none, judgeMs := none, dSum := 0, fSum := 0 }

/-- SETTLING begins: the reference delta becomes the delta given, the settling timer starts at T_settle, and a judge
period in progress is abandoned. -/
def startSettling (d : Int) (s : State) : State :=
  s.setMon { s.mon with
    window := .settling, reference := d, settling := some s.ctrl.config.settleTime,
    judgeMs := none, dSum := 0, fSum := 0 }

/-- A new D is handed to the Delivery Monitor (R147): it becomes the held D, and in SETTLING or JUDGING it disturbs
the window where it lies 10 or more from the reference delta. -/
def handOverDelta (d : Int) (s : State) : State :=
  let s1 := s.setMon { s.mon with heldD := d }
  if s.mon.window ≠ .stopped ∧ 10 ≤ (d - s.mon.reference).natAbs then startSettling d s1 else s1

/-! ### Recomputation (R143, R144) -/

/-- Level and direction by the first three rows of Table 9-4. -/
def formedLevel (s : State) : Nat × Option Direction :=
  if isActive s = true ∧ s.act.heldState = .valid then
    match s.act.heldFreq with
    | some f => levelAndDir s.ctrl.config s.act.phase f
    | none => (0, none)
  else (0, none)

/-- The running take of a direction; with none no running take is read (R142). -/
def takeToward (table : List CRecord) : Option Direction → Nat
  | some d => runningTake table d
  | none => 0

/-- The setpoint delta the inputs of the moment give (R143). -/
def formedDelta (s : State) : Int :=
  setpointDelta (formedLevel s).2 (takeToward s.table (formedLevel s).2) (formedLevel s).1

/-- The duty count the inputs of the moment give (R146): 512 where D is 0 and in every state other than ACTIVE. -/
def formedDuty (s : State) : Nat := dutyFor (pScale s.ctrl.config) (formedDelta s)

/-- A recomputation: level, direction, D and duty are formed anew, and a changed D is handed over (R144, R147). -/
def recompute (s : State) : State :=
  let s1 := s.setAct { s.act with
    level := (formedLevel s).1
    dir := (formedLevel s).2
    delta := formedDelta s
    duty := formedDuty s }
  if formedDelta s = s.act.delta then s1 else handOverDelta (formedDelta s) s1

end Sys2Proof.Machine
end

