-- ==== Sys2Proof/Machine/Queue.lean ====
section
/-! DEFINITION. The backoff generator, idle runs and the Transmit Queue (R60, R62, R70 to R74). -/

namespace Sys2Proof.Machine

/-! ### The backoff generator (R60) -/

/-- One step: the value shifts one place toward its low end, and the exclusive-or of bits 0, 2, 3 and 5 enters at its
high end. -/
def backoffStep (v : Word) : Word :=
  let b := v.getLsbD 0 ^^ v.getLsbD 2 ^^ v.getLsbD 3 ^^ v.getLsbD 5
  (v >>> 1) ||| (if b then 0x8000#16 else 0#16)

/-- A backoff draw advances the generator by 4 steps; the draw is the resulting value modulo 16. -/
def backoffAdvance (v : Word) : Word := backoffStep (backoffStep (backoffStep (backoffStep v)))

/-- The seed: (station id × 256) exclusive-or zone code, or 1 where that value is 0. -/
def backoffSeed (c : StationConfig) : Word :=
  let v := BitVec.ofNat 16 (c.stationId * 256) ^^^ c.zone
  if v = 0 then 1 else v

/-! ### Kinds (Table 4-1, Table 4-3) -/

/-- WITHDRAW and AWARD stand in group A, TAKE and PLEDGE in group B (R70). -/
def NoticeKey.groupA : NoticeKey → Bool
  | .withdraw => true
  | .award _ _ => true
  | .take _ _ => false
  | .pledge => false

/-- The class gap in slots (Table 4-3). -/
def NoticeKey.classGap : NoticeKey → Nat
  | .withdraw => 4
  | .award _ _ => 6
  | .take _ _ => 8
  | .pledge => 10

/-- The interval a TAKE or AWARD entry names. -/
def NoticeKey.interval : NoticeKey → Option Word
  | .take k _ => some k
  | .award k _ => some k
  | .pledge => none
  | .withdraw => none

/-- The sends an insert sets: PLEDGE 1, TAKE 2, AWARD 3, WITHDRAW 3, or 1 for reason SUPPLY (Table 4-7). -/
def initialSends (k : NoticeKey) (w : Option WithdrawContent) : Nat :=
  match k with
  | .pledge => 1
  | .take _ _ => 2
  | .award _ _ => 3
  | .withdraw => if w.map (·.reason) = some Reason.supply then 1 else 3

/-- The target of an entry's idle run: class gap plus its current draw (R62). -/
def QEntry.target (e : QEntry) : Nat := e.key.classGap + e.draw

/-! ### The receiver begins to listen (R66, log 36) -/

/-- Of carrier that stands when the receiver begins to listen it has what follows from that moment on. -/
def listenFrom (cdet : Bool) : Receiver := if cdet then .since 0 else .idle

/-! ### Idle runs (R62) -/

/-- A new idle run begins: a draw is made and stored in the head entry, and the run count is 0. -/
def beginRun (l : LineInterface) : LineInterface :=
  match l.queue with
  | [] => { l with run := none }
  | e :: rest =>
    let v := backoffAdvance l.backoff
    { l with backoff := v, queue := { e with draw := v.toNat % 16 } :: rest, run := some 0 }

/-- Kind and key of the head entry. -/
def headKey (q : List QEntry) : Option NoticeKey := q.head?.map (·.key)

/-- What the transmitter does when the queue has changed and `old` was the head before (Table 4-4): from IDLE an
insert starts it; in WAITING a new head begins a new run, and an empty queue returns it to IDLE. -/
def settleHead (old : Option NoticeKey) (l : LineInterface) : LineInterface :=
  match l.tx with
  | .idle => if l.queue.isEmpty then l else beginRun { l with tx := .waiting }
  | .waiting =>
    if l.queue.isEmpty then { l with tx := .idle, run := none }
    else if headKey l.queue = old then l else beginRun l
  | .sending => l
  | .jammed => l

/-- The transmitter leaves SENDING or JAMMED: WAITING with a new run where the queue holds an entry, IDLE otherwise
(R61, R72). -/
def resumeTx (l : LineInterface) : LineInterface :=
  if l.queue.isEmpty then { l with tx := .idle, run := none } else beginRun { l with tx := .waiting }

/-! ### Merging withdrawals (R73) -/

/-- An affected set reduced to the horizon of `cur` and re-expressed as slots of it. -/
def reducedSet (cur : Word) (w : WithdrawContent) : Byte :=
  (List.range 8).foldl (fun acc o =>
    let j := slotOf cur (atSlot w.first o)
    if w.affected.getLsbD o && j < 8 then acc ||| (1#8 <<< j) else acc) 0#8

/-- The lowest flag set, 0 where none is. -/
def lowestFlag (b : Byte) : Nat := ((List.range 8).find? fun o => b.getLsbD o).getD 0

/-- Two withdrawals in one: the union of the reduced sets from its earliest interval, and the more severe reason. -/
def mergeWithdraw (cur : Word) (a b : WithdrawContent) : WithdrawContent :=
  let u := reducedSet cur a ||| reducedSet cur b
  let m := lowestFlag u
  ⟨a.reason.worse b.reason, atSlot cur m, u >>> m⟩

/-- The merge of what an entry holds and what arrives; none where the kind carries no content. -/
def mergedContent (cur : Word) : Option WithdrawContent → Option WithdrawContent → Option WithdrawContent
  | some a, some b => some (mergeWithdraw cur a b)
  | some a, none => some a
  | none, b => b

/-! ### Inserts (R70, R71, Table 4-7) -/

/-- An entry joins its group's tail; an entry in flight stays at the head whatever its group (log 33). -/
def appendGroup (e : QEntry) (q : List QEntry) : List QEntry :=
  let place (q : List QEntry) : List QEntry :=
    if e.key.groupA then q.filter (·.key.groupA) ++ e :: q.filter (!·.key.groupA) else q ++ [e]
  match q with
  | h :: rest => if h.inFlight then h :: place rest else place q
  | [] => [e]

/-- A coalesced or merged entry keeps its place and its draw; its sends are reset (Table 4-7, NOTE 3). -/
def QEntry.coalesce (cur : Word) (w : Option WithdrawContent) (e : QEntry) : QEntry :=
  let c := mergedContent cur e.content w
  { e with content := c, sends := initialSends e.key c }

/-- The renewal of an entry in flight is set; a WITHDRAW's pending content is merged (R71, R73). -/
def QEntry.renew (cur : Word) (w : Option WithdrawContent) (e : QEntry) : QEntry :=
  match w with
  | none => { e with renewal := .plain }
  | some b =>
    match e.renewal with
    | .withdraw a => { e with renewal := .withdraw (mergeWithdraw cur a b) }
    | .absent => { e with renewal := .withdraw b }
    | .plain => { e with renewal := .withdraw b }

/-- The entry an insert of kind `k` evicts from a full queue (Table 4-7, NOTE 2): the PLEDGE entry where it is not in
flight; for a group A insert otherwise the last group B entry not in flight; for a PLEDGE insert none. -/
def victim (k : NoticeKey) (q : List QEntry) : Option NoticeKey :=
  let free := q.filter fun e => !e.inFlight && !e.key.groupA
  let pledge := (free.find? fun e => e.key == .pledge).map (·.key)
  match k with
  | .pledge => none
  | .take _ _ => pledge
  | .award _ _ => pledge <|> free.getLast?.map (·.key)
  | .withdraw => pledge <|> free.getLast?.map (·.key)

/-- A fresh entry; its draw is 0 until its first idle run stores one (log 39). -/
def newEntry (k : NoticeKey) (w : Option WithdrawContent) : QEntry :=
  ⟨k, w, initialSends k w, 0, false, .absent⟩

/-- The queue after an insert, and whether QUEUE_DROP is raised: for the insert dropped, or for an entry evicted. -/
def insertQueue (cur : Word) (k : NoticeKey) (w : Option WithdrawContent) (q : List QEntry) : List QEntry × Bool :=
  match q.find? fun e => e.key == k with
  | some e =>
    if e.inFlight then (q.map (fun e => if e.key = k then e.renew cur w else e), false)
    else (q.map (fun e => if e.key = k then e.coalesce cur w else e), false)
  | none =>
    if q.length < Config.queueLimit then (appendGroup (newEntry k w) q, false)
    else
      match victim k q with
      | some v => (appendGroup (newEntry k w) (q.filter fun e => e.key != v), true)
      | none => (q, true)

/-- An insert into the Transmit Queue. -/
def enqueue (k : NoticeKey) (w : Option WithdrawContent) (s : State) : State :=
  let r := insertQueue s.clock.current k w s.line.queue
  raiseWhen r.2 .queueDrop
    (s.setLine (settleHead (headKey s.line.queue) { s.line with queue := r.1 }))

/-! ### Purges (R74) -/

/-- Removes every entry not in flight whose interval fails `keep`; PLEDGE and WITHDRAW entries are not purged. -/
def purgeQueue (keep : Word → Bool) (s : State) : State :=
  let stays (e : QEntry) : Bool := e.inFlight || (e.key.interval.map keep).getD true
  s.setLine (settleHead (headKey s.line.queue) { s.line with queue := s.line.queue.filter stays })

/-! ### The end of a transmission (R72) -/

/-- Whether the entry's kind is TAKE or AWARD and its interval has ended. -/
def QEntry.ended (cur : Word) (e : QEntry) : Bool := (e.key.interval.map fun k => isBefore k cur).getD false

/-- What becomes of the entry in flight: none where it is removed, else the entry that joins its group's tail. -/
def QEntry.afterSend (cur : Word) (e : QEntry) : Option QEntry :=
  if e.ended cur then none
  else
    match e.renewal with
    | .plain => some { e with sends := initialSends e.key e.content, renewal := .absent, inFlight := false }
    | .withdraw p =>
      let c := mergedContent cur e.content (some p)
      some { e with content := c, sends := initialSends e.key c, renewal := .absent, inFlight := false }
    | .absent => if 1 < e.sends then some { e with sends := e.sends - 1, inFlight := false } else none

end Sys2Proof.Machine
end

