-- ==== Sys2Proof/Machine/Table.lean ====
section
/-! DEFINITION. The Commitment Table's own work and the Settlement Log: records created, records that become RUNNING,
records handed over, the boundary performed (R19, R27, R28, R31, R92, R165, R166). -/

namespace Sys2Proof.Machine

/-! ### The Settlement Log (R165, R166) -/

/-- The fields a settlement record takes from a held award (Table 11-3). -/
def settledAward (a : Award) : SettledAward := ⟨a.issue, a.band, a.quantity, a.conflict⟩

/-- The settlement record of a handed record, with the running fields it holds (Table 11-3); delivered energy beyond the
table's range is not clamped (log 37). -/
def settlementOf (r : CRecord) (f : RunFields) : Settlement where
  interval  := r.interval
  dir       := r.dir
  award     := r.award.map settledAward
  frozen    := r.frozen.getD 0
  finalTake := r.take
  maxTake   := f.maxTake
  minTake   := f.minTake
  delivered := truncDiv f.delivered 3600
  good      := f.good
  bad       := f.bad
  withdrawn := r.withdrawn

/-- The running fields of a record that has just become RUNNING with an own take (R27). -/
def freshRun (take : Nat) : RunFields := ⟨take, take, 0, 0, 0⟩

/-- A handed record makes a settlement record where it has a nonzero frozen pledge or holds an award (R165). -/
def makesSettlement (r : CRecord) : Bool := r.frozen.getD 0 != 0 || r.award.isSome

/-- A settlement record joins the log at its newest end; a full log loses its oldest record first (R166). -/
def addSettlement (x : Settlement) (s : State) : State :=
  let full := Config.logLimit ≤ s.host.log.length
  let kept := if full then s.host.log.drop 1 else s.host.log
  raiseEvent .settled (raiseWhen full .logOverrun (s.setHost { s.host with log := kept ++ [x] }))

/-- A record is handed to the Settlement Log (R165). -/
def handRecord (s : State) (r : CRecord) : State :=
  if makesSettlement r then addSettlement (settlementOf r (r.run.getD (freshRun r.take))) s else s

/-- The records of an interval, RAISE first. -/
def recordsOf (table : List CRecord) (k : Word) : List CRecord :=
  (findRec table k .raise).toList ++ (findRec table k .lower).toList

/-- Hands the two records of an interval over, RAISE first (R28, R10). -/
def handInterval (k : Word) (s : State) : State := (recordsOf s.table k).foldl handRecord s

/-! ### Records created -/

/-- The current band of a direction (R41). -/
def bandOf (p : PledgeEngine) : Direction → Nat
  | .raise => p.raiseBand
  | .lower => p.lowerBand

/-- An OPEN record as it enters at slot 7 (R31) or is created by a rebuild (Table 2-4). -/
def openRecord (k : Word) (d : Direction) : CRecord where
  interval    := k
  dir         := d
  state       := .opened
  live        := some 0
  frozen      := none
  frozenBand  := none
  cap         := none
  award       := none
  take        := 0
  lastSent    := none
  hold        := none
  evalPending := false
  withdrawn   := none
  run         := none

/-- A record created committed at pledge 0, CLOSED or RUNNING (Table 2-4). -/
def zeroRecord (k : Word) (d : Direction) (band : Nat) (running : Bool) : CRecord :=
  { openRecord k d with
    state      := if running then .running else .closed
    live       := none
    frozen     := some 0
    frozenBand := some band
    cap        := some 0
    run        := if running then some (freshRun 0) else none }

/-- The record a rebuild creates at slot `j` (Table 2-4). -/
def rebuiltRecord (c : StationConfig) (p : PledgeEngine) (first : Word) (j : Nat) (d : Direction) : CRecord :=
  if j ≤ c.gateLead then zeroRecord (atSlot first j) d (bandOf p d) (j == 0) else openRecord (atSlot first j) d

/-- The 16 records of a rebuild (R19). -/
def rebuiltTable (c : StationConfig) (p : PledgeEngine) (first : Word) : List CRecord :=
  (List.range 8).flatMap fun j => [rebuiltRecord c p first j .raise, rebuiltRecord c p first j .lower]

/-! ### The boundary performed (R27, R28, R31) -/

/-- A record becomes RUNNING: its running fields are set, the rest is carried over (R27). -/
def CRecord.toRunning (r : CRecord) : CRecord := { r with state := .running, run := some (freshRun r.take) }

/-- The table after a boundary that begins interval `c`: the records of c − 1 are gone, those of c are RUNNING, and
two OPEN records of c + 7 stand at slot 7. -/
def slideTable (c : Word) (table : List CRecord) : List CRecord :=
  ((table.filter fun r => r.interval != c - 1).map fun r => if r.interval = c then r.toRunning else r) ++
    [openRecord (atSlot c 7) .raise, openRecord (atSlot c 7) .lower]

/-- The Pledge Engine discards the entries of the ended interval and of every interval out of the horizon (R40). -/
def pruneEntries (cur : Word) (p : PledgeEngine) : PledgeEngine :=
  { p with
    baselines := p.baselines.filter fun e => inHorizon cur e.interval
    avails := p.avails.filter fun e => inHorizon cur e.interval }

/-- The ladders of intervals a test keeps (R92, R19). -/
def keepLadders (keep : Word → Bool) (p : PledgeEngine) : PledgeEngine :=
  { p with ladders := p.ladders.filter fun l => keep l.interval }

/-- The boundary that begins the current interval is performed at the table, and no boundary is pending any more: the
ended records are handed over and removed with their ladders, the next become RUNNING, slot 7 is created, the Pledge
Engine takes the boundary, and the take of the new RUNNING records reaches the Activation Unit (R28, R27, R31, R40,
R92, R144). -/
def performBoundary (s : State) : State :=
  let c := s.clock.current
  let s1 := handInterval (c - 1) s
  let s2 := s1.setTable (slideTable c s1.table)
  let s3 := s2.setPledge
    { pruneEntries c (keepLadders (fun k => k != c - 1) s2.pledge) with boundaryPending := false }
  recompute s3

end Sys2Proof.Machine
end

