-- ==== Sys2Proof/Machine/Pledge.lean ====
section
/-! DEFINITION. The Pledge Engine: the energy estimate, the snapshot, the fresh pledge, the single write and the offer
ladder (R40, R43 to R52, R54, R56, R90, R91). -/

namespace Sys2Proof.Machine

/-! ### The energy estimate (R43, R44) -/

/-- E_est = E_host − trunc(A / 3600), clamped to [0, E_ceil]. -/
def energyEstimate (p : PledgeEngine) : Nat :=
  (clampInt 0 p.eCeil ((p.eHost : Int) - truncDiv p.acc 3600)).toNat

/-- An addition to A stays within the signed 32-bit range (R43). -/
def accumulate (a x : Int) : Int := clampInt (-2147483648) 2147483647 (a + x)

/-- A baseline clamped to the ratings (R39, R40). -/
def clampBaseline (c : StationConfig) (v : Int) : Int := clampInt (-(c.chargeMax : Int)) c.dischargeMax v

/-- The baseline of an interval as it is used: 0 without an entry, clamped to the ratings in force (R40). -/
def baselineOf (c : StationConfig) (p : PledgeEngine) (k : Word) : Int :=
  match p.baselines.find? fun e => e.interval == k with
  | some e => clampBaseline c e.value
  | none => 0

/-- The availability flags of an interval: both set without an entry (R40). -/
def availOf (p : PledgeEngine) (k : Word) : Bool × Bool :=
  match p.avails.find? fun e => e.interval == k with
  | some e => (e.raiseFlag, e.lowerFlag)
  | none => (true, true)

/-- The flag of a direction. -/
def flagFor (f : Bool × Bool) : Direction → Bool
  | .raise => f.1
  | .lower => f.2

/-! ### Starting a computation (R48, R49, R51) -/

/-- The snapshot of a computation that starts now. -/
def snapshot (boundary refresh price : Bool) (s : State) : Computation where
  estimate  := energyEstimate s.pledge
  remaining := Config.intervalSeconds - s.clock.second
  baselines := (List.range 8).map fun j => baselineOf s.ctrl.config s.pledge (atSlot s.clock.current j)
  avails    := (List.range 8).map fun j => availOf s.pledge (atSlot s.clock.current j)
  raiseBand := s.pledge.raiseBand
  lowerBand := s.pledge.lowerBand
  errors    := s.mon.errors
  stale     := s.ctrl.stale
  openRecs  := (s.table.filter fun r => r.state == .opened).map fun r => (r.interval, r.dir)
  boundary  := boundary
  refresh   := refresh
  price     := price
  left      := Config.computationMs

/-- A computation starts: the busy flag is set with its snapshot; the lookups discard entries out of horizon
(R49, R40). -/
def startComputation (boundary refresh price : Bool) (s : State) : State :=
  let s1 := s.setPledge (pruneEntries s.clock.current s.pledge)
  s1.setPledge { s1.pledge with comp := some (snapshot boundary refresh price s1) }

/-- A trigger of Table 3-3 other than a boundary or an accepted command: in a joined state it starts a computation, or
sets the rerun request while one is in flight (R48, R51). -/
def triggerComputation (refresh : Bool) (s : State) : State :=
  if joined s then
    if busy s then s.setPledge { s.pledge with rerun := some (refresh || s.pledge.rerun.getD false) }
    else startComputation false refresh false s
  else s

/-! ### The fresh pledge (R45 to R47) -/

/-- The projected energy term X_j (R45). -/
def projectedEnergy (c : Computation) (j : Nat) : Int :=
  let base : Int := 3600 * (c.estimate : Int)
  if j = 0 then base
  else base - (c.baselines.getD 0 0 * (c.remaining : Int) + 300 * ((c.baselines.take j).drop 1).sum)

/-- The energy limit Pe. -/
def energyLimit (cfg : StationConfig) (p : PledgeEngine) (c : Computation) (j : Nat) : Direction → Nat
  | .raise => (projectedEnergy c j - 3600 * (p.eFloor : Int)).toNat / (60 * cfg.sustain)
  | .lower => (3600 * (p.eCeil : Int) - projectedEnergy c j).toNat / (60 * cfg.sustain)

/-- The rating headroom Ph. -/
def ratingHeadroom (cfg : StationConfig) (c : Computation) (j : Nat) : Direction → Nat
  | .raise => ((cfg.dischargeMax : Int) - c.baselines.getD j 0).toNat
  | .lower => ((cfg.chargeMax : Int) + c.baselines.getD j 0).toNat

/-- No RAISE pledge is offered before the host has given an energy position, also where planned charging puts the term
of R45 above 0 (R36, log 38). -/
def withheld (p : PledgeEngine) (d : Direction) : Bool := d == .raise && !p.positioned

/-- The raw pledge for an available slot of an ACTIVE station (R46, R36). -/
def rawPledge (cfg : StationConfig) (p : PledgeEngine) (c : Computation) (j : Nat) (d : Direction) (isOpen : Bool) : Nat :=
  if flagFor (c.avails.getD j (true, true)) d = false ∨ (c.stale = true ∧ isOpen = true) ∨ withheld p d = true then 0
  else min (energyLimit cfg p c j d) (ratingHeadroom cfg c j d)

/-- The derate by C, the pledge quantum and the minimum pledge (R47). -/
def quantised (cfg : StationConfig) (errors raw : Nat) : Nat :=
  let derated := raw * (16 - errors) / 16
  let pledge := derated / 10 * 10
  if pledge < cfg.minPledge then 0 else pledge

/-- The fresh pledge of a slot and direction (R45 to R47). -/
def freshPledge (cfg : StationConfig) (p : PledgeEngine) (c : Computation) (j : Nat) (d : Direction) (isOpen : Bool) : Nat :=
  quantised cfg c.errors (rawPledge cfg p c j d isOpen)

/-! ### The single write (R50, R26, R29) -/

/-- A record frozen at a pledge and band: the frozen pledge, the band and the cap are written together (R29, R32). -/
def CRecord.freeze (r : CRecord) (st : RecordState) (pledge band : Nat) : CRecord :=
  { r with state := st, live := none, frozen := some pledge, frozenBand := some band, cap := some pledge }

/-- The cap becomes the lower of the cap and the fresh pledge; a take above it is lowered to it (R26). -/
def CRecord.lowerCap (r : CRecord) (fresh : Nat) : CRecord :=
  let cap := min (r.cap.getD 0) fresh
  let r1 := { r with cap := some cap }
  if cap < r.take then r1.withTake cap else r1

/-- What a computation writes into one record; outside ACTIVE every fresh pledge is taken as 0 (Table 3-4). -/
def writtenRecord (s : State) (c : Computation) (r : CRecord) : CRecord :=
  let j := slotOf (tableFirst s) r.interval
  let isOpen := c.openRecs.any fun kd => kd.1 == r.interval && kd.2 == r.dir
  let fresh := if isActive s then freshPledge s.ctrl.config s.pledge c j r.dir isOpen else 0
  if r.state = .opened then
    if c.boundary = true ∧ 1 ≤ j ∧ j ≤ s.ctrl.config.gateLead then
      r.freeze .closed fresh (match r.dir with
        | .raise => c.raiseBand
        | .lower => c.lowerBand)
    else { r with live := some fresh }
  else r.lowerCap fresh

/-- The table after the single write. -/
def writtenTable (s : State) (c : Computation) : List CRecord := s.table.map (writtenRecord s c)

/-- The pairs whose take the write lowers to a lowered cap (R123). -/
def loweredPairs (s : State) (c : Computation) : Report :=
  (s.table.filter fun r => (writtenRecord s c r).take < r.take).map fun r => (r.interval, r.dir)

/-- The pairs the write freezes at the gate (R29). -/
def frozenPairs (s : State) (c : Computation) : Report :=
  (s.table.filter fun r => r.state == .opened && (writtenRecord s c r).state == .closed).map fun r => (r.interval, r.dir)

/-- Whether the write changes a live pledge, a cap or a freeze (R56). -/
def writeChanges (s : State) (c : Computation) : Bool :=
  s.table.any fun r =>
    let w := writtenRecord s c r
    w.live != r.live || w.cap != r.cap || w.state != r.state

/-! ### Offer ladders (R90, R91) -/

/-- The band sums of a ladder, band 0 first. -/
def ladderSums (ms : List Member) (own : Option OwnTerm) : List Nat :=
  (List.range 16).map fun b => bandSum (fun x => x == b) ms own

/-- Running sums from the first entry on. -/
def cumulativeFrom (acc : Nat) : List Nat → List Nat
  | [] => []
  | x :: rest => (acc + x) :: cumulativeFrom (acc + x) rest

/-- The ladder of a frozen record against the bid pattern and the view as it stands (Table 5-5). -/
def formLadder (s : State) (r : CRecord) : Ladder :=
  let c := s.ctrl.config
  let ms := membersOf s.view r.interval r.dir c.bidCompare c.bidMask
  let own : Option OwnTerm :=
    if zoneMatch c.zone c.bidCompare c.bidMask then some ⟨r.frozen.getD 0, r.frozenBand.getD 0⟩ else none
  let sums := ladderSums ms own
  { interval := r.interval
    dir := r.dir
    compare := c.bidCompare
    mask := c.bidMask
    bandSums := sums
    cumulative := cumulativeFrom 0 sums
    contributing := (ms.filter fun m => 0 < m.qty).length +
      (match own with
        | some o => if 0 < o.qty then 1 else 0
        | none => 0)
    staleExcluded := (s.view.filter fun p =>
      p.status == .stale && zoneMatch p.zone c.bidCompare c.bidMask && (p.entryAt r.interval).isSome).length }

/-- A ladder is held, in place of one held for the same interval and direction (R92). -/
def holdLadder (l : Ladder) (p : PledgeEngine) : PledgeEngine :=
  { p with ladders := p.ladders.filter (fun m => !(m.interval == l.interval && m.dir == l.dir)) ++ [l] }

/-- The ladder of the record of (k, d) is formed and held. -/
def addLadder (s : State) (kd : Word × Direction) : State :=
  match findRec s.table kd.1 kd.2 with
  | some r => s.setPledge (holdLadder (formLadder s r) s.pledge)
  | none => s

/-- At an uplink station a ladder is formed for each record of the list, in its order (R90). -/
def formLadders (pairs : Report) (s : State) : State :=
  if s.ctrl.config.uplink then pairs.foldl addLadder s else s

end Sys2Proof.Machine
end

