-- ==== Sys2Proof/Machine/Allocation.lean ====
section
/-! DEFINITION. The Allocation Unit: changes of the own take, the TAKE test, evaluations and their triggers, and the
acceptance of an award (R95 to R100, R106, R109, R110, R117 to R123). -/

namespace Sys2Proof.Machine

/-! ### Changes of the own take (R109, R110, R120) -/

/-- What every change of an own take brings with it: the hold timer starts at its full length, TAKE is raised, and
for a RUNNING record the Activation Unit recomputes (R110, R117, R120, R123). -/
def noteTakeChange (k : Word) (d : Direction) (running : Bool) (s : State) : State :=
  let s1 := s.updRec k d fun r => { r with hold := some (holdMs s.ctrl.config) }
  let s2 := raiseEvent .take s1
  if running then recompute s2 else s2

/-- The TAKE test: a TAKE entry is inserted where the own take is above 0 or differs from the last sent take, an
absent one counting as 0 (R109). -/
def takeTest (k : Word) (d : Direction) (s : State) : State :=
  match findRec s.table k d with
  | some r => if 0 < r.take ∨ r.take ≠ r.lastSent.getD 0 then enqueue (.take k d) none s else s
  | none => s

/-- The own take of a record is written with a new value, and the change is noted; a take written with its old value
changes nothing (R110). -/
def changeTake (k : Word) (d : Direction) (t : Nat) (s : State) : State :=
  match findRec s.table k d with
  | some r =>
    if r.take = t then s
    else noteTakeChange k d (r.state == .running) (s.updRec k d fun r => r.withTake t)
  | none => s

/-! ### Evaluations (R112 to R119) -/

/-- The own term of a record: its cap and frozen band (R104). -/
def CRecord.ownTerm (r : CRecord) : OwnTerm := ⟨r.cap.getD 0, r.frozenBand.getD 0⟩

/-- The members of the Cluster View for a record and its award (R104, R113). -/
def awardMembers (s : State) (r : CRecord) (a : Award) : List Member :=
  membersOf s.view r.interval r.dir a.compare a.mask

/-- One cover evaluation of a record that holds an award, in ACTIVE (R117). -/
def evaluate (k : Word) (d : Direction) (s : State) : State :=
  match findRec s.table k d with
  | some r =>
    match r.award with
    | some a =>
      if isActive s then
        let c := s.ctrl.config
        let t := evaluatedTake c.stationId c.overCover (awardMembers s r a) a r.ownTerm r.take
        if t = r.take then s else takeTest k d (changeTake k d t s)
      else s
    | none => s
  | none => s

/-- The pending flag of a record is set or cleared. -/
def setEvalPending (k : Word) (d : Direction) (b : Bool) (s : State) : State :=
  s.updRec k d fun r => { r with evalPending := b }

/-- An evaluation trigger for (k, d) (R118, R119, Table 7-4). -/
def triggerEvaluation (s : State) (kd : Word × Direction) : State :=
  match findRec s.table kd.1 kd.2 with
  | some r =>
    if isActive s = true ∧ r.award.isSome = true then
      if r.hold.isSome ∨ busy s = true then setEvalPending kd.1 kd.2 true s else evaluate kd.1 kd.2 s
    else s
  | none => s

/-- A view change report: each named pair is a trigger (R83, R118). -/
def actOnReport (pairs : Report) (s : State) : State := pairs.foldl triggerEvaluation s

/-! ### Merit takes (R104 to R106) -/

/-- The merit take of a record under its award is written as its own take, and the TAKE test is made (R106). -/
def writeMerit (k : Word) (d : Direction) (s : State) : State :=
  match findRec s.table k d with
  | some r =>
    match r.award with
    | some a => takeTest k d (changeTake k d (ownMerit (awardMembers s r a) a r.ownTerm) s)
    | none => s
  | none => s

/-- A merit take in ACTIVE and the trigger of the award change that follows it (R106, R118, R122). -/
def meritAndTrigger (s : State) (kd : Word × Direction) : State :=
  if isActive s then triggerEvaluation (writeMerit kd.1 kd.2 s) kd else s

/-! ### Awards (R95 to R100) -/

/-- The greater of two contents of one issue (Table 6-4): whether `a` is greater than `b`. -/
def Award.greater (a b : Award) : Bool :=
  if a.quantity ≠ b.quantity then b.quantity < a.quantity
  else if a.band ≠ b.band then b.band < a.band
  else if a.mask ≠ b.mask then b.mask.toNat < a.mask.toNat
  else b.compare.toNat < a.compare.toNat

/-- Equal clearing band, Q, zone compare and zone mask (Table 6-3). -/
def Award.sameContent (a b : Award) : Bool :=
  a.band == b.band && a.quantity == b.quantity && a.compare == b.compare && a.mask == b.mask

/-- The record with an applied award: an OPEN record is frozen at its live pledge and the current band first; OPEN and
CLOSED become AWARDED (R32, R98). -/
def CRecord.withApplied (r : CRecord) (band : Nat) (a : Award) : CRecord :=
  match r.state with
  | .opened => { r.freeze .awarded (r.live.getD 0) band with award := some a }
  | .closed => { r with state := .awarded, award := some a }
  | .awarded => { r with award := some a }
  | .running => { r with award := some a }

/-- An award is applied: stored with its conflict flag clear, AWARD raised, and in ACTIVE the merit take written
(R96, R98 to R100). -/
def applyAward (k : Word) (d : Direction) (a : Award) (s : State) : State :=
  let s1 := s.updRec k d fun r => r.withApplied (bandOf s.pledge d) { a with conflict := false }
  meritAndTrigger (raiseEvent .award s1) (k, d)

/-- A conflict: the held award's flag is set and AWARD_CONFLICT raised; a greater incoming content replaces the held
one, and in ACTIVE the merit take is written from it (R97, R99, R100). -/
def conflictAward (k : Word) (d : Direction) (a held : Award) (s : State) : State :=
  let kept : Award := if a.greater held then { a with conflict := true } else { held with conflict := true }
  let s1 := raiseEvent .awardConflict (s.updRec k d fun r => { r with award := some kept })
  if a.greater held then meritAndTrigger s1 (k, d) else s1

/-- Test 4 of Table 6-2: the incoming award against the held one (Table 6-3). None for a stale issue. -/
def compareAward (k : Word) (d : Direction) (a : Award) (r : CRecord) (s : State) : State × Option AwardOutcome :=
  match r.award with
  | none => (applyAward k d a s, some .applied)
  | some held =>
    if held.issue < a.issue then (applyAward k d a s, some .applied)
    else if a.issue < held.issue then (s, none)
    else if a.sameContent held then (s, some .duplicate)
    else (conflictAward k d a held s, some .conflict)

/-- Tests 1 to 3 of Table 6-2. -/
def awardConcerns (k : Word) (a : Award) (s : State) : Bool :=
  (s.ctrl.station == .listening || s.ctrl.station == .active || s.ctrl.station == .suspended) &&
    inHorizon (tableFirst s) k && zoneMatch s.ctrl.config.zone a.compare a.mask

/-- The acceptance procedure of an award, received or injected (R95). None where it is ignored. -/
def acceptAward (k : Word) (d : Direction) (a : Award) (s : State) : State × Option AwardOutcome :=
  if awardConcerns k a s then
    match findRec s.table k d with
    | some r => compareAward k d a r s
    | none => (s, none)
  else (s, none)

/-! ### The end of a lock (R52, R106, R119) -/

/-- The pairs of the records a test selects, in table order. -/
def pairsWhere (table : List CRecord) (sel : CRecord → Bool) : Report :=
  (table.filter sel).map fun r => (r.interval, r.dir)

/-- The merit takes of an entry into ACTIVE, made when the lock ends: one for every AWARDED or RUNNING record that
holds an award (R106). -/
def entryMerits (s : State) : State :=
  if s.entryTakesDue then
    (pairsWhere s.table fun r => r.award.isSome).foldl meritAndTrigger (s.setEntryDue false)
  else s

/-- A record whose flag is set and whose hold timer is stopped is evaluated, and its flag cleared (R119). -/
def runPending (s : State) (kd : Word × Direction) : State := evaluate kd.1 kd.2 (setEvalPending kd.1 kd.2 false s)

/-- What the Allocation Unit does when the lock ends: the merit takes of an entry into ACTIVE first, then the waiting
evaluations. The spec gives no order of the two (log 41). -/
def lockEnds (s : State) : State :=
  let s1 := entryMerits s
  (pairsWhere s1.table fun r => r.evalPending && r.hold.isNone).foldl runPending s1

end Sys2Proof.Machine
end

