-- ==== Sys2Proof/Machine/AwardCommands.lean ====
section
/-! DEFINITION. The meaning of INJECT_AWARD (R101, R102). -/

namespace Sys2Proof.Machine

/-- The issue is below that of the award held by the record of (k, d) (Table 6-6, check 7). -/
def issueBelowHeld (s : State) (k : Word) (d : Direction) (issue : Nat) : Bool :=
  ((findRec s.table k d).bind (·.award)).any fun held => decide (issue < held.issue)

/-- The checks 2 to 7 of Table 6-6, in order; none where all pass. Check 1 is made for every command (R160). -/
def injectRefusal (b : AwardBody) (s : State) : Option AnswerCode :=
  if s.ctrl.config.uplink = false then some .refusedRole
  else if s.ctrl.station ≠ .active ∧ s.ctrl.station ≠ .listening then some .refusedState
  else if busy s then some .busy
  else
    match directionOf b.direction with
    | none => some .refusedRange
    | some d =>
      if 15 < b.band.toNat then some .refusedRange
      else if inHorizon (tableFirst s) b.interval = false then some .refusedRange
      else if zoneMatch s.ctrl.config.zone b.compare b.mask = false then some .refusedRange
      else if issueBelowHeld s b.interval d b.issue.toNat then some .refusedRange
      else none

/-- An injection that passes every check is taken as a received award, an AWARD entry is inserted, and the answer
carries the outcome and the held award (R102). -/
def injectAward (b : AwardBody) (d : Direction) (s : State) : State × Answer :=
  let r := acceptAward b.interval d (awardOfBody b) s
  match r.2, (findRec r.1.table b.interval d).bind (·.award) with
  | some outcome, some held =>
    (enqueue (.award b.interval d) none r.1, ⟨.done, .injected outcome held⟩)
  | _, _ => (s, plain .refusedRange)

def serveInject (b : AwardBody) (s : State) : State × Answer :=
  match injectRefusal b s, directionOf b.direction with
  | none, some d => injectAward b d s
  | some code, _ => (s, plain code)
  | none, none => (s, plain .refusedRange)

/-- INJECT_AWARD (R101). -/
def execInjectAward (t : Transaction AwardBody) (s : State) : Result := .next (hostCommand t false serveInject s)

end Sys2Proof.Machine
end

