-- ==== Sys2Proof/Machine/Withdrawal.lean ====
section
/-! DEFINITION. The withdrawal procedure (R157, R158). -/

namespace Sys2Proof.Machine

/-- What the procedure writes into a record of its affected set (R157). -/
def CRecord.withdraw (r : CRecord) (reason : Reason) : CRecord :=
  let r1 := if r.state = .opened then { r with live := some 0 } else { r.withTake 0 with cap := some 0 }
  { r1 with withdrawn := some (match r.withdrawn with
      | some old => old.worse reason
      | none => reason) }

/-- The slots, against the table's first interval, of the records an affected set selects. -/
def affectedSlots (s : State) (sel : CRecord → Bool) : List Nat :=
  (s.table.filter sel).map fun r => slotOf (tableFirst s) r.interval

/-- The content of the WITHDRAW entry: the earliest interval of the set, and one flag for each interval as an offset
from it (R158). -/
def withdrawContent (reason : Reason) (s : State) (sel : CRecord → Bool) : WithdrawContent :=
  let slots := affectedSlots s sel
  let m := slots.foldl min 7
  ⟨reason, atSlot (tableFirst s) m, slots.foldl (fun w j => w ||| (1#8 <<< (j - m))) 0#8⟩

/-- The withdrawal procedure: the records of the affected set are written, one WITHDRAW entry is inserted, WITHDRAWN
is raised, and the changed running take reaches the Activation Unit (R157, R158). -/
def withdrawProcedure (reason : Reason) (sel : CRecord → Bool) (s : State) : State :=
  let s1 := s.setTable (s.table.map fun r => if sel r then r.withdraw reason else r)
  recompute (raiseEvent .withdrawn (enqueue .withdraw (some (withdrawContent reason s sel)) s1))

end Sys2Proof.Machine
end

