-- ==== Sys2Proof/Machine/Station.lean ====
section
/-! DEFINITION. What the blocks share across a change of station state: suspension, the entries into LISTENING and
ACTIVE, the return to UNJOINED, the resets, the boundary issued, the rebuild, and the end of a computation (R1, R6, R7,
R10 to R13, R17, R19, R50, R51, R112, R138, R145, R154). -/

namespace Sys2Proof.Machine

/-! ### Departures from ACTIVE -/

/-- Every hold timer is stopped and every evaluation-pending flag cleared (R112). -/
def stopHolds (s : State) : State :=
  (s.setTable (s.table.map fun r => { r with hold := none, evalPending := false })).setEntryDue false

/-- The part of a departure from ACTIVE that the monitor and the Allocation Unit make (R112, R154). -/
def leaveActive (s : State) : State := stopHolds (stopWindow s)

/-- A suspension request is taken: SUSPENDED with the reason, the listening timer stopped, the withdrawal procedure for
all slots and both directions, SUSPENDED raised; the setpoint returns to neutral (R12, R145). -/
def suspendStation (reason : SuspendReason) (s : State) : State :=
  let s1 := leaveActive s
  let s2 := s1.setCtrl { s1.ctrl with station := .suspended, suspendReason := some reason, listening := none }
  raiseEvent .suspended (withdrawProcedure reason.toReason (fun _ => true) s2)

/-- A delivery or inverter suspension request, taken in ACTIVE (Table 1-6). -/
def requestInActive (reason : SuspendReason) (s : State) : State :=
  if isActive s then suspendStation reason s else s

/-- A supply suspension request, taken in ACTIVE and LISTENING (Table 1-6). -/
def requestSupply (s : State) : State :=
  if s.ctrl.station = .active ∨ s.ctrl.station = .listening then suspendStation .supply s else s

/-- The supply request of a filter that is ACTIVE at the moment (R13). -/
def supplyWhenFiltered (s : State) : State :=
  if s.ctrl.filter = .active then requestSupply s else s

/-! ### Entries -/

/-- The entry into LISTENING: the listening timer starts at 3 × Tp, and a filtered supply warning applies at once
(R6, R7, R13, R14). -/
def enterListening (s : State) : State :=
  supplyWhenFiltered (s.setCtrl { s.ctrl with
    station := .listening, suspendReason := none, listening := some (listeningMs s.ctrl.config) })

/-- The state-stale timer stands at or above its limit (R15). -/
def staleDue (s : State) : Bool := s.ctrl.config.staleLimit * Config.msPerSecond ≤ s.ctrl.staleMs

/-- The state-stale condition begins where it is due and does not hold: STATE_STALE is raised (R15). -/
def beginStale (s : State) : State :=
  if staleDue s && !s.ctrl.stale then raiseEvent .stateStale (s.setCtrl { s.ctrl with stale := true }) else s

/-- The judging conditions begin with feedback PRESENT at the entry into ACTIVE (Table 10-3). -/
def beginJudging (s : State) : State :=
  if s.mon.fb = .present then startSettling s.mon.heldD s else s

/-- The requests that apply at the entry into ACTIVE; where both do, either is taken first (R7, log 5). -/
def entryRequests (s : State) : State :=
  if s.mon.fb = .lost then
    if s.ctrl.filter = .active then
      let d := drawTie 2 s
      if d.1 = 0 then requestSupply (requestInActive .inverter d.2)
      else requestInActive .inverter (requestSupply d.2)
    else requestInActive .inverter s
  else supplyWhenFiltered s

/-- The entry into ACTIVE at the end of the listening period (R7, R15, R106, R145, R154): the state-stale condition
applies, activation is recomputed, judging begins, the entry triggers a computation, an onset triggers one more, and the
pending suspension requests apply. -/
def enterActive (s : State) : State :=
  let s1 := (s.setCtrl { s.ctrl with station := .active, listening := none }).setEntryDue true
  let onset := staleDue s1 && !s1.ctrl.stale
  let s2 := triggerComputation false (beginJudging (recompute (beginStale s1)))
  entryRequests (if onset then triggerComputation false s2 else s2)

/-! ### The Line Interface switched on and off (R57) -/

/-- Off: queue and receive buffer empty, IDLE, carrier detect not watched; a frame in flight stops at once. The two
counters, the generator and the pin stay. What the receiver knew of the carrier on the line is gone, a frame closed by
its length among it: the spec is silent there (log 36). -/
def LineInterface.off (l : LineInterface) : LineInterface :=
  { LineInterface.reset with rxBad := l.rxBad, rxDropped := l.rxDropped, backoff := l.backoff, cdet := l.cdet }

/-- On, at JOIN: the generator is seeded, and carrier present on the pin counts from now, for carrier detect and for
the receiver (R6, R60, logs 16 and 36). -/
def LineInterface.on (l : LineInterface) (c : StationConfig) : LineInterface :=
  { l.off with
    backoff := backoffSeed c
    burst := if l.cdet then some 0 else none
    receiver := listenFrom l.cdet }

/-! ### The return to UNJOINED (R10, R36, R138, R153) -/

/-- The Pledge Engine on a return to UNJOINED through LEAVE (R36). -/
def PledgeEngine.idle (p : PledgeEngine) : PledgeEngine :=
  { p with comp := none, rerun := none, boundaryPending := false, refresh := none, ladders := [] }

/-- The return to UNJOINED through LEAVE: the slot 0 records are handed over, RAISE first; records, view, ladders, queue
and buffer are emptied; the line is switched off; timers and the state-stale condition are cleared (R10). -/
def returnToUnjoined (s : State) : State :=
  let s1 := handInterval (tableFirst s) s
  let s2 := s1.setCtrl { s1.ctrl with
    station := .unjoined, suspendReason := none, listening := none, leaving := none, stale := false }
  let s3 := (((s2.setTable []).setView []).setPledge s2.pledge.idle).setLine s2.line.off
  let s4 := (s3.setEntryDue false).setMon { s3.mon with samples := 0 }
  recompute s4

/-! ### Resets (R1, R4, R11, R13) -/

/-- The filter after a reset: IDLE, or TIMING from the reset where the input is active (R13). -/
def filterAtReset (warning : Bool) : SupplyFilter := if warning then .timing Config.supplyFilterMs else .idle

/-- Power-on reset: every block at its power-on value; the levels of the input pins are not the part's (log 10). -/
def powerOnState (s : State) : State :=
  { State.reset with
    ctrl := { Controller.reset with swarn := s.ctrl.swarn, filter := filterAtReset s.ctrl.swarn }
    line := { LineInterface.reset with cdet := s.line.cdet }
    ties := s.ties
    pending := s.pending }

/-- RESTART: the configuration, the event mask and the Settlement Log are kept, every other piece of state takes its
power-on value, and the phase is that of the kept configuration at interval 0 (R11, R138). -/
def restartState (s : State) : State :=
  let r := powerOnState s
  let c := s.ctrl.config
  (((r.setCtrl { r.ctrl with config := c }).setHost
    { r.host with mask := s.host.mask, log := s.host.log, sdo := s.host.sdo }).setAct
    { r.act with phase := ditherPhase c r.clock.current })

/-! ### The boundary issued (R17, Table 2-1) -/

/-- The boundary reaches the table and the Pledge Engine: held while a computation is in flight, else performed, and
the boundary computation starts (R30, R54). In UNJOINED the Pledge Engine only discards entries (R40). -/
def boundaryAtTable (s : State) : State :=
  if joined s then
    if busy s then s.setPledge { s.pledge with boundaryPending := true }
    else startComputation true false false (performBoundary s)
  else s.setPledge (pruneEntries s.clock.current s.pledge)

/-- A boundary is issued to every block that owns state tied to the interval; the interval number has become the next
one already. The phase, the queue purge and the view's pruning do not wait for a held boundary (R17, R74, R86, R139,
R144). D is formed after the table has performed a boundary that is not held; the spec leaves the order open (log
42). -/
def issueBoundary (s : State) : State :=
  let c := s.clock.current
  let s1 := purgeQueue (fun k => !isBefore k c) (recomputePhase s)
  let s2 := s1.setView (pruneView (fun k => k == c - 1) s1.view)
  recompute (boundaryAtTable s2)

/-- The interval number becomes the next, the second 0 (R17). -/
def nextInterval (s : State) : State :=
  s.setClock { s.clock with current := s.clock.current + 1, second := 0, subMs := 0 }

/-- A natural boundary: with the clock set it is issued (R17). -/
def naturalBoundary (s : State) : State :=
  if s.clock.isSet then issueBoundary (nextInterval s) else nextInterval s

/-! ### The rebuild (R19) -/

/-- The clock is set to an interval and second, and the one-second period starts afresh (R16, R19). -/
def setClockTo (k : Word) (second : Nat) (s : State) : State :=
  s.setClock { s.clock with current := k, second := second, isSet := true, subMs := 0, rebuild := none }

/-- The horizon is made anew from the current interval: 16 fresh records, and the blocks drop what lies outside
(R19). -/
def rebuildHorizon (s : State) : State :=
  let c := s.clock.current
  let s1 := s.setTable (rebuiltTable s.ctrl.config s.pledge c)
  let s2 := s1.setView (pruneView (fun k => !inHorizon c k) s1.view)
  let s3 := purgeQueue (inHorizon c) s2
  s3.setPledge (pruneEntries c (keepLadders (inHorizon c) s3.pledge))

/-- A rebuild: in UNJOINED the clock is set; in a joined state the horizon is made anew as well. The phase is
recomputed (R19, R139). A rebuild that still waits at the entry into ACTIVE is performed there, and then level,
direction, D and duty are formed anew with the new phase and the take of the fresh RUNNING records, though Table 9-5
names no rebuild and R139 lets the phase change at boundaries alone: the model's choice (logs 17 and 43). -/
def performRebuild (k : Word) (second : Nat) (s : State) : State :=
  let s1 := setClockTo k second s
  recompute (recomputePhase (if joined s then rebuildHorizon s1 else s1))

/-! ### The end of a computation (R50, R51) -/

/-- The Allocation Unit takes a take lowered to a lowered cap as its own change: TAKE raised, the hold started, a TAKE
entry inserted, and the trigger, which finds the hold running (R123). -/
def noteLowered (s : State) (kd : Word × Direction) : State :=
  let running := (findRec s.table kd.1 kd.2).any fun r => r.state == .running
  triggerEvaluation (enqueue (.take kd.1 kd.2) none (noteTakeChange kd.1 kd.2 running s)) kd

/-- A PLEDGE entry is inserted in LISTENING, ACTIVE and SUSPENDED where the write changed an offered value or the
computation carries the refresh mark or follows a SET_PRICE (R56). -/
def pledgeInsert (wanted : Bool) (s : State) : State :=
  if wanted && (s.ctrl.station == .listening || s.ctrl.station == .active || s.ctrl.station == .suspended) then
    enqueue .pledge none s
  else s

/-- What follows the write in the same event (R51): a held boundary is performed and its computation starts, absorbing
the rerun request; or a rerun starts; or the busy flag is cleared and the lock ends. -/
def afterWrite (s : State) : State :=
  let again := s.pledge.rerun
  let s1 := s.setPledge { s.pledge with rerun := none }
  if s.pledge.boundaryPending then startComputation true (again.getD false) false (performBoundary s1)
  else
    match again with
    | some mark => startComputation false mark false s1
    | none => lockEnds (s1.setPledge { s1.pledge with comp := none })

/-- A computation ends (R50): the single write, the ladders of frozen records, the lowered takes, the PLEDGE insert,
and what follows. -/
def endComputation (c : Computation) (s : State) : State :=
  let s1 := formLadders (frozenPairs s c) (s.setTable (writtenTable s c))
  let s2 := (loweredPairs s c).foldl noteLowered s1
  afterWrite (pledgeInsert (writeChanges s c || c.refresh || c.price) s2)

end Sys2Proof.Machine
end

