-- ==== Sys2Proof/Machine/ClockEvents.lean ====
section
/-! DEFINITION. The meanings of INTERVAL_MARK and of the Interval Clock's own steps (R16 to R21). -/

namespace Sys2Proof.Machine

/-! ### INTERVAL_MARK -/

/-- A forward mark or a rebuild taken earlier is still being performed (R18, check 3). -/
def markInProgress (s : State) : Bool := s.clock.mark.isSome || s.clock.rebuild.isSome

/-- The clock is set and the station ACTIVE or SUSPENDED: a mark moves within the interval or forward (Table 2-3). -/
def marksForward (s : State) : Bool :=
  s.clock.isSet && (s.ctrl.station == .active || s.ctrl.station == .suspended)

/-- The second is replaced and the one-second period restarts (R20, R16). -/
def replaceSecond (second : Nat) (s : State) : State :=
  s.setClock { s.clock with second := second, subMs := 0 }

/-- A forward mark of `d` intervals is taken up; its boundaries follow as MARK_BOUNDARY steps (R21, log 6). -/
def beginMark (d second : Nat) (s : State) : State :=
  s.setClock { s.clock with mark := some ⟨d, second⟩ }

/-- A rebuild waits for the Pledge Engine; it is performed as a REBUILD step (R19, log 6). -/
def beginRebuild (b : MarkBody) (s : State) : State :=
  s.setClock { s.clock with rebuild := some ⟨b.interval, b.second.toNat⟩ }

/-- An accepted mark (Table 2-3). -/
def acceptMark (b : MarkBody) (s : State) : State :=
  let d := (b.interval - s.clock.current).toNat
  if marksForward s then
    if d = 0 then replaceSecond b.second.toNat s else beginMark d b.second.toNat s
  else if joined s then beginRebuild b s
  else performRebuild b.interval b.second.toNat s

/-- The checks 2 to 4 of Table 2-2; check 1 is made for every command (R160). -/
def serveMark (b : MarkBody) (s : State) : State × Answer :=
  if 299 < b.second.toNat then (s, plain .refusedRange)
  else if markInProgress s then (s, plain .busy)
  else if marksForward s && 7 < (b.interval - s.clock.current).toNat then (s, plain .refusedRange)
  else (acceptMark b s, plain .done)

/-- INTERVAL_MARK (R18). -/
def execIntervalMark (t : Transaction MarkBody) (s : State) : Result := .next (hostCommand t false serveMark s)

/-! ### Counting -/

/-- The second within the interval advances and the one-second period starts afresh (R16). -/
def nextSecond (s : State) : State := s.setClock { s.clock with second := s.clock.second + 1, subMs := 0 }

/-- Whether a natural boundary can occur: the clock counts, and no boundary is held at the table, since at most one is
held at a time (R30, log 3). -/
def boundaryCanOccur (s : State) : Bool := clockCounts s && !s.pledge.boundaryPending

/-- CLOCK_SECOND: the one-second period expires (R16). At second 299 that moment is the boundary (R17, log 31). While
a mark or a rebuild is being performed the clock does not count (R19, R21). -/
def execClockSecond (s : State) : Result :=
  .next (if s.clock.second < 299 then
      if clockCounts s then nextSecond s else s
    else if boundaryCanOccur s then naturalBoundary s else s)

/-- INTERVAL_BOUNDARY: second 299 has stood for one full second (R17). -/
def execIntervalBoundary (s : State) : Result :=
  .next (if boundaryCanOccur s && decide (s.clock.second = 299) then naturalBoundary s else s)

/-! ### Marks and rebuilds performed -/

/-- No computation is in flight and no boundary pending (R19, R21). -/
def engineFree (s : State) : Bool := !busy s && !s.pledge.boundaryPending

/-- One boundary of a forward mark is issued; after the last one the second is set and the one-second period
restarted (R21, log 13). -/
def performMarkBoundary (m : ForwardMark) (s : State) : State :=
  let s1 := nextInterval s
  if m.left ≤ 1 then
    replaceSecond m.second (issueBoundary (s1.setClock { s1.clock with mark := none }))
  else issueBoundary (s1.setClock { s1.clock with mark := some { m with left := m.left - 1 } })

/-- MARK_BOUNDARY (R21). -/
def execMarkBoundary (s : State) : Result :=
  .next (match s.clock.mark with
    | some m => if engineFree s then performMarkBoundary m s else s
    | none => s)

/-- REBUILD: a waiting rebuild falls due (R19). -/
def execRebuild (s : State) : Result :=
  .next (match s.clock.rebuild with
    | some w => if engineFree s then performRebuild w.interval w.second s else s
    | none => s)

end Sys2Proof.Machine
end

