-- ==== Sys2Proof/Machine/DeliveryEvents.lean ====
section
/-! DEFINITION. The meanings of the Delivery Monitor's events (R151 to R156). -/

namespace Sys2Proof.Machine

/-- A feedback period is valid when it lasts 800 µs to 1250 µs and holds one falling edge (R151); counts of 100 ns
(log 8). -/
def feedbackValid (period falls : Nat) : Bool := 8000 ≤ period && period ≤ 12500 && falls == 1

/-- The feedback duty of a period (R151). -/
def feedbackDuty (period high : Nat) : Nat := (clampInt 0 1024 (roundDiv (1024 * (high : Int)) period)).toNat

/-- The feedback delta of a duty (R151). -/
def feedbackDelta (scale duty : Nat) : Int := roundDiv (((duty : Int) - 512) * scale) 512

/-- FEEDBACK_PERIOD: a valid period sets the feedback duty and F and makes feedback PRESENT; an invalid one is
discarded (R151, R152). -/
def execFeedbackPeriod (period high falls : Nat) (s : State) : Result :=
  .next (if feedbackValid period falls then
      s.setMon { s.mon with
        fbDuty := feedbackDuty period high
        f := feedbackDelta (pScale s.ctrl.config) (feedbackDuty period high)
        fb := .present
        lossMs := 0 }
    else s)

/-- Feedback becomes LOST: verification stops, and in ACTIVE the inverter suspension request is issued (R152, R154). -/
def loseFeedback (s : State) : State :=
  requestInActive .inverter (stopWindow (s.setMon { s.mon with fb := .lost, lossMs := Config.feedbackLossMs }))

/-- FEEDBACK_LOST (R152). -/
def execFeedbackLost (s : State) : Result :=
  .next (if s.mon.fb = .present then loseFeedback s else s)

/-! ### Delivered energy (R153, R43) -/

/-- The delivered delta of a second, in the direction of a record (R153). -/
def towardRecord (d : Direction) (x : Int) : Int :=
  match d with
  | .raise => x
  | .lower => -x

/-- The delivered delta reaches the accumulator with the baseline of the current interval (R43, R40). -/
def accumulateDelivered (x : Int) (s : State) : State :=
  let p := pruneEntries s.clock.current s.pledge
  s.setPledge { p with acc := accumulate p.acc (x + baselineOf s.ctrl.config p s.clock.current) }

/-- The end of a measurement period (R153). Delivered energy grows without a bound (log 37). -/
def endMeasurement (s : State) : State :=
  let x := roundDiv s.mon.samples 1000
  let s1 := (accumulateDelivered x s).updRunning fun d f => { f with delivered := f.delivered + towardRecord d x }
  s1.setMon { s1.mon with samples := 0, measureMs := 0 }

/-- MEASUREMENT_PERIOD_END (R153). -/
def execMeasurementPeriodEnd (s : State) : Result := .next (endMeasurement s)

/-! ### Verdicts (R154 to R156) -/

/-- A judge period starts with empty sums (R154). -/
def startJudging (s : State) : State :=
  s.setMon { s.mon with window := .judging, settling := none, judgeMs := some 0, dSum := 0, fSum := 0 }

/-- SETTLING_EXPIRY: the window enters JUDGING (R154). -/
def execSettlingExpiry (s : State) : Result :=
  .next (if s.mon.window = .settling then startJudging s else s)

/-- The verdict of a judge period (R155): whether it is good. -/
def verdictGood (meanD meanF : Int) : Bool := (meanF - meanD).natAbs ≤ max 20 (meanD.natAbs / 16)

/-- Whether a verdict at a mean D counts in the record of a direction (R155). -/
def verdictConcerns (meanD : Int) : Direction → Bool
  | .raise => 0 ≤ meanD
  | .lower => meanD ≤ 0

/-- The verdict is counted in the RUNNING records; a count stays at 300 (R155). -/
def countVerdict (good : Bool) (meanD : Int) (s : State) : State :=
  s.updRunning fun d f =>
    if verdictConcerns meanD d then
      if good then { f with good := min 300 (f.good + 1) } else { f with bad := min 300 (f.bad + 1) }
    else f

/-- A good verdict at the error counter: the sixteenth in a row lowers C where it is above 0 (R156). -/
def goodVerdict (s : State) : State :=
  if s.mon.goodRun + 1 < 16 then s.setMon { s.mon with goodRun := s.mon.goodRun + 1 }
  else if s.mon.errors = 0 then s.setMon { s.mon with goodRun := 0 }
  else triggerComputation false (s.setMon { s.mon with goodRun := 0, errors := s.mon.errors - 1 })

/-- A bad verdict at the error counter: C rises, and at T the delivery suspension request is taken; each change triggers
a computation (R156). -/
def badVerdict (s : State) : State :=
  let s1 := s.setMon { s.mon with goodRun := 0, errors := s.mon.errors + 1 }
  if s.ctrl.config.suspendAt ≤ s.mon.errors + 1 then
    triggerComputation false (requestInActive .delivery s1)
  else triggerComputation false s1

/-- The end of a judge period: the verdict is counted, the next judge period starts, and the verdict reaches the error
counter (R154 to R156). -/
def endJudgePeriod (s : State) : State :=
  let meanD := roundDiv s.mon.dSum 1000
  let meanF := roundDiv s.mon.fSum 1000
  let good := verdictGood meanD meanF
  let s1 := startJudging (countVerdict good meanD s)
  if good then goodVerdict s1 else badVerdict s1

/-- JUDGE_PERIOD_END (R155): verdicts are made only under the judging conditions. -/
def execJudgePeriodEnd (s : State) : Result :=
  .next (if s.mon.window = .judging then endJudgePeriod s else s)

end Sys2Proof.Machine
end

