-- ==== Sys2Proof/Machine/FreqOps.lean ====
section
/-! DEFINITION. The shared operations of the Frequency Meter: windows, valid and invalid periods, the frequency value,
and the reset a changed configuration makes (R129 to R136, R140). -/

namespace Sys2Proof.Machine

/-- The nominal period in counts (section 8.1). -/
def nominalCounts : Nominal → Nat
  | .hz50 => 200000
  | .hz60 => 166667

/-- A fraction of the nominal period in whole counts, halves away from zero (R129). -/
def windowBound (n : Nominal) (percent : Nat) : Nat := (nominalCounts n * percent + 50) / 100

/-- The 150 % of the nominal period at which the miss timer expires (R131). -/
def missBound (s : State) : Nat := windowBound s.ctrl.config.nominal 150

/-- The classes of a crossing (Table 8-2). -/
inductive PeriodClass where
  | glitch
  | short
  | valid
  | long
  deriving DecidableEq, Repr

/-- The class of a count against the windows (Table 8-2). -/
def classify (n : Nominal) (count : Nat) : PeriodClass :=
  if count < windowBound n 40 then .glitch
  else if count < windowBound n 90 then .short
  else if count ≤ windowBound n 110 then .valid
  else .long

/-- The measured frequency of a ring of N periods (R133). -/
def frequencyOf (n : Nat) (ring : List Nat) : Nat :=
  (clampInt 45000 66000 (roundDiv (10000000000 * (n : Int)) ring.sum)).toNat

/-- A value is handed to the Activation Unit with the state VALID, and is a recomputation (R133, R140, R144). -/
def handOverValue (f : Nat) (s : State) : State :=
  recompute (s.setAct { s.act with heldFreq := some f, heldState := .valid })

/-- The state INVALID is handed to the Activation Unit (R134, R136, R140). -/
def handOverInvalid (s : State) : State := recompute (s.setAct { s.act with heldState := .invalid })

/-- The value is computed from the ring and handed over with the state VALID (R133, R135). -/
def computeValue (s : State) : State :=
  let f := frequencyOf s.ctrl.config.averaging s.freq.ring
  handOverValue f (s.setFreq { s.freq with measured := some f, state := .valid })

/-- The last `n` entries of a list. -/
def lastEntries (n : Nat) (xs : List Nat) : List Nat := xs.drop (xs.length - n)

/-- A valid period joins the ring at its newest end; in VALID, and in INVALID once the ring holds N periods, a value is
computed (R132, R135). -/
def validPeriod (n : Nat) (s : State) : State :=
  let ring := lastEntries s.ctrl.config.averaging (s.freq.ring ++ [n])
  let s1 := s.setFreq { s.freq with ring := ring, invalids := 0 }
  if s.freq.state = .valid ∨ ring.length = s.ctrl.config.averaging then computeValue s1 else s1

/-- An invalid period (R134, R135): in VALID the third in a row empties the ring and makes the meter INVALID; in
INVALID it empties the ring, and the count stays at 3. -/
def invalidPeriod (s : State) : State :=
  match s.freq.state with
  | .valid =>
    if 3 ≤ s.freq.invalids + 1 then
      handOverInvalid (raiseEvent .freqInvalid
        (s.setFreq { s.freq with ring := [], invalids := 3, state := .invalid }))
    else s.setFreq { s.freq with invalids := s.freq.invalids + 1 }
  | .invalid => s.setFreq { s.freq with ring := [], invalids := min 3 (s.freq.invalids + 1) }

/-- A crossing becomes the reference, and the miss timer restarts from 0 (R130). -/
def newReference (count : Nat) (s : State) : State :=
  s.setFreq { s.freq with reference := some count, missStart := count }

/-- The free-running count has reached at least `count` (log 7). -/
def reachCount (count : Nat) (s : State) : State := s.setFreq { s.freq with count := max s.freq.count count }

/-- The reset that a changed nominal frequency or N makes (R136). -/
def meterReconfigured (old : StationConfig) (s : State) : State :=
  if s.ctrl.config.nominal = old.nominal ∧ s.ctrl.config.averaging = old.averaging then s
  else
    let s1 := s.setFreq { FrequencyMeter.reset with count := s.freq.count, missStart := s.freq.count }
    if s.freq.state = .valid then handOverInvalid (raiseEvent .freqInvalid s1) else s1

end Sys2Proof.Machine
end

