-- ==== Sys2Proof/Machine/FreqEvents.lean ====
section
/-! DEFINITION. The meanings of the Frequency Meter's events and of the PWM period (R130, R131, R146). -/

namespace Sys2Proof.Machine

/-- A crossing classed against the reference (R130). -/
def crossingFrom (reference count : Nat) (s : State) : State :=
  match classify s.ctrl.config.nominal (count - reference) with
  | .glitch => s
  | .short => newReference count (invalidPeriod s)
  | .valid => newReference count (validPeriod (count - reference) s)
  | .long => newReference count (invalidPeriod s)

/-- An invalid period for each of a number of missed ones; from the third on none changes anything more (R134, R135). -/
def invalidPeriods : Nat → State → State
  | 0, s => s
  | n + 1, s => invalidPeriods n (invalidPeriod s)

/-- How often the miss timer expires before a crossing at a count; a crossing at the very count of an expiry is taken
before it (R131, log 7). -/
def missesBefore (count : Nat) (s : State) : Nat := (count - s.freq.missStart - 1) / missBound s

/-- A missed period for each expiry of the miss timer before a crossing at a count (R131). -/
def recordMisses (count : Nat) (s : State) : State :=
  let n := missesBefore count s
  if n = 0 then s
  else invalidPeriods (min 3 n)
    (s.setFreq { s.freq with reference := none, missStart := s.freq.missStart + n * missBound s })

/-- A crossing at a count, the miss timer's expiries before it recorded: without a reference it becomes the reference
and makes no period (R130). -/
def takeCrossing (count : Nat) (s : State) : State :=
  match s.freq.reference with
  | some reference => crossingFrom reference count s
  | none => newReference count s

/-- CROSSING (R130, R131). -/
def execCrossing (count : Nat) (s : State) : Result := .next (takeCrossing count (reachCount count (recordMisses count s)))

/-- MISSED_PERIOD (R131): the miss timer has reached 150 %; the reference is discarded, the timer restarts, and the
missed period is an invalid period. -/
def execMissedPeriod (s : State) : Result :=
  let at' := s.freq.missStart + missBound s
  let s1 := s.setFreq { s.freq with reference := none, missStart := at' }
  .next (invalidPeriod (reachCount at' s1))

/-- PWM_PERIOD_START: the setpoint line takes up the last computed duty count (R146). -/
def execPwmPeriodStart (s : State) : Result :=
  .next (s.setAct { s.act with lineDuty := s.act.duty, pwmDue := false })

end Sys2Proof.Machine
end

