-- ==== Sys2Proof/Machine/Lifecycle.lean ====
section
/-! DEFINITION. The meanings of the resets, of the transactions without an effect, and of the lifecycle commands and
events (Chapter 1; R159, R160). -/

namespace Sys2Proof.Machine

/-- POWER_ON_RESET (R1). -/
def execPowerOnReset (s : State) : Result := .next (powerOnState s)

/-- NO_COMMAND_TRANSACTION: the held answer is collected and no new one is held (R159). -/
def execNoCommandTransaction (clocked : Nat) (s : State) : Result := .next (clockOut clocked s)

/-- UNKNOWN_COMMAND: answered UNKNOWN_COMMAND; no other state changes (R160). -/
def execUnknownCommand (clocked : Nat) (_code : Byte) (s : State) : Result :=
  .next (holdAnswer (plain .unknownCommand) (clockOut clocked s))

/-! ### CONFIGURE -/

/-- C and the good-run count are set to 0 where the list stores a T not above the C held (R150). -/
def thresholdReset (items : List Item) (s : State) : State :=
  if items.any (fun i => i.id == 11) && decide (s.ctrl.config.suspendAt ≤ s.mon.errors) then
    s.setMon { s.mon with errors := 0, goodRun := 0 }
  else s

/-- A CONFIGURE list is stored (R3); the blocks that take it up at once are the Delivery Monitor (R150) and the
Frequency Meter (R136). -/
def storeConfiguration (items : List Item) (s : State) : State :=
  let old := s.ctrl.config
  let s1 := s.setCtrl { s.ctrl with config := storeItems items old }
  meterReconfigured old (thresholdReset items s1)

/-- CONFIGURE is taken as a whole (R3). -/
def serveConfigure (items : List Item) (s : State) : State × Answer :=
  if s.ctrl.station ≠ .unjoined then (s, plain .refusedState)
  else if items.all itemAllowed then
    let s1 := storeConfiguration items s
    (s1, ⟨.done, .config s1.ctrl.config⟩)
  else (s, plain .refusedRange)

/-- CONFIGURE (R3). -/
def execConfigure (t : Transaction (List Item)) (s : State) : Result :=
  .next (hostCommand t false serveConfigure s)

/-! ### JOIN -/

/-- The checks of Table 1-4, in order; none where all pass. -/
def joinRefusal (s : State) : Option AnswerCode :=
  let c := s.ctrl.config
  if s.ctrl.station ≠ .unjoined then some .refusedState
  else if s.clock.isSet = false then some .refusedState
  else if c.stationId = 0 then some .refusedConfig
  else if pScale c < 10 then some .refusedConfig
  else if c.fullDeviation ≤ c.deadband then some .refusedConfig
  else none

/-- C and the good-run count become 0 (R150); a change of C is a trigger (R156). -/
def clearErrors (s : State) : State := s.setMon { s.mon with errors := 0, goodRun := 0 }

/-- An accepted JOIN (R6): C is 0, the line is switched on, the 16 records are built, the view is empty, the phase is
recomputed (R139), the refresh timer starts (R55), LISTENING is entered, and a changed C triggers a computation
(R156). -/
def joinStation (s : State) : State :=
  let c := s.ctrl.config
  let changed := s.mon.errors != 0
  let s1 := ((clearErrors s).setLine (s.line.on c)).setView []
  let s2 := (s1.setTable (rebuiltTable c s1.pledge s1.clock.current)).setPledge
    { s1.pledge with refresh := some (c.refreshPeriod * Config.msPerSecond) }
  let s3 := enterListening (recomputePhase s2)
  if changed then triggerComputation false s3 else s3

def serveJoin (_ : Unit) (s : State) : State × Answer :=
  match joinRefusal s with
  | some code => (s, plain code)
  | none => (joinStation s, plain .done)

/-- JOIN (R5, R6). -/
def execJoin (t : Transaction Unit) (s : State) : Result := .next (hostCommand t false serveJoin s)

/-! ### LEAVE, RESTART, CLEAR_SUSPEND -/

/-- LEAVE in ACTIVE: LEAVING with its timer, and the withdrawal procedure with reason LEAVE (R8). -/
def beginLeaving (s : State) : State :=
  let s1 := leaveActive s
  withdrawProcedure .leave (fun _ => true)
    (s1.setCtrl { s1.ctrl with station := .leaving, leaving := some Config.leavingMs })

/-- LEAVE by station state (Table 1-5). -/
def serveLeave (_ : Unit) (s : State) : State × Answer :=
  match s.ctrl.station with
  | .unjoined => (s, plain .refusedState)
  | .listening => (returnToUnjoined s, plain .done)
  | .active => (beginLeaving s, plain .done)
  | .suspended => (clearErrors (returnToUnjoined s), plain .done)
  | .leaving => (s, plain .refusedState)

/-- LEAVE (R8). -/
def execLeave (t : Transaction Unit) (s : State) : Result := .next (hostCommand t false serveLeave s)

def serveRestart (_ : Unit) (s : State) : State × Answer := (restartState s, plain .done)

/-- RESTART (R11). -/
def execRestart (t : Transaction Unit) (s : State) : Result := .next (hostCommand t true serveRestart s)

/-- The refusals of Table 1-7. -/
def clearSuspendRefused (s : State) : Bool :=
  match s.ctrl.station, s.ctrl.suspendReason with
  | .suspended, some .inverter => s.mon.fb == .lost
  | .suspended, some .supply => s.ctrl.filter == .active
  | .suspended, _ => false
  | _, _ => true

/-- An accepted CLEAR_SUSPEND: C is 0, LISTENING is entered, and a changed C triggers a computation (R14, R156). -/
def clearSuspension (s : State) : State :=
  let changed := s.mon.errors != 0
  let s1 := enterListening (clearErrors s)
  if changed then triggerComputation false s1 else s1

def serveClearSuspend (_ : Unit) (s : State) : State × Answer :=
  if clearSuspendRefused s then (s, plain .refusedState) else (clearSuspension s, plain .done)

/-- CLEAR_SUSPEND (R14). -/
def execClearSuspend (t : Transaction Unit) (s : State) : Result := .next (hostCommand t false serveClearSuspend s)

/-! ### Timers and the supply warning -/

/-- LISTENING_TIMER_EXPIRY: from LISTENING to ACTIVE (R7). -/
def execListeningTimerExpiry (s : State) : Result :=
  .next (if s.ctrl.station = .listening ∧ s.ctrl.listening.isSome = true then enterActive s else s)

/-- LEAVING_TIMER_EXPIRY: from LEAVING to UNJOINED (R9). -/
def execLeavingTimerExpiry (s : State) : Result :=
  .next (if s.ctrl.station = .leaving ∧ s.ctrl.leaving.isSome = true then returnToUnjoined s else s)

/-- The state-stale timer reaches its limit (R15): in ACTIVE the condition begins, and its onset triggers a
computation. -/
def reachStaleLimit (s : State) : State :=
  let s1 := s.setCtrl { s.ctrl with staleMs := max s.ctrl.staleMs (s.ctrl.config.staleLimit * Config.msPerSecond) }
  if isActive s1 && !s1.ctrl.stale then triggerComputation false (beginStale s1) else s1

/-- STATE_STALE_LIMIT (R15). -/
def execStateStaleLimit (s : State) : Result := .next (reachStaleLimit s)

/-- SUPPLY_WARNING_ACTIVE: the input becomes active and TIMING begins (R13). -/
def execSupplyWarningActive (s : State) : Result :=
  .next (if s.ctrl.swarn then s
    else s.setCtrl { s.ctrl with swarn := true, filter := .timing Config.supplyFilterMs })

/-- SUPPLY_WARNING_INACTIVE: the input becomes inactive and the filter returns to IDLE (R13). -/
def execSupplyWarningInactive (s : State) : Result :=
  .next (s.setCtrl { s.ctrl with swarn := false, filter := .idle })

/-- Whether the filter is TIMING. -/
def SupplyFilter.isTiming : SupplyFilter → Bool
  | .timing _ => true
  | .idle => false
  | .active => false

/-- SUPPLY_FILTER_EXPIRY: the filter enters ACTIVE, and the supply request is issued in ACTIVE and LISTENING (R13). -/
def execSupplyFilterExpiry (s : State) : Result :=
  .next (if s.ctrl.filter.isTiming then requestSupply (s.setCtrl { s.ctrl with filter := .active }) else s)

end Sys2Proof.Machine
end

