-- ==== Sys2Proof/Machine/LineEvents.lean ====
section
/-! DEFINITION. The meanings of the line's events: carrier sense, transmissions, jams and received frames (R58 to
R68, R72, R75, R9). -/

namespace Sys2Proof.Machine

/-! ### Carrier sense (R59) -/

/-- Carrier detect is watched while the Line Interface is on and the transmitter is not SENDING (R59). -/
def carrierWatched (s : State) : Bool := joined s && s.line.tx != .sending

/-- In WAITING a run is abandoned when the line becomes busy (R62). -/
def abandonRun (l : LineInterface) : LineInterface := if l.tx = .waiting then { l with run := none } else l

/-- The line becomes idle again; in WAITING a new run begins (R59, R62). -/
def becomeIdle (l : LineInterface) : LineInterface :=
  let l1 := { l with carrier := false, idleMs := 0 }
  if l.tx = .waiting then beginRun l1 else l1

/-- Carrier rises: a burst begins, and the frame of an earlier stretch of carrier is over. -/
def carrierRises (watched : Bool) (l : LineInterface) : LineInterface :=
  let l1 := { l with cdet := true, receiver := .idle }
  if watched then { l1 with burst := some 0 } else l1

/-- Carrier falls: a burst that was line carrier ends the busy line, and a shorter one is a glitch without effect
(R59). The frame it closes may still be taken up at this moment (R66, log 36). -/
def carrierFalls (watched : Bool) (l : LineInterface) : LineInterface :=
  let l1 := { l with cdet := false }
  if watched then
    if l1.carrier then becomeIdle { l1 with burst := none } else { l1 with burst := none }
  else l1

/-- CARRIER_DETECT_CHANGE (R59). -/
def execCarrierDetectChange (active : Bool) (s : State) : Result :=
  .next (if s.line.cdet = active then s
    else if active then s.setLine (carrierRises (carrierWatched s) s.line)
    else s.setLine (carrierFalls (carrierWatched s) s.line))

/-- A stretch of line carrier begins: the receiver has the whole of it, unless it stood already when the receiver began
to listen (R66). -/
def Receiver.onCarrier : Receiver → Receiver
  | .idle => .whole
  | .whole => .whole
  | .since ms => .since ms

/-- LINE_CARRIER: the burst has been present for 2 ms; the line is busy (R59). -/
def execLineCarrier (s : State) : Result :=
  .next (if carrierWatched s && s.line.burst.isSome && !s.line.carrier then
      s.setLine (abandonRun { s.line with carrier := true, idleMs := 0, receiver := s.line.receiver.onCarrier })
    else s)

/-! ### Transmission (R62 to R64) -/

/-- The band and quantity a PLEDGE carries for a record (R63). -/
def offeredBy (p : PledgeEngine) (r : CRecord) : Nat × Nat :=
  if r.state = .opened then (bandOf p r.dir, r.live.getD 0) else (r.frozenBand.getD 0, r.cap.getD 0)

/-- Band and quantity of a pair; 0 where the table holds no record. -/
def offerAt (s : State) (k : Word) (d : Direction) : Nat × Nat :=
  match findRec s.table k d with
  | some r => offeredBy s.pledge r
  | none => (0, 0)

/-- The slot entry of a PLEDGE for a slot (R63). -/
def offeredEntry (s : State) (j : Nat) : SlotEntry :=
  let k := atSlot (tableFirst s) j
  { raiseBand := .ofNat 4 (offerAt s k .raise).1
    lowerBand := .ofNat 4 (offerAt s k .lower).1
    raiseQty := .ofNat 16 (offerAt s k .raise).2
    lowerQty := .ofNat 16 (offerAt s k .lower).2 }

/-- Whether an entry carries a nonzero quantity. -/
def SlotEntry.nonzero (e : SlotEntry) : Bool := e.raiseQty != 0 || e.lowerQty != 0

/-- The entries without the trailing ones whose quantities are zero. -/
def trimEntries : List SlotEntry → List SlotEntry
  | [] => []
  | e :: rest =>
    match trimEntries rest with
    | [] => if e.nonzero then [e] else []
    | r :: rs => e :: r :: rs

/-- The entries a PLEDGE carries: up to the highest slot with a nonzero quantity, and at least one (R63). -/
def pledgeEntries (s : State) : List SlotEntry :=
  match trimEntries ((List.range 8).map (offeredEntry s)) with
  | [] => [offeredEntry s 0]
  | e :: rest => e :: rest

/-- The body of the frame of a head entry; none for a TAKE or AWARD whose record is gone or holds no award
(R63, R64). -/
def assembleBody (s : State) (e : QEntry) : Option NoticeBody :=
  match e.key with
  | .pledge => some (.pledge (tableFirst s) (pledgeEntries s))
  | .take k d =>
    (findRec s.table k d).bind fun r =>
      r.award.map fun a => .take k d (.ofNat 8 a.issue) (.ofNat 16 r.take)
  | .award k d =>
    ((findRec s.table k d).bind (·.award)).map fun a =>
      .award k d (.ofNat 8 a.issue) (.ofNat 4 a.band) (.ofNat 16 a.quantity) a.compare a.mask
  | .withdraw => e.content.map fun w => .withdraw w.reason w.first w.affected

/-- The frame of a body, preamble first, with the stored id and zone code (R58). -/
def assembleFrame (s : State) (b : NoticeBody) : List Byte :=
  preamble ++ frameBytes ⟨.ofNat 8 s.ctrl.config.stationId, s.ctrl.config.zone, b⟩

/-- A TAKE's take is written into its record as the last sent take (R64). -/
def noteSent (k : NoticeKey) (s : State) : State :=
  match k with
  | .take k d => s.updRec k d fun r => { r with lastSent := some r.take }
  | .pledge => s
  | .award _ _ => s
  | .withdraw => s

/-- The head entry is put in flight with its frame (R63). A frame being collected is abandoned uncounted (R66). -/
def startSending (e : QEntry) (rest : List QEntry) (b : NoticeBody) (s : State) : State :=
  let bytes := assembleFrame s b
  let s1 := s.setLine { s.line with
    tx := .sending, queue := { e with inFlight := true } :: rest
    run := none, burst := none, carrier := false, idleMs := 0, receiver := .idle
    sending := some ⟨bytes, lineThirds bytes⟩ }
  noteSent e.key s1

/-- The run of the head has reached its target: it is assembled and put in flight, or removed without a send
(R62 to R64, log 24). -/
def completeRun (s : State) : State :=
  match s.line.queue with
  | [] => s
  | e :: rest =>
    match assembleBody s e with
    | some b => startSending e rest b s
    | none => s.setLine (settleHead (some e.key) { s.line with queue := rest })

/-- IDLE_RUN_COMPLETE (R62). -/
def execIdleRunComplete (s : State) : Result :=
  .next (if joined s && s.line.tx == .waiting && s.line.run.isSome && !s.line.carrier then completeRun s else s)

/-- The line after the end of a transmission: taken as idle, and carrier then present counts from now, for carrier
detect and for the receiver (R59, R66). -/
def afterTransmission (l : LineInterface) : LineInterface :=
  { l with sending := none, carrier := false, idleMs := 0, burst := if l.cdet then some 0 else none
           receiver := listenFrom l.cdet }

/-- The queue after the end handling of its head (R72). -/
def endHandled (cur : Word) (e : QEntry) (rest : List QEntry) : List QEntry :=
  match e.afterSend cur with
  | some kept => appendGroup kept rest
  | none => rest

/-- A transmission ends: the end handling, the transmitter's next state, and in LEAVING the return to UNJOINED where
the removal empties the queue (R72, R75, R9). -/
def endTransmission (s : State) : State :=
  match s.line.queue with
  | [] => s.setLine (resumeTx (afterTransmission s.line))
  | e :: rest =>
    let queue := endHandled s.clock.current e rest
    let s1 := s.setLine (resumeTx { afterTransmission s.line with queue := queue })
    if s.ctrl.station = .leaving ∧ queue.isEmpty then returnToUnjoined s1 else s1

/-- TRANSMISSION_END (R72). -/
def execTransmissionEnd (s : State) : Result :=
  .next (if joined s && s.line.tx == .sending then endTransmission s else s)

/-! ### Jams (R61) -/

/-- LINE_JAM: 400 ms of line carrier put the transmitter in JAMMED (R61). -/
def execLineJam (s : State) : Result :=
  .next (if joined s && s.line.carrier && (s.line.tx == .idle || s.line.tx == .waiting) then
      raiseEvent .lineJam (s.setLine { s.line with tx := .jammed, run := none })
    else s)

/-- JAM_CLEAR: 50 ms of idle line end JAMMED (R61). -/
def execJamClear (s : State) : Result :=
  .next (if joined s && s.line.tx == .jammed && !s.line.carrier then s.setLine (resumeTx s.line) else s)

/-! ### Reception (R66 to R68) -/

/-- A counter that stays at its limit (R67, R68). -/
def saturatingNext (n : Nat) : Nat := min Config.counterLimit (n + 1)

/-- A bad frame is counted (R67). -/
def countBad (s : State) : State := s.setLine { s.line with rxBad := saturatingNext s.line.rxBad }

/-- A good frame from another station enters the buffer, or is dropped at a full one (R68). -/
def placeFrame (n : Notice) (s : State) : State :=
  if s.line.rx.length < Config.rxLimit then s.setLine { s.line with rx := s.line.rx ++ [n] }
  else raiseEvent .rxOverflow (s.setLine { s.line with rxDropped := saturatingNext s.line.rxDropped })

/-- A good frame: the own id is checked before the buffer is looked at (R68). -/
def takeGoodFrame (n : Notice) (s : State) : State :=
  if n.sender.toNat = s.ctrl.config.stationId then raiseEvent .idClash s else placeFrame n s

/-- Whether the receiver listened from the preamble of a frame on. In a carrier that stood already when it began to
listen, the line time of preamble and bytes must lie in the time since (R66, log 36). -/
def Receiver.hasFrame (held : List Byte) : Receiver → Bool
  | .idle => false
  | .whole => true
  | .since ms => lineThirds (preamble ++ held) ≤ 3 * ms

/-- A closed frame is checked (R67). No new frame starts until line carrier begins again (R66). -/
def closeFrame (bytes : List Byte) (s : State) : State :=
  let s1 := s.setLine { s.line with receiver := .idle }
  match checkFrame bytes with
  | some n => takeGoodFrame n s1
  | none => countBad s1

/-- FRAME_RECEIVED (R67): what the receiver holds when it closes a frame, at most the bytes of the longest one. Heard
only where the receiver listened from the preamble on (R66, log 29). -/
def execFrameReceived (bytes : List Byte) (s : State) : Result :=
  let held := bytes.take Config.longestFrame
  .next (if carrierWatched s && s.line.receiver.hasFrame held then closeFrame held s else s)

end Sys2Proof.Machine
end

