-- ==== Sys2Proof/Machine/PledgeCommands.lean ====
section
/-! DEFINITION. The meanings of SET_STATE, SET_BASELINE, SET_PRICE and SET_AVAILABILITY, of the end of a computation
and of the refresh timer (R37 to R42, R50, R55). -/

namespace Sys2Proof.Machine

/-- The checks of Table 3-2 after the LEAVING rule, and what follows an acceptance: the effect is made, and in a joined
state a computation starts (R37, R48). -/
def serveSetting {α : Type} (inRange : α → Bool) (price : Bool) (effect : α → State → State) (b : α) (s : State) :
    State × Answer :=
  if busy s || s.pledge.boundaryPending then (s, plain .busy)
  else if inRange b then
    let s1 := effect b s
    (if joined s then startComputation false false price s1 else s1, plain .done)
  else (s, plain .refusedRange)

/-! ### SET_STATE -/

def stateInRange (b : StateBody) : Bool := b.eFloor.toNat ≤ b.eCeil.toNat && b.eCeil.toNat ≤ 10000

/-- The values are stored, A and the state-stale timer are set to 0, and a state-stale condition ends (R38, R15). The
host has then given an energy position (R36). -/
def storeState (b : StateBody) (s : State) : State :=
  let s1 := s.setPledge { s.pledge with
    positioned := true
    eHost := min b.eNow.toNat b.eCeil.toNat, eFloor := b.eFloor.toNat, eCeil := b.eCeil.toNat, acc := 0 }
  s1.setCtrl { s1.ctrl with staleMs := 0, stale := false }

/-- SET_STATE as the Pledge Engine takes it; the end of the state-stale condition is a trigger that arrives after the
command's computation has started (R37, R53). -/
def serveState (b : StateBody) (s : State) : State × Answer :=
  let r := serveSetting stateInRange false storeState b s
  if s.ctrl.stale && !r.1.ctrl.stale then (triggerComputation false r.1, r.2) else r

/-- SET_STATE (R38). -/
def execSetState (t : Transaction StateBody) (s : State) : Result := .next (hostCommand t false serveState s)

/-! ### SET_BASELINE -/

/-- The values of a command whose intervals lie in the horizon, clamped to the ratings (R39). -/
def namedBaselines (c : StationConfig) (cur : Word) (b : BaselineBody) : List BaselineEntry :=
  ((fromInterval b.first b.values).filter fun kv => inHorizon cur kv.1).map
    fun kv => ⟨kv.1, clampBaseline c kv.2.toInt⟩

/-- Entries out of horizon are discarded, and each value whose interval lies in the horizon is stored (R39, R40). -/
def storeBaseline (b : BaselineBody) (s : State) : State :=
  let p := pruneEntries s.clock.current s.pledge
  let named := namedBaselines s.ctrl.config s.clock.current b
  s.setPledge { p with
    baselines := p.baselines.filter (fun e => !named.any fun n => n.interval == e.interval) ++ named }

/-- SET_BASELINE (R39). -/
def execSetBaseline (t : Transaction BaselineBody) (s : State) : Result :=
  .next (hostCommand t false (serveSetting (fun b => countAllowed b.values.length) false storeBaseline) s)

/-! ### SET_PRICE -/

def priceInRange (b : PriceBody) : Bool := b.raiseBand.toNat ≤ 15 && b.lowerBand.toNat ≤ 15

/-- Both current bands are replaced (R41). -/
def storePrice (b : PriceBody) (s : State) : State :=
  s.setPledge { s.pledge with raiseBand := b.raiseBand.toNat, lowerBand := b.lowerBand.toNat }

/-- SET_PRICE (R41); its computation ends with a PLEDGE insert whatever it writes (R56). -/
def execSetPrice (t : Transaction PriceBody) (s : State) : Result :=
  .next (hostCommand t false (serveSetting priceInRange true storePrice) s)

/-! ### SET_AVAILABILITY -/

/-- The flags of a command whose intervals lie in the horizon (R42). -/
def namedAvails (cur : Word) (b : AvailabilityBody) : List AvailEntry :=
  ((fromInterval b.first b.flags).filter fun kf => inHorizon cur kf.1).map
    fun kf => ⟨kf.1, (availabilityFlags kf.2).1, (availabilityFlags kf.2).2⟩

/-- Entries out of horizon are discarded, and the flags of each horizon interval named are stored (R42, R40). -/
def storeAvails (b : AvailabilityBody) (s : State) : State :=
  let p := pruneEntries s.clock.current s.pledge
  let named := namedAvails s.clock.current b
  s.setPledge { p with avails := p.avails.filter (fun e => !named.any fun n => n.interval == e.interval) ++ named }

/-- The record is committed or RUNNING, and its flag goes from set to clear (R42). -/
def newlyUnavailable (before after : PledgeEngine) (d : Direction) (r : CRecord) : Bool :=
  r.dir == d && r.committed && flagFor (availOf before r.interval) d && !flagFor (availOf after r.interval) d

/-- The OWNER withdrawal of one direction, where it has an interval to withdraw (R42). -/
def ownerWithdrawal (before after : PledgeEngine) (d : Direction) (s : State) : State :=
  if s.table.any (newlyUnavailable before after d) then
    withdrawProcedure .owner (newlyUnavailable before after d) s
  else s

/-- The flags are stored and, in ACTIVE, the OWNER withdrawals run, RAISE first (R42). -/
def storeAvailability (b : AvailabilityBody) (s : State) : State :=
  let before := pruneEntries s.clock.current s.pledge
  let s1 := storeAvails b s
  if isActive s then
    ownerWithdrawal before s1.pledge .lower (ownerWithdrawal before s1.pledge .raise s1)
  else s1

/-- SET_AVAILABILITY (R42). -/
def execSetAvailability (t : Transaction AvailabilityBody) (s : State) : Result :=
  .next (hostCommand t false (serveSetting (fun b => countAllowed b.flags.length) false storeAvailability) s)

/-! ### The Pledge Engine's own events -/

/-- COMPUTATION_END (R50). -/
def execComputationEnd (s : State) : Result :=
  .next (match s.pledge.comp with
    | some c => endComputation c s
    | none => s)

/-- The refresh timer starts its next period of Tp (R55). -/
def restartRefresh (s : State) : State :=
  s.setPledge { s.pledge with refresh := some (s.ctrl.config.refreshPeriod * Config.msPerSecond) }

/-- REFRESH_TIMER_EXPIRY: a trigger with the refresh mark (R55, R51). -/
def execRefreshTimerExpiry (s : State) : Result :=
  .next (if s.pledge.refresh.isSome then triggerComputation true (restartRefresh s) else s)

end Sys2Proof.Machine
end

