-- ==== Sys2Proof/Machine/Reads.lean ====
section
/-! DEFINITION. The meanings of the read commands and of the event commands (R34, R89, R93, R161 to R164, R167). -/

namespace Sys2Proof.Machine

/-! ### READ_STATUS -/

/-- What READ_STATUS returns (R161); the measured frequency is 0 while absent (R137). -/
def statusReport (s : State) : StatusReport where
  station       := s.ctrl.station
  suspendReason := s.ctrl.suspendReason
  clockSet      := s.clock.isSet
  interval      := s.clock.current
  second        := s.clock.second
  freqState     := s.freq.state
  measured      := s.freq.measured.getD 0
  errors        := s.mon.errors
  feedback      := s.mon.fb
  tx            := s.line.tx
  queueLength   := s.line.queue.length
  viewSize      := s.view.length
  rxBad         := s.line.rxBad
  rxDropped     := s.line.rxDropped
  estimate      := energyEstimate s.pledge
  logLength     := s.host.log.length

def serveStatus (_ : Unit) (s : State) : State × Answer := (s, ⟨.done, .status (statusReport s)⟩)

/-- READ_STATUS (R161). -/
def execReadStatus (t : Transaction Unit) (s : State) : Result := .next (hostCommand t true serveStatus s)

/-! ### READ_HORIZON -/

/-- A record as READ_HORIZON returns it (R34). -/
def horizonRow (r : CRecord) : HorizonRow where
  interval   := r.interval
  dir        := r.dir
  state      := r.state
  live       := r.live
  frozen     := r.frozen
  frozenBand := r.frozenBand
  cap        := r.cap
  award      := r.award
  take       := r.take
  lastSent   := r.lastSent
  withdrawn  := r.withdrawn
  run        := r.run

/-- The records in slot order from the table's first interval, RAISE before LOWER; none in UNJOINED (R34). -/
def horizonRows (s : State) : List HorizonRow :=
  (horizonPairs (tableFirst s)).filterMap fun kd => (findRec s.table kd.1 kd.2).map horizonRow

def serveHorizon (_ : Unit) (s : State) : State × Answer := (s, ⟨.done, .horizon (horizonRows s)⟩)

/-- READ_HORIZON (R34). -/
def execReadHorizon (t : Transaction Unit) (s : State) : Result := .next (hostCommand t true serveHorizon s)

/-! ### READ_VIEW -/

/-- A peer record as READ_VIEW returns it (R89). -/
def peerReport (cur : Word) (p : Peer) : PeerReport where
  id         := p.id
  zone       := p.zone
  status     := p.status
  ageSeconds := p.ageMs / 1000
  entries    := (List.range 8).map fun j => p.entryAt (atSlot cur j)
  heard      := (horizonPairs cur).map fun kd => (p.heardAt kd.1 kd.2).map fun h => (h.amount, h.issue)

def serveView (index : Byte) (s : State) : State × Answer :=
  match s.view[index.toNat]? with
  | some p => (s, ⟨.done, .peer (peerReport s.clock.current p)⟩)
  | none => (s, plain .refusedRange)

/-- READ_VIEW (R89). -/
def execReadView (t : Transaction Byte) (s : State) : Result := .next (hostCommand t true serveView s)

/-! ### READ_LADDER -/

/-- The ladder held for an interval and direction (R92). -/
def findLadder (p : PledgeEngine) (k : Word) (d : Direction) : Option Ladder :=
  p.ladders.find? fun l => l.interval == k && l.dir == d

/-- The checks of Table 5-6, in order. -/
def serveLadder (b : LadderBody) (s : State) : State × Answer :=
  if s.ctrl.config.uplink = false then (s, plain .refusedRole)
  else if s.ctrl.station = .unjoined then (s, plain .refusedState)
  else
    match directionOf b.direction with
    | none => (s, plain .refusedRange)
    | some d =>
      if inHorizon (tableFirst s) b.interval = false then (s, plain .refusedRange)
      else
        match findLadder s.pledge b.interval d with
        | none => (s, plain .refusedState)
        | some l => (s, ⟨.done, .ladder l⟩)

/-- READ_LADDER (R93). -/
def execReadLadder (t : Transaction LadderBody) (s : State) : Result := .next (hostCommand t true serveLadder s)

/-! ### READ_LOG -/

def serveLog (_ : Unit) (s : State) : State × Answer :=
  match s.host.log with
  | [] => (s, plain .empty)
  | r :: rest => (s.setHost { s.host with log := rest }, ⟨.done, .settled r rest.length⟩)

/-- READ_LOG (R167). -/
def execReadLog (t : Transaction Unit) (s : State) : Result := .next (hostCommand t true serveLog s)

/-! ### Events -/

def serveEvents (_ : Unit) (s : State) : State × Answer :=
  (s, ⟨.done, .events s.host.flags s.host.again s.host.mask⟩)

/-- READ_EVENTS (R162). -/
def execReadEvents (t : Transaction Unit) (s : State) : Result := .next (hostCommand t true serveEvents s)

/-- The selected events have flag and again flag cleared (R163). -/
def clearFlags (m : Word) (s : State) : State :=
  s.setHost { s.host with flags := s.host.flags &&& ~~~m, again := s.host.again &&& ~~~m }

def serveClearEvents (m : Word) (s : State) : State × Answer :=
  if eventMaskAllowed m then (clearFlags m s, plain .done) else (s, plain .refusedRange)

/-- CLEAR_EVENTS (R163). -/
def execClearEvents (t : Transaction Word) (s : State) : Result := .next (hostCommand t true serveClearEvents s)

/-- The mask is replaced (R163). -/
def storeMask (m : Word) (s : State) : State := s.setHost { s.host with mask := m }

def serveEventMask (m : Word) (s : State) : State × Answer :=
  if eventMaskAllowed m then (storeMask m s, plain .done) else (s, plain .refusedRange)

/-- SET_EVENT_MASK (R163). -/
def execSetEventMask (t : Transaction Word) (s : State) : Result := .next (hostCommand t true serveEventMask s)

end Sys2Proof.Machine
end

