-- ==== Sys2Proof/Machine/ViewEvents.lean ====
section
/-! DEFINITION. The meanings of dispatched frames, of ageing, and of the hold's expiry (R69, R78 to R85, R95,
R120). -/

namespace Sys2Proof.Machine

/-! ### Taking a frame -/

/-- The frame at the front of the receive buffer, where it may be dispatched (R69). -/
def dispatchable (s : State) : Option Notice :=
  if joined s then
    match s.line.rx with
    | n :: _ => if mayDispatch s n then some n else none
    | [] => none
  else none

/-- The front frame leaves the buffer (R69). -/
def dropFront (s : State) : State := s.setLine { s.line with rx := s.line.rx.drop 1 }

/-- A frame taken by the view: the header's update, then the body's update to the same record, then the reports of
both (R78, R83, log 23). A view that is full refuses the frame, and VIEW_FULL is raised (R79). -/
def takeFrame (n : Notice) (body : Peer → Peer × Report) (s : State) : State :=
  let id := n.sender.toNat
  match headerUpdate s.clock.current id n.zone s.view with
  | none => raiseEvent .viewFull s
  | some (view, headerReport) =>
    match findPeer view id with
    | none => s.setView view
    | some p =>
      let r := body p
      actOnReport r.2 (actOnReport headerReport (s.setView (mapPeer id (fun _ => r.1) view)))

/-- A PLEDGE at its sender's record, with its report (R80, R83). -/
def pledgeUpdate (cur first : Word) (entries : List SlotEntry) (p : Peer) : Peer × Report :=
  let after := p.takePledge cur first entries
  (after, pledgeReport cur after)

/-- A TAKE at its sender's record, with its report where it is stored (R81, R83). -/
def takeUpdate (cur k : Word) (d : Direction) (issue amount : Nat) (p : Peer) : Peer × Report :=
  if inHorizon cur k && takeStored (p.heardAt k d) issue then (p.takeTake k d issue amount, takeReport k d)
  else (p, [])

/-- A WITHDRAW at its sender's record, with its report (R82, R83). -/
def withdrawUpdate (cur first : Word) (affected : Byte) (p : Peer) : Peer × Report :=
  let after := p.takeWithdraw cur first affected
  (after, withdrawReport cur first affected p after)

/-- RECEIVED_PLEDGE (R80). -/
def execReceivedPledge (s : State) : Result :=
  .next (match dispatchable s with
    | some n =>
      match n.body with
      | .pledge first entries => takeFrame n (pledgeUpdate s.clock.current first entries) (dropFront s)
      | _ => s
    | none => s)

/-- RECEIVED_TAKE (R81). -/
def execReceivedTake (s : State) : Result :=
  .next (match dispatchable s with
    | some n =>
      match n.body with
      | .take k d issue amount =>
        takeFrame n (takeUpdate s.clock.current k d issue.toNat amount.toNat) (dropFront s)
      | _ => s
    | none => s)

/-- RECEIVED_WITHDRAW (R82). -/
def execReceivedWithdraw (s : State) : Result :=
  .next (match dispatchable s with
    | some n =>
      match n.body with
      | .withdraw _ first affected => takeFrame n (withdrawUpdate s.clock.current first affected) (dropFront s)
      | _ => s
    | none => s)

/-- RECEIVED_AWARD: the header's update, then the acceptance procedure, which a full view does not stop
(R78, R79, R95). -/
def execReceivedAward (s : State) : Result :=
  .next (match dispatchable s with
    | some n =>
      match n.body with
      | .award k d issue band quantity compare mask =>
        (acceptAward k d ⟨issue.toNat, band.toNat, quantity.toNat, compare, mask, false⟩
          (takeFrame n (fun p => (p, [])) (dropFront s))).1
      | _ => s
    | none => s)

/-! ### Ageing (R84, R85) -/

/-- The age at which a record becomes STALE, 3 × Tp (R84). -/
def staleAgeMs (c : StationConfig) : Nat := 3 * c.refreshPeriod * Config.msPerSecond

/-- The age at which a record is removed, 10 × Tp (R85). -/
def removalAgeMs (c : StationConfig) : Nat := 10 * c.refreshPeriod * Config.msPerSecond

/-- The age of the record of an id reaches 3 × Tp: unless it is STALE already it becomes STALE, and its pairs are
reported (R84, R83). -/
def makeStale (id : Nat) (p : Peer) (s : State) : State :=
  let aged (p : Peer) : Peer := { p with ageMs := max p.ageMs (staleAgeMs s.ctrl.config), status := .stale }
  let s1 := s.setView (mapPeer id aged s.view)
  if p.status = .stale then s1 else actOnReport (p.entryPairs s.clock.current) s1

/-- PEER_STALE (R84). -/
def execPeerStale (id : Nat) (s : State) : Result :=
  .next (match findPeer s.view id with
    | some p => makeStale id p s
    | none => s)

/-- The record of an id is removed, and its pairs are reported (R85, R83). -/
def removePeer (id : Nat) (p : Peer) (s : State) : State :=
  actOnReport (p.entryPairs s.clock.current) (s.setView (s.view.filter fun q => q.id != id))

/-- PEER_REMOVED (R85). -/
def execPeerRemoved (id : Nat) (s : State) : Result :=
  .next (match findPeer s.view id with
    | some p => removePeer id p s
    | none => s)

/-! ### The hold (R120) -/

/-- The hold of a record expires: the timer stops, and a pending evaluation is made, or waits for the lock to end
(R120, R119). -/
def expireHold (k : Word) (d : Direction) (pendingFlag : Bool) (s : State) : State :=
  let s1 := s.updRec k d fun r => { r with hold := none }
  if pendingFlag && !busy s then evaluate k d (setEvalPending k d false s1) else s1

/-- HOLD_EXPIRY (R120). -/
def execHoldExpiry (k : Word) (d : Direction) (s : State) : Result :=
  .next (match findRec s.table k d with
    | some r => if r.hold.isSome then expireHold k d r.evalPending s else s
    | none => s)

end Sys2Proof.Machine
end

