-- ==== Sys2Proof/Machine/Dispatch.lean ====
section
/-! DEFINITION. One arm for each command. -/

namespace Sys2Proof.Machine

def exec (i : Instr) (s : State) : Host.Outcome State Fault Refusal :=
  match i with
  | .powerOnReset => Sys2Proof.Machine.execPowerOnReset s
  | .noCommandTransaction clocked => Sys2Proof.Machine.execNoCommandTransaction clocked s
  | .unknownCommand clocked code => Sys2Proof.Machine.execUnknownCommand clocked code s
  | .configure t => Sys2Proof.Machine.execConfigure t s
  | .join t => Sys2Proof.Machine.execJoin t s
  | .leave t => Sys2Proof.Machine.execLeave t s
  | .restart t => Sys2Proof.Machine.execRestart t s
  | .clearSuspend t => Sys2Proof.Machine.execClearSuspend t s
  | .intervalMark t => Sys2Proof.Machine.execIntervalMark t s
  | .setState t => Sys2Proof.Machine.execSetState t s
  | .setBaseline t => Sys2Proof.Machine.execSetBaseline t s
  | .setPrice t => Sys2Proof.Machine.execSetPrice t s
  | .setAvailability t => Sys2Proof.Machine.execSetAvailability t s
  | .injectAward t => Sys2Proof.Machine.execInjectAward t s
  | .readStatus t => Sys2Proof.Machine.execReadStatus t s
  | .readHorizon t => Sys2Proof.Machine.execReadHorizon t s
  | .readView t => Sys2Proof.Machine.execReadView t s
  | .readLadder t => Sys2Proof.Machine.execReadLadder t s
  | .readLog t => Sys2Proof.Machine.execReadLog t s
  | .readEvents t => Sys2Proof.Machine.execReadEvents t s
  | .clearEvents t => Sys2Proof.Machine.execClearEvents t s
  | .setEventMask t => Sys2Proof.Machine.execSetEventMask t s
  | .clockSecond => Sys2Proof.Machine.execClockSecond s
  | .intervalBoundary => Sys2Proof.Machine.execIntervalBoundary s
  | .markBoundary => Sys2Proof.Machine.execMarkBoundary s
  | .rebuild => Sys2Proof.Machine.execRebuild s
  | .computationEnd => Sys2Proof.Machine.execComputationEnd s
  | .refreshTimerExpiry => Sys2Proof.Machine.execRefreshTimerExpiry s
  | .listeningTimerExpiry => Sys2Proof.Machine.execListeningTimerExpiry s
  | .leavingTimerExpiry => Sys2Proof.Machine.execLeavingTimerExpiry s
  | .stateStaleLimit => Sys2Proof.Machine.execStateStaleLimit s
  | .supplyWarningActive => Sys2Proof.Machine.execSupplyWarningActive s
  | .supplyWarningInactive => Sys2Proof.Machine.execSupplyWarningInactive s
  | .supplyFilterExpiry => Sys2Proof.Machine.execSupplyFilterExpiry s
  | .crossing count => Sys2Proof.Machine.execCrossing count s
  | .missedPeriod => Sys2Proof.Machine.execMissedPeriod s
  | .pwmPeriodStart => Sys2Proof.Machine.execPwmPeriodStart s
  | .feedbackPeriod period high falls => Sys2Proof.Machine.execFeedbackPeriod period high falls s
  | .feedbackLost => Sys2Proof.Machine.execFeedbackLost s
  | .measurementPeriodEnd => Sys2Proof.Machine.execMeasurementPeriodEnd s
  | .settlingExpiry => Sys2Proof.Machine.execSettlingExpiry s
  | .judgePeriodEnd => Sys2Proof.Machine.execJudgePeriodEnd s
  | .carrierDetectChange active => Sys2Proof.Machine.execCarrierDetectChange active s
  | .lineCarrier => Sys2Proof.Machine.execLineCarrier s
  | .idleRunComplete => Sys2Proof.Machine.execIdleRunComplete s
  | .transmissionEnd => Sys2Proof.Machine.execTransmissionEnd s
  | .lineJam => Sys2Proof.Machine.execLineJam s
  | .jamClear => Sys2Proof.Machine.execJamClear s
  | .frameReceived bytes => Sys2Proof.Machine.execFrameReceived bytes s
  | .receivedPledge => Sys2Proof.Machine.execReceivedPledge s
  | .receivedTake => Sys2Proof.Machine.execReceivedTake s
  | .receivedWithdraw => Sys2Proof.Machine.execReceivedWithdraw s
  | .receivedAward => Sys2Proof.Machine.execReceivedAward s
  | .peerStale id => Sys2Proof.Machine.execPeerStale id s
  | .peerRemoved id => Sys2Proof.Machine.execPeerRemoved id s
  | .holdExpiry interval dir => Sys2Proof.Machine.execHoldExpiry interval dir s

end Sys2Proof.Machine
end

