-- ==== Sys2Proof/Machine/Time.lean ====
section
/-! DEFINITION. What the part does with no command waiting: one millisecond passes, and the steps that have fallen due
are listed. DESIGN CHOICE (log 2, log 22): time is counted in milliseconds, and only while no command waits. -/

namespace Sys2Proof.Machine

/-! ### One millisecond -/

/-- A running timer counts down. -/
def countDown (t : Option Nat) : Option Nat := t.map (· - 1)

/-- The Station Controller's timers; the state-stale timer stops at its limit (R15). -/
def Controller.tick (c : Controller) : Controller :=
  { c with
    listening := countDown c.listening
    leaving := countDown c.leaving
    filter := match c.filter with
      | .timing n => .timing (n - 1)
      | .idle => .idle
      | .active => .active
    staleMs := if c.staleMs < c.config.staleLimit * Config.msPerSecond then c.staleMs + 1 else c.staleMs }

/-- The one-second period, while the clock counts (R16, R19, R21). -/
def tickClock (s : State) : IntervalClock :=
  if clockCounts s then { s.clock with subMs := s.clock.subMs + 1 } else s.clock

/-- The computation in flight and the refresh timer (R49, R55). -/
def PledgeEngine.tick (p : PledgeEngine) : PledgeEngine :=
  { p with
    comp := p.comp.map fun c => { c with left := c.left - 1 }
    refresh := countDown p.refresh }

/-- The hold timer of a record (R120). -/
def CRecord.tick (r : CRecord) : CRecord := { r with hold := countDown r.hold }

/-- A millisecond at the receiver: once carrier has ceased, no frame of it closes any more (R66, log 36). -/
def Receiver.tick (cdet : Bool) (r : Receiver) : Receiver :=
  if cdet then
    match r with
    | .since ms => .since (ms + 1)
    | .idle => .idle
    | .whole => .whole
  else .idle

/-- Bursts, idle time, the idle run's slots, the line time of the frame in flight, and the receiver (R59, R61, R62,
R58, R66). -/
def LineInterface.tick (l : LineInterface) : LineInterface :=
  { l with
    burst := l.burst.map (· + 1)
    idleMs := if l.carrier then l.idleMs else l.idleMs + 1
    run := if l.tx = .waiting ∧ l.carrier = false then l.run.map (· + 1) else l.run
    sending := l.sending.map fun f => { f with left := f.left - 3 }
    receiver := l.receiver.tick l.cdet }

/-- The age of a peer record, to 10 × Tp (R77, R84). -/
def Peer.tick (c : StationConfig) (p : Peer) : Peer := { p with ageMs := min (removalAgeMs c) (p.ageMs + 1) }

/-- The monitor's millisecond: the delivered sample, the measurement period, the window's timers and sums, the loss
timer (R153 to R155, R152). -/
def DeliveryMonitor.tick (m : DeliveryMonitor) : DeliveryMonitor :=
  let judging : Bool := m.window == .judging
  { m with
    samples := m.samples + (if m.fb = .present then m.f else m.heldD)
    measureMs := m.measureMs + 1
    settling := countDown m.settling
    judgeMs := if judging then m.judgeMs.map (· + 1) else m.judgeMs
    dSum := if judging then m.dSum + m.heldD else m.dSum
    fSum := if judging then m.fSum + m.f else m.fSum
    lossMs := min Config.feedbackLossMs (m.lossMs + 1) }

/-- One millisecond passes. -/
def tick (s : State) : State :=
  { s with
    ctrl := s.ctrl.tick
    clock := tickClock s
    table := s.table.map CRecord.tick
    pledge := s.pledge.tick
    line := if joined s then s.line.tick else s.line
    view := s.view.map (Peer.tick s.ctrl.config)
    freq := { s.freq with count := s.freq.count + Config.countsPerMs }
    act := { s.act with pwmDue := true }
    mon := s.mon.tick }

/-! ### The steps that have fallen due -/

/-- The command where its condition holds. -/
def dueWhen (b : Bool) (i : Instr) : List Instr := if b then [i] else []

/-- The dispatch of the front frame (R69). -/
def dueDispatch (s : State) : List Instr :=
  match dispatchable s with
  | some n =>
    match n.body with
    | .pledge _ _ => [.receivedPledge]
    | .take _ _ _ _ => [.receivedTake]
    | .withdraw _ _ _ => [.receivedWithdraw]
    | .award _ _ _ _ _ _ _ => [.receivedAward]
  | none => []

/-- The clock's steps (R16, R17, R19, R21). -/
def dueClock (s : State) : List Instr :=
  dueWhen (clockCounts s && decide (s.clock.second < 299) && decide (Config.msPerSecond ≤ s.clock.subMs))
    .clockSecond ++
  dueWhen (boundaryCanOccur s && decide (s.clock.second = 299) && decide (Config.msPerSecond ≤ s.clock.subMs))
    .intervalBoundary ++
  dueWhen (s.clock.mark.isSome && engineFree s) .markBoundary ++
  dueWhen (s.clock.rebuild.isSome && engineFree s) .rebuild

/-- The expiries of the Station Controller and the Pledge Engine (R7, R9, R13, R15, R49, R55). -/
def dueTimers (s : State) : List Instr :=
  dueWhen (s.ctrl.station == .listening && s.ctrl.listening == some 0) .listeningTimerExpiry ++
  dueWhen (s.ctrl.station == .leaving && s.ctrl.leaving == some 0) .leavingTimerExpiry ++
  dueWhen (isActive s && staleDue s && !s.ctrl.stale) .stateStaleLimit ++
  dueWhen (s.ctrl.filter == .timing 0) .supplyFilterExpiry ++
  dueWhen ((s.pledge.comp.map (·.left)) == some 0) .computationEnd ++
  dueWhen (s.pledge.refresh == some 0) .refreshTimerExpiry

/-- The expired holds (R120). -/
def dueHolds (s : State) : List Instr :=
  (s.table.filter fun r => r.hold == some 0).map fun r => .holdExpiry r.interval r.dir

/-- The ages reached (R84, R85). -/
def duePeers (s : State) : List Instr :=
  s.view.flatMap fun p =>
    dueWhen (p.status != .stale && decide (staleAgeMs s.ctrl.config ≤ p.ageMs)) (.peerStale p.id) ++
    dueWhen (decide (removalAgeMs s.ctrl.config ≤ p.ageMs)) (.peerRemoved p.id)

/-- The steps of the line (R59, R61, R62, R65). -/
def dueLine (s : State) : List Instr :=
  let l := s.line
  let waitingOrIdle := l.tx == .idle || l.tx == .waiting
  dueWhen (carrierWatched s && !l.carrier && l.burst.any fun n => decide (Config.carrierMs ≤ n)) .lineCarrier ++
  dueWhen (joined s && l.carrier && waitingOrIdle && l.burst.any fun n => decide (Config.jamMs ≤ n)) .lineJam ++
  dueWhen (joined s && l.tx == .jammed && !l.carrier && decide (Config.jamClearMs ≤ l.idleMs)) .jamClear ++
  dueWhen (joined s && l.tx == .waiting && !l.carrier &&
    l.run.any fun n => (l.queue.head?.map QEntry.target).any fun t => decide (t ≤ n)) .idleRunComplete ++
  dueWhen (joined s && l.tx == .sending && (l.sending.map (·.left)) == some 0) .transmissionEnd

/-- The steps of the meter, the setpoint line and the monitor (R131, R146, R152 to R155). -/
def dueMeasures (s : State) : List Instr :=
  dueWhen (decide (s.freq.missStart + missBound s ≤ s.freq.count)) .missedPeriod ++
  dueWhen s.act.pwmDue .pwmPeriodStart ++
  dueWhen (s.mon.fb == .present && decide (Config.feedbackLossMs ≤ s.mon.lossMs)) .feedbackLost ++
  dueWhen (decide (Config.msPerSecond ≤ s.mon.measureMs)) .measurementPeriodEnd ++
  dueWhen (s.mon.window == .settling && s.mon.settling == some 0) .settlingExpiry ++
  dueWhen (s.mon.window == .judging && s.mon.judgeMs.any fun n => decide (Config.msPerSecond ≤ n)) .judgePeriodEnd

/-- Every step that has fallen due. -/
def dueSteps (s : State) : List Instr :=
  dueDispatch s ++ dueClock s ++ dueTimers s ++ dueHolds s ++ duePeers s ++ dueLine s ++ dueMeasures s

end Sys2Proof.Machine
end

