-- ==== Sys2Proof/Machine/Step.lean ====
section
/-! DEFINITION. The step: the command at the front of the queue, or, with none waiting, what has fallen due or one
millisecond of time (log 1, log 2). -/

namespace Sys2Proof.Machine

/-- A step with no command waiting: one of the steps that have fallen due, or one millisecond. Of several, the spec
lets any come first (log 5). -/
def idleStep (s : State) : Host.Outcome State Fault Refusal :=
  match dueSteps s with
  | [] => .next (tick s)
  | [i] => exec i s
  | i :: j :: rest =>
    let d := drawTie (i :: j :: rest).length s
    exec ((i :: j :: rest).getD d.1 i) d.2

/-- One step: the front command on the state with the rest of the queue, or the idle part's step. -/
def step (s : State) : Host.Outcome State Fault Refusal :=
  match s.pending with
  | c :: rest => exec c (s.setPending rest)
  | [] => idleStep s

/-- The state with the command that a table word spells at the front of its queue; no word spells one. -/
def State.withFetchWord (s : State) (nbits w : Nat) : State :=
  match decodeTableWord nbits w with
  | some c => s.setPending (c :: s.pending)
  | none => s

end Sys2Proof.Machine
end

