-- ==== Sys2Proof/Safety.lean ====
section
/-! DEFINITION. The laws of the part, what every step keeps: each is a decidable property of one state, under the rule
that states it. Beside them the relations in which the statements are written: of a state before and after, and of a
value and the rule that gives it. -/

namespace Sys2Proof.Machine

/-! ### Station, configuration, clock -/

/-- Every configuration item lies in its range (Table 1-3, R3). -/
abbrev ConfigLaw (s : State) : Prop :=
  let c := s.ctrl.config
  c.stationId ≤ 250 ∧ (1 ≤ c.gateLead ∧ c.gateLead ≤ 4) ∧ (15 ≤ c.refreshPeriod ∧ c.refreshPeriod ≤ 120) ∧
  (5 ≤ c.sustain ∧ c.sustain ≤ 60) ∧ (10 ≤ c.minPledge ∧ c.minPledge ≤ 200) ∧
  (2 ≤ c.suspendAt ∧ c.suspendAt ≤ 15) ∧ c.overCover ≤ 16 ∧ c.deadband ≤ 500 ∧
  (50 ≤ c.fullDeviation ∧ c.fullDeviation ≤ 2000) ∧ (1 ≤ c.averaging ∧ c.averaging ≤ 8) ∧
  (c.ditherX ≤ 15 ∧ c.ditherX % 2 = 1) ∧ (c.ditherY ≤ 15 ∧ c.ditherY % 2 = 1) ∧
  (1 ≤ c.rotation ∧ c.rotation ≤ 16) ∧ (100 ≤ c.settleTime ∧ c.settleTime ≤ 1000) ∧
  (30 ≤ c.staleLimit ∧ c.staleLimit ≤ 600) ∧ c.dischargeMax ≤ 2000 ∧ c.chargeMax ≤ 2000

/-- The second lies in 0..299, a forward mark has 1 to 7 boundaries left, and the second that a mark or a rebuild will
set lies in 0..299 (R16, R18, R21). -/
abbrev ClockLaw (s : State) : Prop :=
  s.clock.second ≤ 299 ∧ (∀ m ∈ s.clock.mark, 1 ≤ m.left ∧ m.left ≤ 7 ∧ m.second ≤ 299) ∧
  ∀ w ∈ s.clock.rebuild, w.second ≤ 299

/-- The clock is set in every joined state (R5, R16). -/
abbrev SetLaw (s : State) : Prop := s.ctrl.station ≠ .unjoined → s.clock.isSet = true

/-- A suspension reason stands exactly in SUSPENDED, and the listening and LEAVING timers run only in their states
(R1, R7, R8). -/
abbrev StationLaw (s : State) : Prop :=
  (s.ctrl.suspendReason.isSome = true ↔ s.ctrl.station = .suspended) ∧
  (s.ctrl.listening.isSome = true → s.ctrl.station = .listening) ∧
  (s.ctrl.leaving.isSome = true → s.ctrl.station = .leaving)

/-- In UNJOINED the table, the view, the queue and the receive buffer are empty, the transmitter is IDLE, and no
computation, boundary, refresh timer or ladder is held (R2, R10, R36, R57, R76). -/
abbrev UnjoinedLaw (s : State) : Prop :=
  s.ctrl.station = .unjoined →
    s.table = [] ∧ s.view = [] ∧ s.line.queue = [] ∧ s.line.rx = [] ∧ s.line.tx = .idle ∧
    s.pledge.comp = none ∧ s.pledge.boundaryPending = false ∧ s.pledge.refresh = none ∧ s.pledge.ladders = []

/-! ### Commitment Table -/

/-- The keys of the records. -/
def recordKeys (table : List CRecord) : List (Word × Direction) := table.map fun r => (r.interval, r.dir)

/-- In a joined state the table holds exactly one record for each interval of its horizon and each direction, in slot
order; in UNJOINED it holds none, and no boundary is pending there (R2, R22, R23). -/
abbrev HorizonLaw (s : State) : Prop :=
  if s.ctrl.station = .unjoined then s.table = [] ∧ s.pledge.boundaryPending = false
  else recordKeys s.table = horizonPairs (tableFirst s)

/-- A held boundary waits for a computation in flight (R30). -/
abbrev HeldLaw (s : State) : Prop := s.pledge.boundaryPending = true → s.pledge.comp.isSome = true

/-- The fields a record holds in its state: a live pledge while OPEN; frozen pledge, band and cap from the freeze on; an
award in AWARDED, and at most in RUNNING besides; running fields while RUNNING (Table 2-6, Table 2-7). -/
abbrev RecordFields (r : CRecord) : Prop :=
  (r.live.isSome = true ↔ r.state = .opened) ∧ (r.frozen.isSome = true ↔ r.state ≠ .opened) ∧
  (r.frozenBand.isSome = true ↔ r.state ≠ .opened) ∧ (r.cap.isSome = true ↔ r.state ≠ .opened) ∧
  (r.award.isSome = true → r.state = .awarded ∨ r.state = .running) ∧ (r.state = .awarded → r.award.isSome = true) ∧
  (r.run.isSome = true ↔ r.state = .running)

/-- 0 ≤ own take ≤ cap ≤ frozen pledge, an OPEN record has take 0 (R25), and so has a record without an award
(Table 2-7, R142). -/
abbrev TakeOrder (r : CRecord) : Prop :=
  r.take ≤ r.cap.getD 0 ∧ r.cap.getD 0 ≤ r.frozen.getD 0 ∧ (r.award = none → r.take = 0)

/-- The take law of every record (R25). -/
abbrev TakeLaw (s : State) : Prop := ∀ r ∈ s.table, TakeOrder r

/-- The slots of the states: RUNNING exactly at slot 0, so CLOSED and AWARDED above it; CLOSED no higher than the gate; and
OPEN only above the gate, or at it while a boundary computation is in flight (Table 2-7). -/
abbrev GateLaw (s : State) : Prop :=
  ∀ r ∈ s.table,
    (r.state = .running ↔ slotOf (tableFirst s) r.interval = 0) ∧
    (r.state = .closed → slotOf (tableFirst s) r.interval ≤ s.ctrl.config.gateLead) ∧
    (r.state = .opened →
      s.ctrl.config.gateLead < slotOf (tableFirst s) r.interval ∨
      (s.ctrl.config.gateLead = slotOf (tableFirst s) r.interval ∧ (s.pledge.comp.any (·.boundary)) = true))

/-- Every record holds the fields of its state (R23, R24). -/
abbrev FieldsLaw (s : State) : Prop := ∀ r ∈ s.table, RecordFields r

/-- The laws of the Commitment Table: the clock is set, one record stands for each horizon interval and direction, a held
boundary waits for a computation, and every record stands at a slot and holds the fields of its state (R5, R22 to R24,
R30). -/
abbrev TableLaw (s : State) : Prop := SetLaw s ∧ HorizonLaw s ∧ HeldLaw s ∧ GateLaw s ∧ FieldsLaw s

/-- Outside ACTIVE every own live pledge, cap and take is 0 (R2), every hold timer is stopped and every pending flag
clear (R112). -/
abbrev InactiveLaw (s : State) : Prop :=
  s.ctrl.station ≠ .active →
    ∀ r ∈ s.table, r.live.getD 0 = 0 ∧ r.cap.getD 0 = 0 ∧ r.take = 0 ∧ r.hold = none ∧ r.evalPending = false

/-! ### Pledge Engine -/

/-- A pledge as R47 forms it: a multiple of 10, 0 or at least M, and at most P_scale. -/
abbrev PledgeForm (c : StationConfig) (x : Nat) : Prop := x % 10 = 0 ∧ (x = 0 ∨ c.minPledge ≤ x) ∧ x ≤ pScale c

/-- Every live pledge and cap is a pledge as R47 forms it; the baselines of a computation in flight lie within the
ratings (R40). -/
abbrev PledgeLaw (s : State) : Prop :=
  (∀ r ∈ s.table, PledgeForm s.ctrl.config (r.live.getD 0) ∧ PledgeForm s.ctrl.config (r.cap.getD 0)) ∧
  ∀ c ∈ s.pledge.comp, ∀ b ∈ c.baselines,
    -(s.ctrl.config.chargeMax : Int) ≤ b ∧ b ≤ s.ctrl.config.dischargeMax

/-- The host's figures and the accumulator stay in range (R38, R43). -/
abbrev EnergyLaw (s : State) : Prop :=
  s.pledge.eHost ≤ s.pledge.eCeil ∧ s.pledge.eFloor ≤ s.pledge.eCeil ∧ s.pledge.eCeil ≤ 10000 ∧
  -2147483648 ≤ s.pledge.acc ∧ s.pledge.acc ≤ 2147483647

/-- The current bands are bands (R41). -/
abbrev BandLaw (s : State) : Prop := s.pledge.raiseBand ≤ 15 ∧ s.pledge.lowerBand ≤ 15

/-! ### Line Interface and Cluster View -/

/-- The entries that wait for their place: all but a head in flight. -/
def waitingEntries : List QEntry → List QEntry
  | [] => []
  | e :: rest => if e.inFlight then rest else e :: rest

/-- At most 12 entries, at most one of a kind and key, group A before group B, only the head in flight, and that exactly
while SENDING; an IDLE transmitter has an empty queue and a WAITING one does not (R70, R61). -/
abbrev QueueLaw (s : State) : Prop :=
  s.line.queue.length ≤ Config.queueLimit ∧
  (s.line.queue.map (·.key)).Nodup ∧
  (waitingEntries s.line.queue).Pairwise (fun a b => b.key.groupA = true → a.key.groupA = true) ∧
  (∀ e ∈ s.line.queue.drop 1, e.inFlight = false) ∧
  ((s.line.queue.head?.any (·.inFlight)) = true ↔ s.line.tx = .sending) ∧
  (s.line.tx = .idle → s.line.queue = []) ∧
  (s.line.tx = .waiting → s.line.queue ≠ [])

/-- The receive buffer holds at most 4 frames and the counters stay in range (R57, R67, R68). -/
abbrev BufferLaw (s : State) : Prop :=
  s.line.rx.length ≤ Config.rxLimit ∧ s.line.rxBad ≤ Config.counterLimit ∧ s.line.rxDropped ≤ Config.counterLimit

/-- At most 47 peer records, at most one for a station id, in ascending order, none with the own id, and no frame of the
own id in the buffer; in UNJOINED both are empty (R76, R68, R89). -/
abbrev ViewLaw (s : State) : Prop :=
  (s.ctrl.station = .unjoined → s.view = [] ∧ s.line.rx = []) ∧
  s.view.length ≤ Config.viewLimit ∧
  (s.view.map (·.id)).Pairwise (· < ·) ∧
  (∀ p ∈ s.view, p.id ≠ s.ctrl.config.stationId) ∧
  ∀ n ∈ s.line.rx, n.sender.toNat ≠ s.ctrl.config.stationId

/-! ### Measurement and activation -/

/-- The meter's values: at most N periods in the ring, a count up to 3, a measured frequency in range, and a value
wherever the state is VALID (R128, R132, R133). -/
abbrev MeterLaw (s : State) : Prop :=
  s.freq.ring.length ≤ s.ctrl.config.averaging ∧ s.freq.invalids ≤ 3 ∧
  (∀ f ∈ s.freq.measured, 45000 ≤ f ∧ f ≤ 66000) ∧ (s.freq.state = .valid → s.freq.measured.isSome = true)

/-- The level, direction, D and duty stand as the inputs of the moment give them: D is 0 and the duty 512 outside ACTIVE,
and |D| is at most the running take of its direction (R143, R144, R146). -/
abbrev ActivationLaw (s : State) : Prop :=
  s.act.level = (formedLevel s).1 ∧ s.act.dir = (formedLevel s).2 ∧
  s.act.delta = formedDelta s ∧ s.act.duty = formedDuty s

/-- The held D of the Delivery Monitor is the D the Activation Unit formed last: each new value has been handed over
(R147). -/
abbrev HeldDeltaLaw (s : State) : Prop := s.mon.heldD = s.act.delta

/-- The verification window runs only under the judging conditions (R154). -/
abbrev WindowLaw (s : State) : Prop :=
  s.mon.window ≠ .stopped → s.ctrl.station = .active ∧ s.mon.fb = .present

/-- C is below T except in SUSPENDED with reason DELIVERY, where it may equal T (R156). -/
abbrev CounterLaw (s : State) : Prop :=
  s.mon.errors ≤ s.ctrl.config.suspendAt ∧
  (s.mon.errors = s.ctrl.config.suspendAt →
    s.ctrl.station = .suspended ∧ s.ctrl.suspendReason = some .delivery)

/-! ### Host Link -/

/-- The bits that are no event are clear in flags, again flags and mask, and an again flag stands only beside its flag
(R162, R163). -/
abbrev EventLaw (s : State) : Prop :=
  s.host.flags &&& 0xC000#16 = 0 ∧ s.host.mask &&& 0xC000#16 = 0 ∧ s.host.again &&& ~~~s.host.flags = 0

/-- The Settlement Log holds at most 32 records (R166). -/
abbrev LogLaw (s : State) : Prop := s.host.log.length ≤ Config.logLimit

/-! ### The bytes of an answer -/

/-- A number in `w` bytes, the most significant first (R168). -/
def bigEndian (w v : Nat) : List Byte := (List.range w).map fun i => BitVec.ofNat 8 (v / 256 ^ (w - 1 - i))

/-- A field of an answer: how many bytes it takes, and its number. -/
abbrev Field := Nat × Nat

/-- An optional field: a presence byte, 0 absent or 1 present, and then the field where it is present (R171). -/
def optionalField {α : Type} (f : α → List Field) : Option α → List Field
  | none => [(1, 0)]
  | some a => (1, 1) :: f a

/-- A signed number of 4 bytes, in two's complement (R171). -/
def signedField (x : Int) : Field := (4, (x % 4294967296).toNat)

/-- RAISE is 0, LOWER 1 (Table 12-2, NOTE 1). -/
def directionField : Direction → Field
  | .raise => (1, 0)
  | .lower => (1, 1)

/-- Reasons are numbered from OWNER up (Table 12-2, NOTE 1). -/
def reasonField : Reason → Field
  | .owner => (1, 0)
  | .leave => (1, 1)
  | .delivery => (1, 2)
  | .inverter => (1, 3)
  | .supply => (1, 4)

def flagField (b : Bool) : Field := (1, if b then 1 else 0)

/-- The fields of a held award: issue, clearing band, Q, zone compare, zone mask, conflict flag (Table 6-1). -/
def awardFields (a : Award) : List Field :=
  [(1, a.issue), (1, a.band), (2, a.quantity), (2, a.compare.toNat), (2, a.mask.toNat), flagField a.conflict]

/-- The fields of a record of READ_HORIZON, in the order of Table 2-6 (R34, log 19). -/
def recordFields (r : HorizonRow) : List Field :=
  [(2, r.interval.toNat), directionField r.dir,
   (1, match r.state with
     | .opened => 0
     | .closed => 1
     | .awarded => 2
     | .running => 3)] ++
  optionalField (fun n => [(2, n)]) r.live ++ optionalField (fun n => [(2, n)]) r.frozen ++
  optionalField (fun n => [(1, n)]) r.frozenBand ++ optionalField (fun n => [(2, n)]) r.cap ++
  optionalField awardFields r.award ++ [(2, r.take)] ++ optionalField (fun n => [(2, n)]) r.lastSent ++
  optionalField (fun q => [reasonField q]) r.withdrawn ++
  optionalField (fun f => [(2, f.maxTake)]) r.run ++ optionalField (fun f => [(2, f.minTake)]) r.run ++
  optionalField (fun f => [signedField f.delivered]) r.run ++ optionalField (fun f => [(2, f.good)]) r.run ++
  optionalField (fun f => [(2, f.bad)]) r.run

/-- The fields of a DONE answer's body, in the order its command's rule lists them (R171, Table 12-4, log 19): the items of
CONFIGURE in the order of Table 1-3; outcome and award (R102); the status (R161); the records (R34); the peer record (R89);
the ladder (Table 5-5); the settlement record and the number left (Table 11-3, R167); flags, again flags and mask (R162). -/
def answerFields : AnswerBody → List Field
  | .none => []
  | .config c =>
    ((List.range 22).zip [c.stationId, c.zone.toNat, if c.uplink then 1 else 0, c.bidCompare.toNat, c.bidMask.toNat,
      match c.nominal with
        | .hz50 => 50
        | .hz60 => 60,
      c.gateLead, c.refreshPeriod, c.sustain, c.minPledge, c.suspendAt, c.overCover, c.deadband, c.fullDeviation,
      c.averaging, c.ditherX, c.ditherY, c.rotation, c.settleTime, c.staleLimit, c.dischargeMax,
      c.chargeMax]).flatMap fun iv => [(1, iv.1 + 1), (2, iv.2)]
  | .injected o a =>
    (1, match o with
      | .applied => 0
      | .duplicate => 1
      | .conflict => 2) :: awardFields a
  | .status r =>
    [(1, match r.station with
      | .unjoined => 0
      | .listening => 1
      | .active => 2
      | .suspended => 3
      | .leaving => 4)] ++
    optionalField (fun q => [match q with
      | .delivery => (1, 2)
      | .inverter => (1, 3)
      | .supply => (1, 4)]) r.suspendReason ++
    [flagField r.clockSet, (2, r.interval.toNat), (2, r.second),
     (1, match r.freqState with
      | .valid => 0
      | .invalid => 1),
     (4, r.measured), (1, r.errors),
     (1, match r.feedback with
      | .present => 0
      | .lost => 1),
     (1, match r.tx with
      | .idle => 0
      | .waiting => 1
      | .sending => 2
      | .jammed => 3),
     (1, r.queueLength), (1, r.viewSize), (2, r.rxBad), (2, r.rxDropped), (4, r.estimate), (1, r.logLength)]
  | .horizon rows => rows.flatMap recordFields
  | .peer p =>
    [(1, p.id), (2, p.zone.toNat),
     (1, match p.status with
      | .fresh => 0
      | .stale => 1
      | .withdrawn => 2),
     (2, p.ageSeconds)] ++
    p.entries.flatMap (optionalField fun e =>
      [(1, e.raiseBand.toNat), (1, e.lowerBand.toNat), (2, e.raiseQty.toNat), (2, e.lowerQty.toNat)]) ++
    p.heard.flatMap (optionalField fun h => [(2, h.1), (1, h.2)])
  | .ladder l =>
    [(2, l.interval.toNat), directionField l.dir, (2, l.compare.toNat), (2, l.mask.toNat)] ++
    l.bandSums.map (fun x => (4, x)) ++ l.cumulative.map (fun x => (4, x)) ++
    [(1, l.contributing), (1, l.staleExcluded)]
  | .settled r left =>
    [(2, r.interval.toNat), directionField r.dir] ++
    optionalField (fun a => [(1, a.issue), (1, a.band), (2, a.quantity), flagField a.conflict]) r.award ++
    [(2, r.frozen), (2, r.finalTake), (2, r.maxTake), (2, r.minTake), signedField r.delivered, (2, r.good), (2, r.bad)] ++
    optionalField (fun q => [reasonField q]) r.withdrawn ++ [(1, left)]
  | .events flags again mask => [(2, flags.toNat), (2, again.toNat), (2, mask.toNat)]

/-- An answer code's byte (Table 12-4). -/
def codeNumber : AnswerCode → Nat
  | .done => 1
  | .busy => 2
  | .refusedState => 3
  | .refusedRange => 4
  | .refusedRole => 5
  | .refusedConfig => 6
  | .unknownCommand => 7
  | .empty => 8

/-- An answer frame: the code, the length of the body, the body (R171). -/
def answerFrame (a : Answer) : List Byte :=
  let body := (answerFields a.body).flatMap fun f => bigEndian f.1 f.2
  bigEndian 1 (codeNumber a.code) ++ bigEndian 2 body.length ++ body

/-! ### Shapes of a next state -/

/-- The state after a transaction that changes nothing but the answers: the held answer is shifted out and a new one is
held (R159, R160). -/
def answeredOnly (clocked : Nat) (a : Answer) (s : State) : State :=
  { s with host := { s.host with sdo := shiftOut s.host.held clocked, held := some a } }

/-- The setpoint is neutral: level 0, no direction, D 0, duty 512 (R145). -/
abbrev Neutral (s : State) : Prop :=
  s.act.level = 0 ∧ s.act.dir = none ∧ s.act.delta = 0 ∧ s.act.duty = 512

/-- The reason of a record already withdrawn, or the new one where it is as severe (R157). -/
def moreSevere (held : Option Reason) (new : Reason) : Reason :=
  match held with
  | some r => if new.severity < r.severity then r else new
  | none => new

/-- A record withdrawn with a reason: an OPEN one has live pledge 0, another cap and take 0 and, where it runs, min take
0; award, frozen pledge, band and last sent take stand (R157). -/
abbrev WithdrawnRecord (reason : Reason) (r u : CRecord) : Prop :=
  u.interval = r.interval ∧ u.dir = r.dir ∧ u.state = r.state ∧ u.withdrawn = some (moreSevere r.withdrawn reason) ∧
  u.award = r.award ∧ u.frozen = r.frozen ∧ u.frozenBand = r.frozenBand ∧ u.lastSent = r.lastSent ∧
  (r.state = .opened → u.live = some 0 ∧ u.cap = r.cap ∧ u.take = r.take) ∧
  (r.state ≠ .opened → u.live = r.live ∧ u.cap = some 0 ∧ u.take = 0 ∧
    u.run.map (·.minTake) = r.run.map (fun _ => 0) ∧ u.run.map (·.maxTake) = r.run.map (·.maxTake))

/-- Every record of a table is withdrawn with a reason, its hold timer stopped and its pending flag clear (R157, R112). -/
abbrev AllWithdrawn (reason : Reason) (before after : List CRecord) : Prop :=
  after.length = before.length ∧
  ∀ (i : Nat) (r : CRecord), before[i]? = some r →
    ∃ u, after[i]? = some u ∧ WithdrawnRecord reason r u ∧ u.hold = none ∧ u.evalPending = false

/-- The sends of a WITHDRAW entry: 3, or 1 for reason SUPPLY (Table 4-7). -/
def withdrawSends (w : WithdrawContent) : Nat := if w.reason = .supply then 1 else 3

/-- The WITHDRAW entry of a withdrawal stands in the queue of `t`: on its own, merged into one that waits, or held as the
renewal of one in flight; or it met a full queue, and QUEUE_DROP is raised (R158, R71). -/
abbrev WithdrawQueued (w : WithdrawContent) (s t : State) : Prop :=
  let held := s.line.queue.find? fun e => e.key == .withdraw
  let merged (c : WithdrawContent) : WithdrawContent := mergeWithdraw s.clock.current c w
  (held = none → s.line.queue.length < 12 →
    ∃ x ∈ t.line.queue, x.key = .withdraw ∧ x.content = some w ∧ x.sends = withdrawSends w) ∧
  (held = none → 12 ≤ s.line.queue.length → flagSet .queueDrop t = true) ∧
  (∀ e ∈ held, e.inFlight = false → ∀ c ∈ e.content,
    ∃ x ∈ t.line.queue, x.key = .withdraw ∧ x.content = some (merged c) ∧ x.sends = withdrawSends (merged c)) ∧
  (∀ e ∈ held, e.inFlight = true →
    ∃ x ∈ t.line.queue, x.key = .withdraw ∧ x.content = e.content ∧ x.sends = e.sends ∧
      x.renewal = .withdraw (match e.renewal with
        | .withdraw p => merged p
        | .plain => w
        | .absent => w))

/-- The intervals a withdrawal names. -/
abbrev WithdrawContent.Names (w : WithdrawContent) (k : Word) : Prop :=
  ∃ o ∈ List.range 8, w.affected.getLsbD o = true ∧ k = w.first + BitVec.ofNat 16 o

/-- A withdrawal of a set of intervals is announced: with nothing in the set the line is as before; else a WITHDRAW entry
names exactly these intervals from the earliest on (R158). -/
abbrev Announced (reason : Reason) (hit : Word → Prop) (s t : State) : Prop :=
  ((∀ k, ¬ hit k) → t.line = s.line) ∧
  ∀ k, hit k → ∃ w : WithdrawContent, w.reason = reason ∧ w.affected.getLsbD 0 = true ∧ (∀ j, w.Names j ↔ hit j) ∧
    WithdrawQueued w s t

/-- A withdrawal of all horizon intervals with a reason: the records, and the WITHDRAW entry with the table's first
interval and all 8 flags (R157, R158). -/
abbrev WithdrawnWhole (reason : Reason) (s t : State) : Prop :=
  AllWithdrawn reason s.table t.table ∧
  (s.ctrl.station ≠ .unjoined → HorizonLaw s → WithdrawQueued ⟨reason, tableFirst s, 0xFF⟩ s t) ∧
  flagSet .withdrawn t = true

/-- What a millisecond does: the running timers of the Station Controller, the Pledge Engine and the holds lose 1, the
state-stale timer grows to its limit, the second's count grows while the clock counts, the ages grow to 10 × Tp, the meter's
count grows by 10,000, and the monitor adds its samples (R7, R9, R13, R15, R16, R49, R55, R58 to R62, R84, R120, R128, R152
to R155). -/
abbrev Millisecond (s t : State) : Prop :=
  let c := s.ctrl.config
  let down (x : Option Nat) : Option Nat := x.map (· - 1)
  let up (x : Option Nat) : Option Nat := x.map (· + 1)
  t = { s with
    ctrl := t.ctrl, clock := t.clock, table := t.table, pledge := t.pledge, line := t.line, view := t.view,
    freq := { s.freq with count := s.freq.count + 10000 }, act := { s.act with pwmDue := true }, mon := t.mon } ∧
  (t.ctrl = { s.ctrl with
     listening := down s.ctrl.listening, leaving := down s.ctrl.leaving, filter := t.ctrl.filter
     staleMs := if s.ctrl.staleMs < c.staleLimit * 1000 then s.ctrl.staleMs + 1 else s.ctrl.staleMs } ∧
   (∀ n, s.ctrl.filter = .timing n → t.ctrl.filter = .timing (n - 1)) ∧
   (s.ctrl.filter.isTiming = false → t.ctrl.filter = s.ctrl.filter)) ∧
  t.clock = (if s.clock.mark = none ∧ s.clock.rebuild = none then { s.clock with subMs := s.clock.subMs + 1 }
    else s.clock) ∧
  t.table = (s.table.map fun r => { r with hold := down r.hold }) ∧
  t.pledge = { s.pledge with
    comp := s.pledge.comp.map fun x => { x with left := x.left - 1 }, refresh := down s.pledge.refresh } ∧
  (s.ctrl.station = .unjoined → t.line = s.line) ∧
  (s.ctrl.station ≠ .unjoined → t.line = { s.line with
    burst := up s.line.burst
    idleMs := if s.line.carrier then s.line.idleMs else s.line.idleMs + 1
    run := if s.line.tx = .waiting ∧ s.line.carrier = false then up s.line.run else s.line.run
    sending := s.line.sending.map fun f => { f with left := f.left - 3 }
    receiver := t.line.receiver } ∧
    (s.line.cdet = false → t.line.receiver = .idle) ∧
    (s.line.cdet = true → ∀ ms, s.line.receiver = .since ms → t.line.receiver = .since (ms + 1)) ∧
    (s.line.cdet = true → (∀ ms, s.line.receiver ≠ .since ms) → t.line.receiver = s.line.receiver)) ∧
  t.view = (s.view.map fun p => { p with ageMs := min (10 * c.refreshPeriod * 1000) (p.ageMs + 1) }) ∧
  t.mon = { s.mon with
    samples := s.mon.samples + (if s.mon.fb = .present then s.mon.f else s.mon.heldD)
    measureMs := s.mon.measureMs + 1
    settling := down s.mon.settling
    judgeMs := if s.mon.window = .judging then up s.mon.judgeMs else s.mon.judgeMs
    dSum := if s.mon.window = .judging then s.mon.dSum + s.mon.heldD else s.mon.dSum
    fSum := if s.mon.window = .judging then s.mon.fSum + s.mon.f else s.mon.fSum
    lossMs := min 50 (s.mon.lossMs + 1) }

/-- The frame at the front of a joined station's receive buffer, with no lock that holds it (R69, R52). -/
abbrev FrontFrame (s : State) (n : Notice) (rest : List Notice) : Prop :=
  s.ctrl.station ≠ .unjoined ∧ s.line.rx = n :: rest ∧
  (s.pledge.comp = none ∨ ∀ k ∈ n.body.intervals, inHorizon (tableFirst s) k = false)

/-- The length of the idle run an entry waits for: 4 slots for a WITHDRAW, 6 for an AWARD, 8 for a TAKE, 10 for a PLEDGE,
and its draw (Table 4-3). -/
def runLength (e : QEntry) : Nat :=
  match e.key with
  | .withdraw => 4 + e.draw
  | .award _ _ => 6 + e.draw
  | .take _ _ => 8 + e.draw
  | .pledge => 10 + e.draw

/-- When a step of the part falls due, by the rule that times it; a command of the host or an edge on a pin never does
(R7, R9, R13, R15 to R21, R49, R55, R59, R61, R62, R65, R69, R84, R85, R120, R131, R146, R152 to R155). -/
def FallsDue (s : State) : Instr → Prop
  | .receivedPledge => ∃ n rest first entries, FrontFrame s n rest ∧ n.body = .pledge first entries
  | .receivedTake => ∃ n rest k d issue amount, FrontFrame s n rest ∧ n.body = .take k d issue amount
  | .receivedWithdraw => ∃ n rest reason first set, FrontFrame s n rest ∧ n.body = .withdraw reason first set
  | .receivedAward =>
    ∃ n rest k d issue band q cmp mask, FrontFrame s n rest ∧ n.body = .award k d issue band q cmp mask
  | .clockSecond => s.clock.mark = none ∧ s.clock.rebuild = none ∧ s.clock.second < 299 ∧ 1000 ≤ s.clock.subMs
  | .intervalBoundary => s.clock.mark = none ∧ s.clock.rebuild = none ∧ s.clock.second = 299 ∧ 1000 ≤ s.clock.subMs ∧
      s.pledge.boundaryPending = false
  | .markBoundary => s.clock.mark.isSome = true ∧ s.pledge.comp = none ∧ s.pledge.boundaryPending = false
  | .rebuild => s.clock.rebuild.isSome = true ∧ s.pledge.comp = none ∧ s.pledge.boundaryPending = false
  | .listeningTimerExpiry => s.ctrl.station = .listening ∧ s.ctrl.listening = some 0
  | .leavingTimerExpiry => s.ctrl.station = .leaving ∧ s.ctrl.leaving = some 0
  | .stateStaleLimit => s.ctrl.station = .active ∧ s.ctrl.stale = false ∧ s.ctrl.config.staleLimit * 1000 ≤ s.ctrl.staleMs
  | .supplyFilterExpiry => s.ctrl.filter = .timing 0
  | .computationEnd => ∃ c ∈ s.pledge.comp, c.left = 0
  | .refreshTimerExpiry => s.pledge.refresh = some 0
  | .holdExpiry k d => ∃ r ∈ s.table, r.interval = k ∧ r.dir = d ∧ r.hold = some 0
  | .peerStale id => ∃ p ∈ s.view, p.id = id ∧ p.status ≠ .stale ∧ 3 * s.ctrl.config.refreshPeriod * 1000 ≤ p.ageMs
  | .peerRemoved id => ∃ p ∈ s.view, p.id = id ∧ 10 * s.ctrl.config.refreshPeriod * 1000 ≤ p.ageMs
  | .lineCarrier => s.ctrl.station ≠ .unjoined ∧ s.line.tx ≠ .sending ∧ s.line.carrier = false ∧
      ∃ n ∈ s.line.burst, 2 ≤ n
  | .lineJam => s.ctrl.station ≠ .unjoined ∧ (s.line.tx = .idle ∨ s.line.tx = .waiting) ∧ s.line.carrier = true ∧
      ∃ n ∈ s.line.burst, 400 ≤ n
  | .jamClear => s.ctrl.station ≠ .unjoined ∧ s.line.tx = .jammed ∧ s.line.carrier = false ∧ 50 ≤ s.line.idleMs
  | .idleRunComplete => s.ctrl.station ≠ .unjoined ∧ s.line.tx = .waiting ∧ s.line.carrier = false ∧
      ∃ n ∈ s.line.run, ∃ e ∈ s.line.queue.head?, runLength e ≤ n
  | .transmissionEnd => s.ctrl.station ≠ .unjoined ∧ s.line.tx = .sending ∧ ∃ f ∈ s.line.sending, f.left = 0
  | .missedPeriod => s.freq.missStart + (if s.ctrl.config.nominal = .hz50 then 300000 else 250001) ≤ s.freq.count
  | .pwmPeriodStart => s.act.pwmDue = true
  | .feedbackLost => s.mon.fb = .present ∧ 50 ≤ s.mon.lossMs
  | .measurementPeriodEnd => 1000 ≤ s.mon.measureMs
  | .settlingExpiry => s.mon.window = .settling ∧ s.mon.settling = some 0
  | .judgePeriodEnd => s.mon.window = .judging ∧ ∃ n ∈ s.mon.judgeMs, 1000 ≤ n
  | .powerOnReset | .noCommandTransaction _ | .unknownCommand _ _ | .configure _ | .join _ | .leave _ | .restart _
  | .clearSuspend _ | .intervalMark _ | .setState _ | .setBaseline _ | .setPrice _ | .setAvailability _
  | .injectAward _ | .readStatus _ | .readHorizon _ | .readView _ | .readLadder _ | .readLog _ | .readEvents _
  | .clearEvents _ | .setEventMask _ | .supplyWarningActive | .supplyWarningInactive | .carrierDetectChange _
  | .frameReceived _ | .crossing _ | .feedbackPeriod _ _ _ => False

/-- What R45 to R47 make of a slot and direction: the energy and headroom limits of slot `j`, the lower of them or 0, the
derate, the quantum and the minimum pledge; RAISE is 0 before an energy position is given (R36). -/
def pledgeByRules (cfg : StationConfig) (p : PledgeEngine) (c : Computation) (j : Nat) (d : Direction) (isOpen : Bool) :
    Nat :=
  let baseline (i : Nat) : Int := c.baselines.getD i 0
  let between : Int := (((List.range j).filter fun i => 1 ≤ i).map baseline).sum
  let x : Int := if j = 0 then 3600 * c.estimate
    else 3600 * c.estimate - (baseline 0 * c.remaining + 300 * between)
  let energy : Int := match d with
    | .raise => max 0 (x - 3600 * p.eFloor) / (60 * cfg.sustain)
    | .lower => max 0 (3600 * p.eCeil - x) / (60 * cfg.sustain)
  let headroom : Int := match d with
    | .raise => max 0 (cfg.dischargeMax - baseline j)
    | .lower => max 0 (cfg.chargeMax + baseline j)
  let available := (c.avails[j]?).all fun f => match d with
    | .raise => f.1
    | .lower => f.2
  let offered := available = true ∧ ¬ (c.stale = true ∧ isOpen = true) ∧ (d = .raise → p.positioned = true)
  let raw := if offered then (min energy headroom).toNat else 0
  let pledge := raw * (16 - c.errors) / 16 / 10 * 10
  if pledge < cfg.minPledge then 0 else pledge

/-- The line once its queue has become `queue`. In SENDING and JAMMED, and in WAITING with the same head, the transmitter
goes on; from IDLE, and for a new head in WAITING, a new run begins with a fresh draw; a WAITING transmitter whose queue is
empty is IDLE (R61, R62, R74). -/
abbrev LineSettled (queue : List QEntry) (l m : LineInterface) : Prop :=
  let stands := l.tx = .sending ∨ l.tx = .jammed ∨ (l.tx = .idle ∧ queue = []) ∨
    (l.tx = .waiting ∧ queue ≠ [] ∧ queue.head?.map (·.key) = l.queue.head?.map (·.key))
  (stands → m = { l with queue := queue }) ∧
  (¬ stands → queue = [] → m = { l with tx := .idle, queue := [], run := none }) ∧
  (¬ stands → queue ≠ [] →
    m = { l with tx := .waiting, queue := m.queue, run := some 0, backoff := backoffAdvance l.backoff } ∧
    m.queue.drop 1 = queue.drop 1 ∧
    m.queue.head? = queue.head?.map fun e => { e with draw := m.backoff.toNat % 16 })

/-- A purge: every TAKE and AWARD entry not in flight whose interval fails `keep` is gone, and no other (R74). -/
abbrev Purged (keep : Word → Bool) (s t : State) : Prop :=
  LineSettled (s.line.queue.filter fun e => e.inFlight || e.key.interval.all keep) s.line t.line

/-- The members of an award for (k, d): every FRESH peer in the pattern that holds an entry for k, with the band and quantity
of its entry and its heard take (R87, R88, R104). -/
def membersFor (view : List Peer) (k : Word) (d : Direction) (a : Award) : List Member :=
  view.filterMap fun p =>
    if p.status = .fresh ∧ (p.zone ^^^ a.compare) &&& ~~~a.mask = 0 then
      (p.entryAt k).map fun e => match d with
        | .raise => ⟨p.id, e.raiseBand.toNat, e.raiseQty.toNat, p.heardAt k .raise⟩
        | .lower => ⟨p.id, e.lowerBand.toNat, e.lowerQty.toNat, p.heardAt k .lower⟩
    else none

/-- A record after its own take is written: an unchanged take leaves it; a changed one starts the hold of H, and max and min
take follow (R27, R110, R120). -/
def takeChanged (c : StationConfig) (take : Nat) (r : CRecord) : CRecord :=
  if take = r.take then r
  else { r with
    take := take
    hold := some (2000 + c.stationId % 16 * 250)
    run := r.run.map fun f => { f with maxTake := max f.maxTake take, minTake := min f.minTake take } }

/-- A record after one cover evaluation under its award (R117). -/
def evaluatedRecord (c : StationConfig) (ms : List Member) (a : Award) (r : CRecord) : CRecord :=
  takeChanged c (evaluatedTake c.stationId c.overCover ms a ⟨r.cap.getD 0, r.frozenBand.getD 0⟩ r.take) r

/-- An awarded record of an ACTIVE station after a trigger: with the hold running or the records locked the pending flag is
set, else the evaluation is made at once (R119, Table 7-4). -/
def triggeredRecord (c : StationConfig) (ms : List Member) (a : Award) (locked : Bool) (r : CRecord) : CRecord :=
  if r.hold.isSome = true ∨ locked = true then { r with evalPending := true } else evaluatedRecord c ms a r

/-- The merit take of a record under an award (R105). -/
def meritOf (ms : List Member) (a : Award) (r : CRecord) : Nat := ownMerit ms a ⟨r.cap.getD 0, r.frozenBand.getD 0⟩

/-- A record after the merit take of its award is written in ACTIVE and the trigger that follows (R106, R118, R122). -/
def allocatedRecord (c : StationConfig) (ms : List Member) (a : Award) (r : CRecord) : CRecord :=
  triggeredRecord c ms a false (takeChanged c (meritOf ms a r) r)

/-- A record of `s` after a view change report, against the view as changed: one that holds an award and that the report
names, in ACTIVE, takes the trigger (R83, R118). -/
def reportedRecord (s : State) (view : List Peer) (named : Bool) (r : CRecord) : CRecord :=
  match r.award with
  | some a =>
    if named = true ∧ s.ctrl.station = .active then
      triggeredRecord s.ctrl.config (membersFor view r.interval r.dir a) a s.pledge.comp.isSome r
    else r
  | none => r

/-- A TAKE entry for a record stands in the queue with its sends set afresh, or with a renewal where it is in flight; or the
insert met a full queue, and QUEUE_DROP is raised (R71, R109). -/
abbrev TakeQueued (r : CRecord) (t : State) : Prop :=
  (12 ≤ t.line.queue.length ∧ flagSet .queueDrop t = true) ∨
  ∃ e ∈ t.line.queue, e.key = .take r.interval r.dir ∧ (if e.inFlight = true then e.renewal = .plain else e.sends = 2)

/-- The TAKE test, made for each of the takes in turn: a TAKE entry is inserted where one of them is above 0 or differs from
the last sent take, an absent one counting as 0; else the entries for the record are those of `s` (R109). -/
abbrev TakeTested (takes : List Nat) (r : CRecord) (s t : State) : Prop :=
  let wanted (x : Nat) : Prop := 0 < x ∨ x ≠ r.lastSent.getD 0
  ((∃ x ∈ takes, wanted x) → TakeQueued r t) ∧
  ((∀ x ∈ takes, ¬ wanted x) →
    ∀ e ∈ t.line.queue, e.key = .take r.interval r.dir → ∃ x ∈ s.line.queue, e = { x with draw := e.draw })

/-- A changed take raises TAKE, and the TAKE test is made for it (R109, R110). -/
abbrev TakeNoted (r u : CRecord) (s t : State) : Prop :=
  u.take ≠ r.take → flagSet .take t = true ∧ TakeTested [u.take] u s t

/-- The view change reports of a header's update and of a body's update have reached the records: each named awarded record
took its trigger, once for each report, every other stands; and where no take changed, the line but for the buffer, the
events, the setpoint and the monitor stand (R83, R118, R119). -/
abbrev ReportsActed (header body : Word → Direction → Bool) (s t : State) : Prop :=
  (∀ k d r, findRec s.table k d = some r →
    ∃ u, findRec t.table k d = some u ∧
      u = reportedRecord s t.view (body k d) (reportedRecord s t.view (header k d) r) ∧ TakeNoted r u s t) ∧
  ((∀ k d, (findRec t.table k d).map (·.take) = (findRec s.table k d).map (·.take)) →
    t.line = { s.line with rx := t.line.rx } ∧ t.host = s.host ∧ t.act = s.act ∧ t.mon = s.mon)

/-- The pairs a header's update names: where it changes the zone code of the sender's record, all horizon pairs for which the
record holds an entry or a heard take (Table 5-4). -/
def zoneNames (s : State) (n : Notice) (k : Word) (d : Direction) : Bool :=
  (findPeer s.view n.sender.toNat).any fun p =>
    p.zone != n.zone && inHorizon s.clock.current k && ((p.entryAt k).isSome || (p.heardAt k d).isSome)

/-- A record met by an award, `v` before and `u` after: in ACTIVE, where the award is stored (applied, or the greater of a
conflict), the merit take is written, TAKE raised for a change, the TAKE test made and the trigger taken; otherwise take, hold
and pending flag stand (R99, R106, R109, R118, R122). -/
abbrev AwardAllocated (a : Award) (v u : CRecord) (s t : State) : Prop :=
  let stored := ∀ h ∈ v.award, h.issue < a.issue ∨
    (h.issue = a.issue ∧ a.sameContent h = false ∧ a.greater h = true)
  let held := { u with take := v.take, hold := v.hold, evalPending := v.evalPending, run := v.run }
  let ms := membersFor t.view v.interval v.dir a
  u.lastSent = v.lastSent ∧ u.withdrawn = v.withdrawn ∧
  (s.ctrl.station = .active ∧ stored →
    u = allocatedRecord s.ctrl.config ms a held ∧ (u.take ≠ v.take → flagSet .take t = true) ∧
    TakeTested [meritOf ms a held, u.take] u s t) ∧
  (¬ (s.ctrl.station = .active ∧ stored) → u = held)

/-- A new D is handed to the Delivery Monitor: an unchanged D hands nothing over; a changed one is the held D, and where the
window runs and D lies 10 or more from the reference delta, SETTLING starts afresh with D as the reference and a judge period
in progress is abandoned; a smaller step leaves the window (R147, R154, Table 10-3). -/
abbrev DeltaHanded (s t : State) : Prop :=
  let d := t.act.delta
  let far := s.mon.window ≠ .stopped ∧ 10 ≤ (d - s.mon.reference).natAbs
  (d = s.act.delta → t.mon = s.mon) ∧
  (d ≠ s.act.delta → ¬ far → t.mon = { s.mon with heldD := d }) ∧
  (d ≠ s.act.delta → far → t.mon = { s.mon with
    heldD := d, window := .settling, reference := d, settling := some s.ctrl.config.settleTime, judgeMs := none
    dSum := 0, fSum := 0 })

/-- A boundary has been issued from `s`: the TAKE and AWARD entries of ended intervals are purged but for one in flight, the
view has dropped the ended interval, and a changed D is handed over (R74, R86, R144, R147). -/
abbrev BoundaryIssued (s t : State) : Prop :=
  Purged (fun k => !isBefore k (s.clock.current + 1)) s t ∧
  t.view = s.view.map (fun p => { p with
    entries := p.entries.filter fun e => e.interval != s.clock.current
    heard := p.heard.filter fun h => h.interval != s.clock.current }) ∧
  DeltaHanded s t

/-- A boundary has been performed at the table from `s`: the records of the next interval are RUNNING with fresh running
fields and all else carried over, the records of the later ones stand, two OPEN records stand at slot 7, and the ladders of
the ended interval alone are gone (R27, R28, R31, R92). -/
abbrev BoundaryPerformed (s t : State) : Prop :=
  recordKeys t.table = horizonPairs (s.clock.current + 1) ∧
  (∀ r ∈ s.table, r.interval ≠ s.clock.current →
    findRec t.table r.interval r.dir = some (if r.interval = s.clock.current + 1 then
      { r with state := .running, run := some ⟨r.take, r.take, 0, 0, 0⟩ } else r)) ∧
  (∀ d, findRec t.table (s.clock.current + 8) d = some (openRecord (s.clock.current + 8) d)) ∧
  ∀ l, l ∈ t.pledge.ladders ↔ l ∈ s.pledge.ladders ∧ l.interval ≠ s.clock.current

/-- What the single write makes of a record `r`: `u`, of the slot against the table's first interval (Table 3-4, R26, R29).
Outside ACTIVE every fresh pledge counts as 0 (R50). -/
abbrev Written (s : State) (c : Computation) (r u : CRecord) : Prop :=
  let j := slotOf (tableFirst s) r.interval
  let isOpen := c.openRecs.any fun kd => kd.1 == r.interval && kd.2 == r.dir
  let fresh := if s.ctrl.station = .active then freshPledge s.ctrl.config s.pledge c j r.dir isOpen else 0
  let gate := c.boundary = true ∧ 1 ≤ j ∧ j ≤ s.ctrl.config.gateLead
  u.interval = r.interval ∧ u.dir = r.dir ∧ u.award = r.award ∧ u.withdrawn = r.withdrawn ∧ u.lastSent = r.lastSent ∧
  (r.state = .opened → ¬ gate → u.state = .opened ∧ u.live = some fresh ∧ u.frozen = r.frozen ∧ u.cap = r.cap ∧
    u.frozenBand = r.frozenBand) ∧
  (r.state = .opened → gate → u.state = .closed ∧ u.live = none ∧ u.frozen = some fresh ∧ u.cap = some fresh ∧
    u.frozenBand = some (if r.dir = .raise then c.raiseBand else c.lowerBand)) ∧
  (r.state ≠ .opened → u.state = r.state ∧ u.live = r.live ∧ u.frozen = r.frozen ∧ u.frozenBand = r.frozenBand ∧
    u.cap = some (min (r.cap.getD 0) fresh)) ∧
  u.take = (if r.state = .opened then r.take else min r.take (min (r.cap.getD 0) fresh))

/-- What follows a take the write lowered: the hold starts, TAKE is raised, a TAKE entry is queued or QUEUE_DROP raised, the
running fields follow, and the trigger sets the pending flag; a record whose take stands keeps its hold and running fields
(R123, R120, R27). -/
abbrev LoweringNoted (s : State) (r u : CRecord) (t : State) : Prop :=
  (u.take < r.take → u.hold = some (2000 + s.ctrl.config.stationId % 16 * 250) ∧ flagSet .take t = true ∧
    TakeQueued r t ∧
    u.run = r.run.map fun f => { f with maxTake := max f.maxTake u.take, minTake := min f.minTake u.take }) ∧
  (HorizonLaw s → u.take < r.take →
    u.evalPending = (r.evalPending || (s.ctrl.station == .active && r.award.isSome))) ∧
  (HorizonLaw s → u.take = r.take → u.hold = r.hold ∧ u.evalPending = r.evalPending ∧ u.run = r.run)

/-- A written record after the merit take of an entry into ACTIVE that waited for the lock (R106). -/
def entryRecord (s : State) (u : CRecord) : CRecord :=
  match u.award with
  | some a =>
    if s.entryTakesDue = true ∧ s.ctrl.station = .active then
      allocatedRecord s.ctrl.config (membersFor s.view u.interval u.dir a) a u
    else u
  | none => u

/-- A record after the evaluation that waited for the lock: one whose pending flag is set and whose hold is stopped has the
flag cleared and, awarded in ACTIVE, is evaluated (R119). -/
def waitingRecord (s : State) (w : CRecord) : CRecord :=
  let x := { w with evalPending := false }
  if w.evalPending = true ∧ w.hold = none then
    match w.award with
    | some a =>
      if s.ctrl.station = .active then
        evaluatedRecord s.ctrl.config (membersFor s.view w.interval w.dir a) a x
      else x
    | none => x
  else w

/-- The end of a lock at a record: `r` before the write, `u` as written, `v` at the end. TAKE is raised for a change, and the
TAKE test is made for a merit take and for a take an evaluation changed (R106, R109, R110, R119). -/
abbrev LockEnded (s : State) (r u v : CRecord) (t : State) : Prop :=
  let w := entryRecord s u
  let merits := (u.award.map fun a => meritOf (membersFor s.view u.interval u.dir a) a u).toList
  v = waitingRecord s w ∧ (v.take ≠ u.take → flagSet .take t = true) ∧
  (u.take = r.take →
    if s.entryTakesDue = true ∧ s.ctrl.station = .active ∧ u.award.isSome = true then
      TakeTested (merits ++ [w.take, v.take]) u s t
    else TakeTested (if v.take = u.take then [] else [v.take]) u s t)

/-- The offer ladder of a frozen record, against the bid pattern: the band sums, their running sums and the counts over the
FRESH records in the pattern that hold an entry for the interval, and the own frozen pledge (Table 5-5, R87). -/
abbrev LadderOf (s : State) (r : CRecord) (l : Ladder) : Prop :=
  let c := s.ctrl.config
  let d := r.dir
  let inPattern (zone : Word) : Bool := (zone ^^^ c.bidCompare) &&& ~~~c.bidMask == 0
  let offers := (s.view.filter fun p => p.status == .fresh && inPattern p.zone).filterMap (·.entryAt r.interval)
  let own (b : Nat) : Nat := if inPattern c.zone = true ∧ r.frozenBand = some b then r.frozen.getD 0 else 0
  let bandSum (b : Nat) : Nat := ((offers.filter fun e => e.band d == b).map (·.qty d)).sum + own b
  l.interval = r.interval ∧ l.dir = d ∧ l.compare = c.bidCompare ∧ l.mask = c.bidMask ∧
  l.bandSums.length = 16 ∧ l.cumulative.length = 16 ∧
  (∀ b ∈ List.range 16, l.bandSums[b]? = some (bandSum b) ∧
    l.cumulative[b]? = some ((List.range (b + 1)).map bandSum).sum) ∧
  l.contributing = (offers.filter fun e => decide (0 < e.qty d)).length +
    (if inPattern c.zone = true ∧ 0 < r.frozen.getD 0 then 1 else 0) ∧
  l.staleExcluded =
    (s.view.filter fun p => p.status == .stale && inPattern p.zone && (p.entryAt r.interval).isSome).length

/-- The settlement record of a handed record (Table 11-3): of one that holds no running fields, those of a record that has
run for no time. -/
def settledAs (r : CRecord) : Settlement where
  interval  := r.interval
  dir       := r.dir
  award     := r.award.map fun a => ⟨a.issue, a.band, a.quantity, a.conflict⟩
  frozen    := r.frozen.getD 0
  finalTake := r.take
  maxTake   := (r.run.map (·.maxTake)).getD r.take
  minTake   := (r.run.map (·.minTake)).getD r.take
  delivered := Int.tdiv ((r.run.map (·.delivered)).getD 0) 3600
  good      := (r.run.map (·.good)).getD 0
  bad       := (r.run.map (·.bad)).getD 0
  withdrawn := r.withdrawn

/-- An event raised `n` times: its flag is set where n is not 0, its again flag where it met the flag (R162). -/
abbrev Raised (e : Event) (n : Nat) (s t : State) : Prop :=
  flagSet e t = (flagSet e s || decide (0 < n)) ∧
  againSet e t = (againSet e s || (flagSet e s && decide (0 < n)) || decide (1 < n))

/-- The records of an interval handed to the Settlement Log, RAISE first: one with a nonzero frozen pledge or an award makes
a settlement record at the newest end, and SETTLED; beyond 32 the oldest goes, with LOG_OVERRUN (R165, R166). -/
abbrev Handed (k : Word) (s t : State) : Prop :=
  let handed := ([.raise, .lower] : List Direction).filterMap fun d => findRec s.table k d
  let made := (handed.filter fun r => r.frozen.getD 0 != 0 || r.award.isSome).map settledAs
  let beyond := s.host.log.length + made.length - 32
  t = { s with host := { s.host with log := t.host.log, flags := t.host.flags, again := t.host.again } } ∧
  t.host.log = (s.host.log ++ made).drop beyond ∧
  Raised .settled made.length s t ∧ Raised .logOverrun beyond s t ∧
  ∀ e, e ≠ .settled → e ≠ .logOverrun → Raised e 0 s t

/-- An insert into the Transmit Queue by Table 4-7, in a queue that keeps its law. A kind and key that waits is coalesced, or
its content merged, where it stands; one in flight gets its renewal; an absent one joins its group's tail. At 12 entries a
TAKE may evict the PLEDGE entry, an AWARD or WITHDRAW that or else the last of group B, none in flight; or the insert is
dropped; either raises QUEUE_DROP (R70, R71). Where the head is another one in WAITING, or the transmitter was IDLE, a new run
begins (R62). -/
abbrev Inserted (k : NoticeKey) (w : Option WithdrawContent) (s t : State) : Prop :=
  let q := s.line.queue
  let inA (k : NoticeKey) : Bool := match k with
    | .withdraw => true
    | .award _ _ => true
    | .take _ _ => false
    | .pledge => false
  let sends (c : Option WithdrawContent) : Nat := match k with
    | .pledge => 1
    | .take _ _ => 2
    | .award _ _ => 3
    | .withdraw => if c.map (·.reason) = some .supply then 1 else 3
  let waits := q.filter fun e => !e.inFlight
  let flight := q.filter fun e => e.inFlight
  let joined (others : List QEntry) : List QEntry :=
    let new : QEntry := ⟨k, w, sends w, 0, false, .absent⟩
    if inA k then flight ++ others.filter (fun e => inA e.key) ++ new :: others.filter (fun e => !inA e.key)
    else flight ++ others ++ [new]
  let groupB := waits.filter fun e => !inA e.key
  let hasPledge := groupB.any fun e => e.key == .pledge
  let is (queue : List QEntry) (drops : Nat) : Prop :=
    Raised .queueDrop drops s t ∧ (∀ e, e ≠ .queueDrop → Raised e 0 s t) ∧
    t = { s with line := t.line, host := t.host } ∧ t.host = { s.host with flags := t.host.flags, again := t.host.again } ∧
    LineSettled queue s.line t.line
  (∀ e, q.find? (fun e => e.key == k) = some e →
    (e.inFlight = false →
      let content := match e.content, w with
        | some c, some w => some (mergeWithdraw s.clock.current c w)
        | some c, none => some c
        | none, w => w
      is (q.map fun x => if x.key = k then { e with content := content, sends := sends content } else x) 0) ∧
    (e.inFlight = true →
      let renewal : Renewal := match w, e.renewal with
        | none, _ => .plain
        | some w, .withdraw p => .withdraw (mergeWithdraw s.clock.current p w)
        | some w, .absent => .withdraw w
        | some w, .plain => .withdraw w
      is (q.map fun x => if x.key = k then { e with renewal := renewal } else x) 0)) ∧
  (q.find? (fun e => e.key == k) = none →
    (q.length < 12 → is (joined waits) 0) ∧
    (12 ≤ q.length →
      let withoutPledge := waits.filter fun e => e.key != .pledge
      let withoutLast := waits.filter fun e => groupB.getLast?.map (·.key) != some e.key
      (k ≠ .pledge → hasPledge = true → is (joined withoutPledge) 1) ∧
      (inA k = true → hasPledge = false → groupB ≠ [] → is (joined withoutLast) 1) ∧
      (k = .pledge ∨ hasPledge = false ∧ (inA k = false ∨ groupB = []) → is q 1)))

/-- A state of an UNJOINED station after LEAVE: table, view, ladders, queue and buffer empty, the line off, no timer, no
computation, the setpoint neutral (R10, R36, R57). -/
abbrev OutOfCluster (s : State) : Prop :=
  s.ctrl.station = .unjoined ∧ s.ctrl.suspendReason = none ∧ s.ctrl.listening = none ∧ s.ctrl.leaving = none ∧
  s.ctrl.stale = false ∧ s.table = [] ∧ s.view = [] ∧ s.pledge.comp = none ∧ s.pledge.rerun = none ∧
  s.pledge.boundaryPending = false ∧ s.pledge.refresh = none ∧ s.pledge.ladders = [] ∧ s.line.tx = .idle ∧
  s.line.queue = [] ∧ s.line.rx = [] ∧ s.line.sending = none ∧ Neutral s

/-- What becomes of a record `r` that an award meets, `u` in the state `t` (Table 6-3): with no award held or a lower issue
the award is applied, an OPEN record being frozen at its live pledge with the band; the same content leaves the held award;
of another content of the same issue the greater is held, its conflict flag set (R96, R97, R32). -/
abbrev AwardMet (a : Award) (band : Nat) (r u : CRecord) (t : State) : Prop :=
  let applied := u.award = some { a with conflict := false } ∧ flagSet .award t = true ∧
    (r.state = .running → u.state = .running) ∧ (r.state ≠ .running → u.state = .awarded) ∧
    (r.state = .opened → u.live = none ∧ u.frozen = some (r.live.getD 0) ∧ u.cap = some (r.live.getD 0) ∧
      u.frozenBand = some band) ∧
    (r.state ≠ .opened → u.frozen = r.frozen ∧ u.cap = r.cap ∧ u.frozenBand = r.frozenBand)
  let outranked (h : Award) := u.award = some { (if a.greater h then a else h) with conflict := true } ∧
    u.state = r.state ∧ flagSet .awardConflict t = true
  (r.award = none → applied) ∧
  ∀ h ∈ r.award,
    (h.issue < a.issue → applied) ∧ (a.issue < h.issue → u.award = some h ∧ u.state = r.state) ∧
    (a.issue = h.issue → a.sameContent h = true → u.award = some h ∧ u.state = r.state) ∧
    (a.issue = h.issue → a.sameContent h = false → outranked h)

/-- The sender has a record, or the view has room for one (R79). -/
abbrev HasRoom (s : State) (n : Notice) : Prop :=
  (findPeer s.view n.sender.toNat).isSome = true ∨ s.view.length < 47

/-- The header's update (R78): the frame has left the buffer, its sender's record `q` has the zone code and age 0, and every
other record, the clock, the configuration, the Pledge Engine and the meter are as before. -/
abbrev HeaderTaken (s t : State) (n : Notice) (rest : List Notice) (q : Peer) : Prop :=
  t.line.rx = rest ∧ findPeer t.view n.sender.toNat = some q ∧ q.zone = n.zone ∧ q.ageMs = 0 ∧
  (∀ p ∈ s.view, p.id ≠ n.sender.toNat → findPeer t.view p.id = findPeer s.view p.id) ∧
  t.ctrl = s.ctrl ∧ t.clock = s.clock ∧ t.pledge = s.pledge ∧ t.freq = s.freq ∧
  recordKeys t.table = recordKeys s.table ∧ t.pending = s.pending

end Sys2Proof.Machine
end

