-- ==== Sys2Proof/Certificates/Slice0/Obligations.lean ====
section
/-! DEFINITION. The statements for the provers. -/

open Sys2Proof Sys2Proof.Machine

/-! ### The machine -/

/-- A step takes the command at the front of the queue and runs it on the state with the rest. With no command waiting it is
one of the part's own steps that have fallen due, or, where none has, one millisecond. What a millisecond does to each timer
and sum, and when a step falls due, is as the rules time them (R13, R16, R49, R59, R61, R62, R84, R120, R131, R152 to
R155), but for what is the model's: one queue and time in milliseconds, any of the due steps first, no natural boundary due
while one is held, a computation that ends 20 ms after its start where R49 says within 20 ms, and the receiver's count of the
carrier it has (logs 1, 2, 3, 5, 20, 22, 36). -/
def Obligations.StepRunsFrontCommand : Prop :=
  (∀ (c : Instr) (rest : List Instr) (s : State),
     s.pending = c :: rest → step s = exec c (s.setPending rest)) ∧
  (∀ s : State, s.pending = [] →
     (dueSteps s = [] → step s = .next (tick s)) ∧
     (dueSteps s ≠ [] → ∃ i ∈ dueSteps s, ∃ n, step s = exec i (s.setTies n))) ∧
  (∀ s : State, Millisecond s (tick s)) ∧
  (∀ (i : Instr) (s : State), i ∈ dueSteps s ↔ FallsDue s i)

/-- Every command answers a next state and leaves the queue of waiting commands alone; none stops the part. Apart from CONFIGURE
and power-on reset none writes a configuration item (R4). The model's: one queue from which a step takes each command, and
that a command whose event's condition does not hold leaves the state as it is (logs 1, 3). -/
def Obligations.EveryCommandCompletes : Prop :=
  (∀ (i : Instr) (s : State), ∃ t, exec i s = .next t ∧ t.pending = s.pending) ∧
  (∀ (i : Instr) (s t : State), (∀ x, i ≠ .configure x) → i ≠ .powerOnReset →
     exec i s = .next t → t.ctrl.config = s.ctrl.config)

/-! ### Encodings -/

/-- A well-formed host command is read back from the bytes of its transaction, with every operand at every value. The
model's: what a transaction carries (log 9). -/
def Obligations.TransactionsReadBack : Prop :=
  ∀ i : Instr, i.wellFormed = true → (commandBytes i).isSome = true →
    decodeTransaction (encodeTransaction i (clockedBytes i)) = i

/-- A frame assembled from a notice with a sender id of 1..250, and for a PLEDGE 1 to 8 entries, passes the frame check and
gives the notice back; and a frame that passes the check has such an id, such a count, and the length of its kind. -/
def Obligations.FramesReadBack : Prop :=
  (∀ n : Notice, 1 ≤ n.sender.toNat → n.sender.toNat ≤ 250 →
     (∀ first entries, n.body = .pledge first entries → 1 ≤ entries.length ∧ entries.length ≤ 8) →
     checkFrame (frameBytes n) = some n) ∧
  (∀ (bytes : List Byte) (n : Notice), checkFrame bytes = some n →
     1 ≤ n.sender.toNat ∧ n.sender.toNat ≤ 250 ∧ bytes.length = (frameBytes n).length ∧
     ∀ first entries, n.body = .pledge first entries → 1 ≤ entries.length ∧ entries.length ≤ 8)

/-! ### Resets -/

/-- POWER_ON_RESET leaves the state of State.reset. RESTART keeps the configuration, the event mask and the Settlement Log,
computes the phase of interval 0 from the kept configuration, holds its DONE answer, and gives every other piece of state its
power-on value. Both keep the levels of the pins SWARN and CDET, and the filter is TIMING from the reset where SWARN is active
(R1, R11, R13, R138). The model's: the pins' levels, and reset values the spec leaves open (logs 10, 26). -/
def Obligations.ResetStates : Prop :=
  (∀ s : State, ∃ t, exec .powerOnReset s = .next t ∧
     t.ctrl = { Controller.reset with
       swarn := s.ctrl.swarn, filter := if s.ctrl.swarn then .timing 20 else .idle } ∧
     t.clock = .reset ∧ t.table = [] ∧ t.pledge = .reset ∧ t.line = { LineInterface.reset with cdet := s.line.cdet } ∧
     t.view = [] ∧ t.entryTakesDue = false ∧ t.freq = .reset ∧ t.act = .reset ∧ t.mon = .reset ∧ t.host = .reset ∧
     t.ties = s.ties ∧ t.pending = s.pending) ∧
  (∀ (n : Nat) (s : State), ∃ t, exec (.restart ⟨n, some ()⟩) s = .next t ∧
     t.ctrl = { Controller.reset with
       config := s.ctrl.config, swarn := s.ctrl.swarn, filter := if s.ctrl.swarn then .timing 20 else .idle } ∧
     t.clock = .reset ∧ t.table = [] ∧ t.pledge = .reset ∧ t.line = { LineInterface.reset with cdet := s.line.cdet } ∧
     t.view = [] ∧ t.entryTakesDue = false ∧ t.freq = .reset ∧
     t.act = { ActivationUnit.reset with phase := s.ctrl.config.stationId * s.ctrl.config.ditherX % 16 } ∧
     t.mon = .reset ∧
     t.host = { HostLink.reset with
       mask := s.host.mask, log := s.host.log, held := some (plain .done), sdo := shiftOut s.host.held n } ∧
     t.ties = s.ties ∧ t.pending = s.pending)

/-- State.reset keeps every law of the part. -/
def Obligations.ResetKeepsTheLaws : Prop :=
  ConfigLaw State.reset ∧ ClockLaw State.reset ∧ StationLaw State.reset ∧ UnjoinedLaw State.reset ∧
  SetLaw State.reset ∧ HorizonLaw State.reset ∧ HeldLaw State.reset ∧ TakeLaw State.reset ∧ GateLaw State.reset ∧
  FieldsLaw State.reset ∧ InactiveLaw State.reset ∧ PledgeLaw State.reset ∧ EnergyLaw State.reset ∧
  BandLaw State.reset ∧ QueueLaw State.reset ∧ BufferLaw State.reset ∧ ViewLaw State.reset ∧ MeterLaw State.reset ∧
  ActivationLaw State.reset ∧ HeldDeltaLaw State.reset ∧ WindowLaw State.reset ∧ CounterLaw State.reset ∧ EventLaw State.reset ∧
  LogLaw State.reset

/-! ### The Host Link -/

/-- A transaction without a command gives up the held answer where its first byte was clocked out, and leaves none held;
an unknown code is answered UNKNOWN_COMMAND; nothing else changes. A transaction shifts out the held answer's bytes from
the first, and 0x00 for every byte beyond them; with no answer held only 0x00. The bytes of an answer are its code, the length
of its body in 2 bytes and the fields of the body, each in the bytes of its width, the most significant first (R159, R160,
R168, R171). The model's: what a transaction carries, and the layout of answers (logs 9, 19). -/
def Obligations.TransactionsShiftAnswers : Prop :=
  (∀ (n : Nat) (code : Byte) (s : State),
     exec (.noCommandTransaction n) s = .next { s with host := { s.host with
       sdo := shiftOut s.host.held n, held := if n = 0 then s.host.held else none } } ∧
     exec (.unknownCommand n code) s = .next (answeredOnly n (plain .unknownCommand) s)) ∧
  (∀ (n j : Nat) (a : Answer),
     (shiftOut (some a) n).length = n ∧ (shiftOut none n).length = n ∧
     (j < n → (shiftOut (some a) n)[j]? = some (a.bytes.getD j 0) ∧ (shiftOut none n)[j]? = some 0)) ∧
  (∀ a : Answer, a.bytes = answerFrame a)

/-- A command whose body has a length that is not allowed is answered REFUSED_RANGE, whatever the command and the station
state; in LEAVING every command outside the set of R9 is answered REFUSED_STATE. Neither changes anything but the answers
(R9, R160). -/
def Obligations.HostLinkRefusals : Prop :=
  (∀ (n : Nat) (s : State), ∃ r, r = Host.Outcome.next (answeredOnly n (plain .refusedRange) s) ∧
     exec (.configure ⟨n, none⟩) s = r ∧ exec (.join ⟨n, none⟩) s = r ∧ exec (.leave ⟨n, none⟩) s = r ∧
     exec (.restart ⟨n, none⟩) s = r ∧ exec (.clearSuspend ⟨n, none⟩) s = r ∧ exec (.intervalMark ⟨n, none⟩) s = r ∧
     exec (.setState ⟨n, none⟩) s = r ∧ exec (.setBaseline ⟨n, none⟩) s = r ∧ exec (.setPrice ⟨n, none⟩) s = r ∧
     exec (.setAvailability ⟨n, none⟩) s = r ∧ exec (.injectAward ⟨n, none⟩) s = r ∧
     exec (.readStatus ⟨n, none⟩) s = r ∧ exec (.readHorizon ⟨n, none⟩) s = r ∧ exec (.readView ⟨n, none⟩) s = r ∧
     exec (.readLadder ⟨n, none⟩) s = r ∧ exec (.readLog ⟨n, none⟩) s = r ∧ exec (.readEvents ⟨n, none⟩) s = r ∧
     exec (.clearEvents ⟨n, none⟩) s = r ∧ exec (.setEventMask ⟨n, none⟩) s = r) ∧
  (∀ (n : Nat) (s : State) (items : List Item) (mark : MarkBody) (st : StateBody) (base : BaselineBody)
     (price : PriceBody) (avail : AvailabilityBody) (award : AwardBody), s.ctrl.station = .leaving →
     ∃ r, r = Host.Outcome.next (answeredOnly n (plain .refusedState) s) ∧
     exec (.configure ⟨n, some items⟩) s = r ∧ exec (.join ⟨n, some ()⟩) s = r ∧ exec (.leave ⟨n, some ()⟩) s = r ∧
     exec (.clearSuspend ⟨n, some ()⟩) s = r ∧ exec (.intervalMark ⟨n, some mark⟩) s = r ∧
     exec (.setState ⟨n, some st⟩) s = r ∧ exec (.setBaseline ⟨n, some base⟩) s = r ∧
     exec (.setPrice ⟨n, some price⟩) s = r ∧ exec (.setAvailability ⟨n, some avail⟩) s = r ∧
     exec (.injectAward ⟨n, some award⟩) s = r)

/-- READ_STATUS is served in every station state and returns the values of R161 as they stand; nothing else changes. -/
def Obligations.ReadStatusReturns : Prop :=
  ∀ (n : Nat) (s : State), exec (.readStatus ⟨n, some ()⟩) s = .next (answeredOnly n ⟨.done, .status
    { station := s.ctrl.station
      suspendReason := s.ctrl.suspendReason
      clockSet := s.clock.isSet
      interval := s.clock.current
      second := s.clock.second
      freqState := s.freq.state
      measured := s.freq.measured.getD 0
      errors := s.mon.errors
      feedback := s.mon.fb
      tx := s.line.tx
      queueLength := s.line.queue.length
      viewSize := s.view.length
      rxBad := s.line.rxBad
      rxDropped := s.line.rxDropped
      estimate := energyEstimate s.pledge
      logLength := s.host.log.length }⟩ s)

/-- READ_HORIZON returns the records of the table in order as they stand, each with its fields but the hold timer and the
pending flag, which in UNJOINED is none. READ_VIEW returns the
record of the index, its age in whole seconds, its entries and heard takes by the current horizon, and refuses an index not
below the view size. Neither changes anything else (R34, R89). -/
def Obligations.HorizonAndViewReturned : Prop :=
  (∀ (n : Nat) (s : State), HorizonLaw s →
     exec (.readHorizon ⟨n, some ()⟩) s = .next (answeredOnly n ⟨.done, .horizon (s.table.map fun r =>
       { interval := r.interval, dir := r.dir, state := r.state, live := r.live, frozen := r.frozen
         frozenBand := r.frozenBand, cap := r.cap, award := r.award, take := r.take, lastSent := r.lastSent
         withdrawn := r.withdrawn, run := r.run })⟩ s)) ∧
  (∀ (n : Nat) (i : Byte) (s : State),
     (∀ p, s.view[i.toNat]? = some p →
       exec (.readView ⟨n, some i⟩) s = .next (answeredOnly n ⟨.done, .peer
         { id := p.id, zone := p.zone, status := p.status, ageSeconds := p.ageMs / 1000
           entries := (List.range 8).map fun j => p.entryAt (s.clock.current + BitVec.ofNat 16 j)
           heard := (List.range 8).flatMap fun j =>
             [(p.heardAt (s.clock.current + BitVec.ofNat 16 j) .raise).map fun h => (h.amount, h.issue),
              (p.heardAt (s.clock.current + BitVec.ofNat 16 j) .lower).map fun h => (h.amount, h.issue)] }⟩ s)) ∧
     (s.view.length ≤ i.toNat →
       exec (.readView ⟨n, some i⟩) s = .next (answeredOnly n (plain .refusedRange) s)))

/-- READ_LADDER answers by the first check of Table 5-6 that fails, else with the ladder held; nothing else changes
(R93). -/
def Obligations.ReadLadderChecks : Prop :=
  ∀ (n : Nat) (b : LadderBody) (s : State),
    exec (.readLadder ⟨n, some b⟩) s = .next (answeredOnly n
      (if s.ctrl.config.uplink = false then plain .refusedRole
       else if s.ctrl.station = .unjoined then plain .refusedState
       else if b.direction ≠ 0 ∧ b.direction ≠ 1 then plain .refusedRange
       else if 8 ≤ (b.interval - tableFirst s).toNat then plain .refusedRange
       else
         match s.pledge.ladders.find? fun l =>
           l.interval == b.interval && l.dir == (if b.direction = 0 then .raise else .lower) with
         | none => plain .refusedState
         | some l => ⟨.done, .ladder l⟩) s)

/-- READ_LOG answers EMPTY at an empty log, else removes the oldest record and returns it with the number left. READ_EVENTS
returns flags, again flags and mask and clears nothing; CLEAR_EVENTS clears the flags and again flags it selects and no
others, and SET_EVENT_MASK replaces the mask; either is refused where bit 14 or 15 is set. A raised event sets its flag, or its
again flag where the flag stands, and touches no other; ATTN is asserted exactly while a flag whose mask bit is set is set
(R162 to R164, R167). -/
def Obligations.LogAndEventsServed : Prop :=
  (∀ (n : Nat) (s : State),
     (s.host.log = [] → exec (.readLog ⟨n, some ()⟩) s = .next (answeredOnly n (plain .empty) s)) ∧
     ∀ r rest, s.host.log = r :: rest → exec (.readLog ⟨n, some ()⟩) s =
       .next (answeredOnly n ⟨.done, .settled r rest.length⟩ { s with host := { s.host with log := rest } })) ∧
  ((∀ (n : Nat) (m : Word) (s : State),
      exec (.readEvents ⟨n, some ()⟩) s =
        .next (answeredOnly n ⟨.done, .events s.host.flags s.host.again s.host.mask⟩ s) ∧
      (m &&& 0xC000#16 = 0 →
        (∃ t, exec (.clearEvents ⟨n, some m⟩) s = .next (answeredOnly n (plain .done) t) ∧
          (∀ b, b < 16 → t.host.flags.getLsbD b = (s.host.flags.getLsbD b && !m.getLsbD b) ∧
            t.host.again.getLsbD b = (s.host.again.getLsbD b && !m.getLsbD b)) ∧
          t = { s with host := { s.host with flags := t.host.flags, again := t.host.again } }) ∧
        exec (.setEventMask ⟨n, some m⟩) s =
          .next (answeredOnly n (plain .done) { s with host := { s.host with mask := m } })) ∧
      (m &&& 0xC000#16 ≠ 0 →
        exec (.clearEvents ⟨n, some m⟩) s = .next (answeredOnly n (plain .refusedRange) s) ∧
        exec (.setEventMask ⟨n, some m⟩) s = .next (answeredOnly n (plain .refusedRange) s))) ∧
   ((∀ (e f : Event) (s : State),
      flagSet e (raiseEvent e s) = true ∧
      againSet e (raiseEvent e s) = (againSet e s || flagSet e s) ∧
      (f ≠ e → flagSet f (raiseEvent e s) = flagSet f s ∧ againSet f (raiseEvent e s) = againSet f s) ∧
      raiseEvent e s = { s with host := { s.host with
        flags := (raiseEvent e s).host.flags, again := (raiseEvent e s).host.again } }) ∧
    ∀ s : State, attnAsserted s = true ↔ ∃ b, b < 16 ∧ s.host.flags.getLsbD b = true ∧ s.host.mask.getLsbD b = true
  ))


/-! ### Configuration and lifecycle -/

/-- CONFIGURE is taken as a whole: outside UNJOINED it is refused; with one item that is unknown or out of its range of
Table 1-3 none is stored; otherwise every item is stored in order, each id at its own field, and the answer carries the
configuration. Clock, table, line and view are left alone; the meter unless the nominal frequency or N changes, and C unless
the list stores a T not above it (R3, R136, R150). The model's: the miss timer's restart at the count of the moment (log
7). -/
def Obligations.ConfigureTakenWhole : Prop :=
  (∀ (n : Nat) (items : List Item) (s : State),
     (s.ctrl.station ≠ .unjoined →
       exec (.configure ⟨n, some items⟩) s = .next (answeredOnly n (plain .refusedState) s)) ∧
     (s.ctrl.station = .unjoined → (∃ i ∈ items, itemAllowed i = false) →
       exec (.configure ⟨n, some items⟩) s = .next (answeredOnly n (plain .refusedRange) s)) ∧
     (s.ctrl.station = .unjoined → (∀ i ∈ items, itemAllowed i = true) →
       ∃ t, exec (.configure ⟨n, some items⟩) s = .next t ∧
         t.ctrl = { s.ctrl with config := items.foldl storeItem s.ctrl.config } ∧
         t.host.held = some ⟨.done, .config t.ctrl.config⟩ ∧ t.host.log = s.host.log ∧ t.host.mask = s.host.mask ∧
         t.clock = s.clock ∧ t.table = s.table ∧ t.pledge = s.pledge ∧ t.line = s.line ∧ t.view = s.view ∧
         t.entryTakesDue = s.entryTakesDue ∧ t.ties = s.ties ∧ t.pending = s.pending ∧
         (t.ctrl.config.nominal = s.ctrl.config.nominal → t.ctrl.config.averaging = s.ctrl.config.averaging →
           t.freq = s.freq ∧ t.act = s.act ∧ t.host.flags = s.host.flags ∧ t.host.again = s.host.again) ∧
         (t.ctrl.config.nominal ≠ s.ctrl.config.nominal ∨ t.ctrl.config.averaging ≠ s.ctrl.config.averaging →
           t.freq.state = .invalid ∧ t.freq.ring = [] ∧ t.freq.reference = none ∧ t.freq.invalids = 0 ∧
           t.freq.measured = none ∧ t.freq.missStart = t.freq.count ∧
           (s.freq.state = .valid → flagSet .freqInvalid t = true ∧ t.act.heldState = .invalid)) ∧
         t.mon.errors = (if (∃ i ∈ items, i.id = 11) ∧ t.ctrl.config.suspendAt ≤ s.mon.errors then 0
           else s.mon.errors))) ∧
  (∀ (id v : Nat), id < 256 → v < 65536 →
     (itemAllowed ⟨.ofNat 8 id, .ofNat 16 v⟩ = true ↔
       id = 1 ∧ v ≤ 250 ∨ id = 2 ∨ id = 3 ∧ v ≤ 1 ∨ id = 4 ∨ id = 5 ∨ id = 6 ∧ (v = 50 ∨ v = 60) ∨
       id = 7 ∧ 1 ≤ v ∧ v ≤ 4 ∨ id = 8 ∧ 15 ≤ v ∧ v ≤ 120 ∨ id = 9 ∧ 5 ≤ v ∧ v ≤ 60 ∨
       id = 10 ∧ 10 ≤ v ∧ v ≤ 200 ∨ id = 11 ∧ 2 ≤ v ∧ v ≤ 15 ∨ id = 12 ∧ v ≤ 16 ∨ id = 13 ∧ v ≤ 500 ∨
       id = 14 ∧ 50 ≤ v ∧ v ≤ 2000 ∨ id = 15 ∧ 1 ≤ v ∧ v ≤ 8 ∨ (id = 16 ∨ id = 17) ∧ v ≤ 15 ∧ v % 2 = 1 ∨
       id = 18 ∧ 1 ≤ v ∧ v ≤ 16 ∨ id = 19 ∧ 100 ≤ v ∧ v ≤ 1000 ∨ id = 20 ∧ 30 ≤ v ∧ v ≤ 600 ∨
       (id = 21 ∨ id = 22) ∧ v ≤ 2000)) ∧
  (∀ (v : Word) (c : StationConfig),
     let n := v.toNat
     storeItem c ⟨1, v⟩ = { c with stationId := n } ∧ storeItem c ⟨2, v⟩ = { c with zone := v } ∧
     storeItem c ⟨3, v⟩ = { c with uplink := decide (n = 1) } ∧ storeItem c ⟨4, v⟩ = { c with bidCompare := v } ∧
     storeItem c ⟨5, v⟩ = { c with bidMask := v } ∧
     storeItem c ⟨6, v⟩ = { c with nominal := if n = 60 then .hz60 else .hz50 } ∧
     storeItem c ⟨7, v⟩ = { c with gateLead := n } ∧ storeItem c ⟨8, v⟩ = { c with refreshPeriod := n } ∧
     storeItem c ⟨9, v⟩ = { c with sustain := n } ∧ storeItem c ⟨10, v⟩ = { c with minPledge := n } ∧
     storeItem c ⟨11, v⟩ = { c with suspendAt := n } ∧ storeItem c ⟨12, v⟩ = { c with overCover := n } ∧
     storeItem c ⟨13, v⟩ = { c with deadband := n } ∧ storeItem c ⟨14, v⟩ = { c with fullDeviation := n } ∧
     storeItem c ⟨15, v⟩ = { c with averaging := n } ∧ storeItem c ⟨16, v⟩ = { c with ditherX := n } ∧
     storeItem c ⟨17, v⟩ = { c with ditherY := n } ∧ storeItem c ⟨18, v⟩ = { c with rotation := n } ∧
     storeItem c ⟨19, v⟩ = { c with settleTime := n } ∧ storeItem c ⟨20, v⟩ = { c with staleLimit := n } ∧
     storeItem c ⟨21, v⟩ = { c with dischargeMax := n } ∧ storeItem c ⟨22, v⟩ = { c with chargeMax := n })

/-- JOIN is checked in the order of Table 1-4: the first check that fails gives the answer and nothing but the answers
changes; where all pass, the answer is DONE and the station joins (R5). -/
def Obligations.JoinChecks : Prop :=
  ∀ (n : Nat) (s : State),
    let c := s.ctrl.config
    if s.ctrl.station ≠ .unjoined then
      exec (.join ⟨n, some ()⟩) s = .next (answeredOnly n (plain .refusedState) s)
    else if s.clock.isSet = false then
      exec (.join ⟨n, some ()⟩) s = .next (answeredOnly n (plain .refusedState) s)
    else if c.stationId = 0 then exec (.join ⟨n, some ()⟩) s = .next (answeredOnly n (plain .refusedConfig) s)
    else if c.dischargeMax + c.chargeMax < 10 then
      exec (.join ⟨n, some ()⟩) s = .next (answeredOnly n (plain .refusedConfig) s)
    else if ¬ c.deadband < c.fullDeviation then
      exec (.join ⟨n, some ()⟩) s = .next (answeredOnly n (plain .refusedConfig) s)
    else ∃ t, exec (.join ⟨n, some ()⟩) s = .next t ∧ t.host.held = some (plain .done) ∧ t.ctrl.station ≠ .unjoined

/-- An accepted JOIN: LISTENING with its timer at 3 × Tp, C at 0, the line on with the seeded generator, the 16 records of
the current horizon as Table 2-4 gives, an empty view, the refresh timer at Tp, the phase computed. A filtered supply
warning suspends the station at once: every record is withdrawn with reason SUPPLY and one WITHDRAW of the whole horizon waits
with one send. Clock, configuration, log and meter are left alone (R6, R13, R19, R55, R60, R139, R157, R158). -/
def Obligations.JoinEntersListening : Prop :=
  ∀ (n : Nat) (s : State), s.ctrl.station = .unjoined → s.clock.isSet = true → s.ctrl.config.stationId ≠ 0 →
    10 ≤ pScale s.ctrl.config → s.ctrl.config.deadband < s.ctrl.config.fullDeviation →
    s.pledge.boundaryPending = false →
    ∃ t, exec (.join ⟨n, some ()⟩) s = .next t ∧
      recordKeys t.table = horizonPairs s.clock.current ∧ t.view = [] ∧ t.mon.errors = 0 ∧ t.mon.goodRun = 0 ∧
      t.line.rx = [] ∧ t.line.rxBad = s.line.rxBad ∧ t.line.rxDropped = s.line.rxDropped ∧
      t.pledge.refresh = some (s.ctrl.config.refreshPeriod * 1000) ∧
      t.act.phase = (s.ctrl.config.stationId * s.ctrl.config.ditherX +
        s.clock.current.toNat / s.ctrl.config.rotation * s.ctrl.config.ditherY) % 16 ∧
      t.ctrl.config = s.ctrl.config ∧ t.clock = s.clock ∧ t.freq = s.freq ∧ t.host.log = s.host.log ∧
      t.host.mask = s.host.mask ∧ t.ties = s.ties ∧ t.pending = s.pending ∧
      (s.ctrl.filter ≠ .active →
        t.ctrl.station = .listening ∧ t.ctrl.listening = some (3 * s.ctrl.config.refreshPeriod * 1000) ∧
        t.table = rebuiltTable s.ctrl.config s.pledge s.clock.current ∧ t.line.queue = [] ∧ t.line.tx = .idle ∧
        t.line.backoff = (if BitVec.ofNat 16 (s.ctrl.config.stationId * 256) ^^^ s.ctrl.config.zone = 0 then 1
          else BitVec.ofNat 16 (s.ctrl.config.stationId * 256) ^^^ s.ctrl.config.zone)) ∧
      (s.ctrl.filter = .active →
        t.ctrl.station = .suspended ∧ t.ctrl.suspendReason = some .supply ∧ t.ctrl.listening = none ∧
        AllWithdrawn .supply (rebuiltTable s.ctrl.config s.pledge s.clock.current) t.table ∧
        (∃ x, t.line.queue = [x] ∧ x.key = .withdraw ∧ x.content = some ⟨.supply, s.clock.current, 0xFF⟩ ∧
          x.sends = 1 ∧ x.inFlight = false) ∧ t.line.tx = .waiting ∧
        flagSet .suspended t = true ∧ flagSet .withdrawn t = true)

/-- LEAVE by station state (Table 1-5): from LISTENING and SUSPENDED the station is out of the cluster at once, its slot 0
records handed to the log; from ACTIVE it is LEAVING with 5 s, every record withdrawn with reason LEAVE, a WITHDRAW of the
whole horizon queued and the setpoint neutral; in UNJOINED and LEAVING it is refused. The LEAVING timer's end takes it out of
the cluster (R8 to R10, R157, R158). The model's: that a named expiry is the moment itself (log 4). -/
def Obligations.LeaveByState : Prop :=
  (∀ (n : Nat) (s : State),
     (s.ctrl.station = .unjoined ∨ s.ctrl.station = .leaving →
       exec (.leave ⟨n, some ()⟩) s = .next (answeredOnly n (plain .refusedState) s)) ∧
     (s.ctrl.station = .listening ∨ s.ctrl.station = .suspended →
       ∃ t, exec (.leave ⟨n, some ()⟩) s = .next t ∧ OutOfCluster t ∧ t.host.held = some (plain .done) ∧
         t.host.log = (handInterval (tableFirst s) s).host.log ∧ t.host.flags = (handInterval (tableFirst s) s).host.flags ∧
         t.mon.errors = (if s.ctrl.station = .suspended then 0 else s.mon.errors) ∧
         t.ctrl.config = s.ctrl.config ∧ t.clock = s.clock ∧ t.freq = s.freq ∧ t.host.mask = s.host.mask ∧
         t.line.rxBad = s.line.rxBad ∧ t.line.rxDropped = s.line.rxDropped ∧ t.pending = s.pending) ∧
     (s.ctrl.station = .active →
       ∃ t, exec (.leave ⟨n, some ()⟩) s = .next t ∧ t.ctrl.station = .leaving ∧ t.ctrl.leaving = some 5000 ∧
         WithdrawnWhole .leave s t ∧ Neutral t ∧ t.mon.window = .stopped ∧ t.host.held = some (plain .done) ∧
         t.host.log = s.host.log ∧ t.clock = s.clock ∧ t.pledge = s.pledge ∧ t.view = s.view ∧ t.freq = s.freq ∧ t.mon.errors = s.mon.errors ∧ t.ctrl.config = s.ctrl.config ∧
         t.pending = s.pending)) ∧
  (∀ s : State, s.ctrl.station = .leaving → s.ctrl.leaving.isSome = true →
     ∃ t, exec .leavingTimerExpiry s = .next t ∧ OutOfCluster t ∧
       t.host.log = (handInterval (tableFirst s) s).host.log ∧ t.mon.errors = s.mon.errors ∧
       t.ctrl.config = s.ctrl.config ∧ t.clock = s.clock ∧ t.freq = s.freq ∧ t.host.mask = s.host.mask ∧
       t.pending = s.pending)

/-- CLEAR_SUSPEND by Table 1-7: refused outside SUSPENDED and while the cause of an INVERTER or SUPPLY suspension stands;
otherwise LISTENING with its timer, C at 0, table, view and queue kept, or at once SUSPENDED and withdrawn for SUPPLY where
the filter is ACTIVE (R14, R13, R157, R158). The model's: the computation that a changed C triggers (log 35). -/
def Obligations.ClearSuspendByCause : Prop :=
  ∀ (n : Nat) (s : State),
    let stands := s.ctrl.suspendReason = some .inverter ∧ s.mon.fb = .lost ∨
      s.ctrl.suspendReason = some .supply ∧ s.ctrl.filter = .active
    (s.ctrl.station ≠ .suspended ∨ stands →
      exec (.clearSuspend ⟨n, some ()⟩) s = .next (answeredOnly n (plain .refusedState) s)) ∧
    (s.ctrl.station = .suspended → ¬ stands →
      ∃ t, exec (.clearSuspend ⟨n, some ()⟩) s = .next t ∧ t.host.held = some (plain .done) ∧ t.mon.errors = 0 ∧
        t.mon.goodRun = 0 ∧ t.clock = s.clock ∧ t.view = s.view ∧ t.freq = s.freq ∧
        t.ctrl.config = s.ctrl.config ∧ t.pending = s.pending ∧
        (s.ctrl.filter ≠ .active →
          t.ctrl.station = .listening ∧ t.ctrl.suspendReason = none ∧
          t.ctrl.listening = some (3 * s.ctrl.config.refreshPeriod * 1000) ∧ t.table = s.table ∧ t.line = s.line ∧
          (s.mon.errors = 0 → t.pledge = s.pledge) ∧ (s.mon.errors ≠ 0 → t.pledge.comp.isSome = true)) ∧
        (s.ctrl.filter = .active →
          t.ctrl.station = .suspended ∧ t.ctrl.suspendReason = some .supply ∧ WithdrawnWhole .supply s t))

/-- The supply warning filter: an input that becomes active starts 20 ms of TIMING, one that becomes inactive returns the
filter to IDLE; at the timer's end the filter is ACTIVE, and in ACTIVE and LISTENING the station is suspended and its records
are withdrawn with reason SUPPLY (R13, R12, R157, R158). The model's: that the named expiry is the moment itself, whatever
TIMING still counts (log 4). -/
def Obligations.SupplyWarningFiltered : Prop :=
  ∀ s : State,
    (s.ctrl.swarn = false →
      exec .supplyWarningActive s = .next { s with ctrl := { s.ctrl with swarn := true, filter := .timing 20 } }) ∧
    exec .supplyWarningInactive s = .next { s with ctrl := { s.ctrl with swarn := false, filter := .idle } } ∧
    (s.ctrl.filter.isTiming = true → s.ctrl.station ≠ .active → s.ctrl.station ≠ .listening →
      exec .supplyFilterExpiry s = .next { s with ctrl := { s.ctrl with filter := .active } }) ∧
    (s.ctrl.filter.isTiming = true → s.ctrl.station = .active ∨ s.ctrl.station = .listening →
      ∃ t, exec .supplyFilterExpiry s = .next t ∧ t.ctrl.filter = .active ∧ t.ctrl.station = .suspended ∧
        t.ctrl.suspendReason = some .supply ∧ t.ctrl.listening = none ∧ WithdrawnWhole .supply s t ∧ Neutral t ∧
        flagSet .suspended t = true ∧ t.clock = s.clock ∧ t.pledge = s.pledge ∧
        t.view = s.view ∧ t.freq = s.freq ∧ t.mon.errors = s.mon.errors ∧ t.host.log = s.host.log ∧
        t.pending = s.pending)

/-- The end of the listening period: with feedback PRESENT and no filtered warning the station is ACTIVE, a computation is
in flight, settling begins and the entry's own takes wait for the lock; with feedback LOST and no filtered warning it is
SUSPENDED and withdrawn for INVERTER. In either case a state-stale timer at its limit begins the state-stale condition at
the entry: STATE_STALE is raised, the condition holds in the snapshot of the entry's computation, and its onset sets the rerun
request; otherwise the condition stands as it was (R7, R15, R51, R106, R145, R154, R157, R158). The model's: that a named
expiry is the moment itself, and that the condition holds before the entry's computation starts (logs 4, 14). -/
def Obligations.ListeningPeriodEnds : Prop :=
  ∀ s : State, s.ctrl.station = .listening → s.ctrl.listening.isSome = true → s.ctrl.filter ≠ .active →
    let onset := s.ctrl.config.staleLimit * 1000 ≤ s.ctrl.staleMs ∧ s.ctrl.stale = false
    let entered (t : State) : Prop :=
      (t.ctrl.stale = true ↔ onset ∨ s.ctrl.stale = true) ∧ t.ctrl.staleMs = s.ctrl.staleMs ∧
      Raised .stateStale (if onset then 1 else 0) s t ∧
      (s.pledge.comp = none → t.pledge.comp.map (·.stale) = some t.ctrl.stale ∧
        t.pledge.comp.map (·.boundary) = some false ∧
        t.pledge.rerun = if onset then some (s.pledge.rerun.getD false) else s.pledge.rerun) ∧
      (s.pledge.comp.isSome = true → t.pledge.comp = s.pledge.comp ∧ t.pledge.rerun = some (s.pledge.rerun.getD false))
    (s.mon.fb = .present →
      ∃ t, exec .listeningTimerExpiry s = .next t ∧ t.ctrl.station = .active ∧ t.ctrl.listening = none ∧
        t.ctrl.config = s.ctrl.config ∧ t.table = s.table ∧ t.view = s.view ∧ t.line = s.line ∧ t.clock = s.clock ∧
        t.freq = s.freq ∧ t.pledge.comp.isSome = true ∧ t.entryTakesDue = true ∧ t.mon.window = .settling ∧
        t.mon.settling = some s.ctrl.config.settleTime ∧ t.mon.reference = t.mon.heldD ∧ ActivationLaw t ∧
        entered t ∧ t.pending = s.pending) ∧
    (s.mon.fb = .lost →
      ∃ t, exec .listeningTimerExpiry s = .next t ∧ t.ctrl.station = .suspended ∧
        t.ctrl.suspendReason = some .inverter ∧ t.ctrl.listening = none ∧ WithdrawnWhole .inverter s t ∧ Neutral t ∧
        flagSet .suspended t = true ∧ entered t ∧ t.clock = s.clock ∧ t.view = s.view ∧
        t.freq = s.freq ∧ t.pending = s.pending)

/-! ### The Interval Clock -/

/-- INTERVAL_MARK is checked in the order of Table 2-2: the first check that fails gives the answer, and the clock and all
other state but the answers are unchanged; where all pass, the answer is DONE (R18). -/
def Obligations.IntervalMarkChecks : Prop :=
  ∀ (n : Nat) (b : MarkBody) (s : State),
    if s.ctrl.station = .leaving then
      exec (.intervalMark ⟨n, some b⟩) s = .next (answeredOnly n (plain .refusedState) s)
    else if 299 < b.second.toNat then
      exec (.intervalMark ⟨n, some b⟩) s = .next (answeredOnly n (plain .refusedRange) s)
    else if s.clock.mark.isSome = true ∨ s.clock.rebuild.isSome = true then
      exec (.intervalMark ⟨n, some b⟩) s = .next (answeredOnly n (plain .busy) s)
    else if s.clock.isSet = true ∧ (s.ctrl.station = .active ∨ s.ctrl.station = .suspended) ∧
        ∀ d ∈ List.range 8, b.interval ≠ s.clock.current + BitVec.ofNat 16 d then
      exec (.intervalMark ⟨n, some b⟩) s = .next (answeredOnly n (plain .refusedRange) s)
    else ∃ t, exec (.intervalMark ⟨n, some b⟩) s = .next t ∧ t.host.held = some (plain .done)

/-- An accepted INTERVAL_MARK (Table 2-3): in UNJOINED the clock is set at once; in LISTENING a rebuild waits; in ACTIVE
and SUSPENDED the second is replaced for the current interval, and for one 1 to 7 ahead that many boundaries wait. No
record, view or queue is changed by the acceptance (R18 to R21). The model's: boundaries and the rebuild are steps of
their own (log 6). -/
def Obligations.IntervalMarkAccepted : Prop :=
  ∀ (n : Nat) (b : MarkBody) (s : State), b.second.toNat ≤ 299 → s.clock.mark = none → s.clock.rebuild = none →
    (s.ctrl.station = .unjoined →
      ∃ t, exec (.intervalMark ⟨n, some b⟩) s = .next t ∧ t.host.held = some (plain .done) ∧
        t.clock = ⟨b.interval, b.second.toNat, true, 0, none, none⟩ ∧ t.table = s.table ∧ t.view = s.view ∧
        t.line = s.line ∧ t.pledge = s.pledge ∧ t.ctrl = s.ctrl ∧
        t.act.phase = (s.ctrl.config.stationId * s.ctrl.config.ditherX +
          b.interval.toNat / s.ctrl.config.rotation * s.ctrl.config.ditherY) % 16) ∧
    (s.ctrl.station = .listening →
      exec (.intervalMark ⟨n, some b⟩) s = .next (answeredOnly n (plain .done)
        { s with clock := { s.clock with rebuild := some ⟨b.interval, b.second.toNat⟩ } })) ∧
    (s.ctrl.station = .active ∨ s.ctrl.station = .suspended → s.clock.isSet = true →
      (b.interval = s.clock.current →
        exec (.intervalMark ⟨n, some b⟩) s = .next (answeredOnly n (plain .done)
          { s with clock := { s.clock with second := b.second.toNat, subMs := 0 } })) ∧
      ∀ d, 1 ≤ d → d ≤ 7 → b.interval = s.clock.current + BitVec.ofNat 16 d →
        exec (.intervalMark ⟨n, some b⟩) s = .next (answeredOnly n (plain .done)
          { s with clock := { s.clock with mark := some ⟨d, b.second.toNat⟩ } }))

/-- CLOCK_SECOND adds 1 to a second below 299; while a mark or a rebuild is being performed the clock does not count. The
boundary at second 299 makes the interval number the next and the second 0. In a joined state with no computation in
flight the ended records are handed over and gone, the horizon stands one interval further and the boundary computation is
in flight, the records of the next interval being RUNNING with fresh running fields and every later record as it was; with one
in flight the boundary is held. Either way the view drops the ended interval, the queue loses its TAKE and AWARD entries but
for one in flight, the phase is the new interval's, and a changed D is handed over. A handed record with a nonzero frozen
pledge or an award makes the settlement record of Table 11-3 at the newest end of the log of at most 32 (R16, R17, R27 to R31,
R54, R74, R86, R92, R139, R144, R147, R154, R165, R166). The model's: that a named expiry is the moment itself, and does nothing
while the clock does not count, and the order of table and setpoint (logs 3, 4, 42). -/
def Obligations.SecondsAndBoundaries : Prop :=
  (∀ s : State, s.clock.second < 299 →
     (s.clock.mark = none → s.clock.rebuild = none →
       exec .clockSecond s = .next { s with clock := { s.clock with second := s.clock.second + 1, subMs := 0 } }) ∧
     (s.clock.mark.isSome = true ∨ s.clock.rebuild.isSome = true → exec .clockSecond s = .next s)) ∧
  (∀ (k : Word) (s : State), LogLaw s → Handed k s (handInterval k s)) ∧
  (∀ s : State, s.clock.second = 299 → s.clock.mark = none → s.clock.rebuild = none →
     s.pledge.boundaryPending = false →
     ∃ t, exec .intervalBoundary s = .next t ∧
       t.clock = { s.clock with current := s.clock.current + 1, second := 0, subMs := 0 } ∧ t.ctrl = s.ctrl ∧
       t.freq = s.freq ∧ t.pending = s.pending ∧
       (s.clock.isSet = false → t = { s with clock := t.clock }) ∧
       (s.clock.isSet = true →
         t.act.phase = (s.ctrl.config.stationId * s.ctrl.config.ditherX +
           (s.clock.current + 1).toNat / s.ctrl.config.rotation * s.ctrl.config.ditherY) % 16 ∧
         (∀ p ∈ t.view, p.entryAt s.clock.current = none ∧ ∀ d, p.heardAt s.clock.current d = none) ∧
         t.view.length = s.view.length ∧ BoundaryIssued s t ∧
         (s.ctrl.station ≠ .unjoined → s.pledge.comp = none → recordKeys s.table = horizonPairs s.clock.current →
           recordKeys t.table = horizonPairs (s.clock.current + 1) ∧ t.pledge.boundaryPending = false ∧
           BoundaryPerformed s t ∧ (t.pledge.comp.map (·.boundary)) = some true ∧
           t.host.log = (handInterval s.clock.current s).host.log ∧
           ∀ d, (findRec t.table (s.clock.current + 1) d).map (·.state) = some .running ∧
             findRec t.table (s.clock.current + 8) d = some (openRecord (s.clock.current + 8) d)) ∧
         (s.ctrl.station ≠ .unjoined → s.pledge.comp.isSome = true →
           t.table = s.table ∧ t.pledge = { s.pledge with boundaryPending := true } ∧ t.host = s.host)))

/-- A boundary of a forward mark is issued once the Pledge Engine is free: the interval number becomes the next; while
boundaries are left the second is 0, and after the last it is the marked one and the clock counts again. Each boundary does at
the table, the queue, the view and the setpoint what a natural one does (R21, R27, R28, R31, R74, R86, R92, R139, R147). The
model's: each boundary is a step of its own, and the order of table and setpoint (logs 6, 42). -/
def Obligations.MarkBoundariesIssued : Prop :=
  ∀ (m : ForwardMark) (s : State), s.clock.mark = some m → s.pledge.comp = none → s.pledge.boundaryPending = false →
    ∃ t, exec .markBoundary s = .next t ∧ t.clock.current = s.clock.current + 1 ∧ t.clock.isSet = s.clock.isSet ∧
      t.clock.subMs = 0 ∧ t.ctrl = s.ctrl ∧ t.freq = s.freq ∧ t.pending = s.pending ∧
      (2 ≤ m.left → t.clock.mark = some { m with left := m.left - 1 } ∧ t.clock.second = 0) ∧
      (m.left ≤ 1 → t.clock.mark = none ∧ t.clock.second = m.second) ∧
      BoundaryIssued s t ∧
      t.act.phase = (s.ctrl.config.stationId * s.ctrl.config.ditherX +
        (s.clock.current + 1).toNat / s.ctrl.config.rotation * s.ctrl.config.ditherY) % 16 ∧
      (s.ctrl.station ≠ .unjoined → recordKeys s.table = horizonPairs s.clock.current →
        recordKeys t.table = horizonPairs (s.clock.current + 1) ∧ BoundaryPerformed s t ∧
        t.host.log = (handInterval s.clock.current s).host.log ∧ (t.pledge.comp.map (·.boundary)) = some true) ∧
      (s.ctrl.station = .unjoined → t.table = s.table ∧ t.pledge.comp = none)

/-- A waiting rebuild is performed once the Pledge Engine is free: the clock is set as marked, and in a joined state the
table holds the 16 fresh records of the new horizon, no record being handed to the log and no computation started; the
view, the queue and the ladders keep only what lies in that horizon. Of the fresh records slot 0 is RUNNING and slots 1 to
G are CLOSED, frozen at 0 with the current band and cap 0; the rest are OPEN with live pledge 0; none has an award or take. The
phase is the new interval's, and a changed D is handed over (R19, R74, R139, R147). The model's: the rebuild is a step of its
own, in every joined state, and forms the setpoint anew in ACTIVE (logs 6, 17, 43). -/
def Obligations.RebuildPerformed : Prop :=
  (∀ (w : WaitingRebuild) (s : State), s.clock.rebuild = some w → s.pledge.comp = none →
     s.pledge.boundaryPending = false →
     ∃ t, exec .rebuild s = .next t ∧ t.clock.current = w.interval ∧ t.clock.second = w.second ∧
       t.clock.isSet = true ∧ t.clock.rebuild = none ∧ t.clock.subMs = 0 ∧ t.ctrl = s.ctrl ∧ t.host = s.host ∧
       t.freq = s.freq ∧ t.pledge.comp = none ∧ t.pending = s.pending ∧
       t.act.phase = (s.ctrl.config.stationId * s.ctrl.config.ditherX +
         w.interval.toNat / s.ctrl.config.rotation * s.ctrl.config.ditherY) % 16 ∧ DeltaHanded s t ∧
       (s.ctrl.station = .unjoined → t.table = s.table ∧ t.line = s.line) ∧
       (s.ctrl.station ≠ .unjoined →
         t.table = rebuiltTable s.ctrl.config s.pledge w.interval ∧
         (∀ p ∈ t.view, (∀ e ∈ p.entries, inHorizon w.interval e.interval = true) ∧
           ∀ h ∈ p.heard, inHorizon w.interval h.interval = true) ∧
         (∀ l ∈ t.pledge.ladders, inHorizon w.interval l.interval = true) ∧ Purged (inHorizon w.interval) s t ∧
         ∀ e ∈ t.line.queue, e.inFlight = true ∨ ∀ k ∈ e.key.interval, inHorizon w.interval k = true)) ∧
  (∀ (c : StationConfig) (p : PledgeEngine) (first : Word) (j : Nat) (d : Direction), j < 8 →
     ∃ r, findRec (rebuiltTable c p first) (first + BitVec.ofNat 16 j) d = some r ∧
       r.take = 0 ∧ r.award = none ∧ r.lastSent = none ∧ r.withdrawn = none ∧ r.hold = none ∧ r.evalPending = false ∧
       (j = 0 → r.state = .running ∧ r.run = some ⟨0, 0, 0, 0, 0⟩) ∧
       (1 ≤ j → j ≤ c.gateLead → r.state = .closed ∧ r.run = none) ∧
       (j ≤ c.gateLead → r.live = none ∧ r.frozen = some 0 ∧ r.frozenBand = some (bandOf p d) ∧ r.cap = some 0) ∧
       (c.gateLead < j → r.state = .opened ∧ r.live = some 0 ∧ r.frozen = none ∧ r.frozenBand = none ∧
         r.cap = none ∧ r.run = none))


/-! ### The Pledge Engine -/

/-- SET_STATE, SET_BASELINE, SET_PRICE and SET_AVAILABILITY are checked in the order of Table 3-2: the first check that
fails gives the answer and nothing but the answers changes. Where all pass, the answer is DONE; in UNJOINED no computation
starts, in a joined state one does, and the end of a state-stale condition sets the rerun request (R37). -/
def Obligations.SettingChecks : Prop :=
  ∀ (n : Nat) (a : StateBody) (b : BaselineBody) (p : PriceBody) (v : AvailabilityBody) (s : State),
    let refused (r : Result) (c : AnswerCode) : Prop := r = .next (answeredOnly n (plain c) s)
    let accepted (r : Result) : Prop := ∃ t, r = .next t ∧ t.host.held = some (plain .done) ∧
      (s.ctrl.station = .unjoined → t.pledge.comp = none) ∧
      (s.ctrl.station ≠ .unjoined → t.pledge.comp.isSome = true)
    let checked (r : Result) (outOfRange : Prop) : Prop :=
      (s.ctrl.station = .leaving → refused r .refusedState) ∧
      (s.ctrl.station ≠ .leaving → s.pledge.comp.isSome = true ∨ s.pledge.boundaryPending = true → refused r .busy) ∧
      (s.ctrl.station ≠ .leaving → s.pledge.comp = none → s.pledge.boundaryPending = false →
        (outOfRange → refused r .refusedRange) ∧ (¬ outOfRange → accepted r))
    checked (exec (.setState ⟨n, some a⟩) s) (a.eCeil.toNat < a.eFloor.toNat ∨ 10000 < a.eCeil.toNat) ∧
    checked (exec (.setBaseline ⟨n, some b⟩) s) (b.values.length = 0 ∨ 8 < b.values.length) ∧
    checked (exec (.setPrice ⟨n, some p⟩) s) (15 < p.raiseBand.toNat ∨ 15 < p.lowerBand.toNat) ∧
    checked (exec (.setAvailability ⟨n, some v⟩) s) (v.flags.length = 0 ∨ 8 < v.flags.length) ∧
    ∀ t, exec (.setState ⟨n, some a⟩) s = .next t → t.host.held = some (plain .done) →
      s.ctrl.station ≠ .unjoined → s.ctrl.stale = true → t.pledge.rerun.isSome = true

/-- SET_STATE in range, taken: floor and ceiling are stored, E_now is clamped to the ceiling and stored as E_host, A and the
state-stale timer are 0 and the state-stale condition is over. Refused, for whatever reason, it leaves all of these as they
were (R38). -/
def Obligations.SetStateStores : Prop :=
  ∀ (n : Nat) (a : StateBody) (s : State),
    (s.ctrl.station ≠ .leaving → s.pledge.comp = none → s.pledge.boundaryPending = false →
      a.eFloor.toNat ≤ a.eCeil.toNat → a.eCeil.toNat ≤ 10000 →
      ∃ t, exec (.setState ⟨n, some a⟩) s = .next t ∧ t.host.held = some (plain .done) ∧
        t.pledge.eHost = min a.eNow.toNat a.eCeil.toNat ∧ t.pledge.eFloor = a.eFloor.toNat ∧
        t.pledge.eCeil = a.eCeil.toNat ∧ t.pledge.acc = 0 ∧ t.ctrl = { s.ctrl with staleMs := 0, stale := false } ∧
        t.pledge.raiseBand = s.pledge.raiseBand ∧ t.pledge.lowerBand = s.pledge.lowerBand ∧
        t.pledge.refresh = s.pledge.refresh ∧ t.pledge.ladders = s.pledge.ladders ∧ t.clock = s.clock ∧
        t.table = s.table ∧ t.line = s.line ∧ t.view = s.view ∧ t.freq = s.freq ∧ t.act = s.act ∧ t.mon = s.mon ∧
        t.host.log = s.host.log ∧ t.host.flags = s.host.flags ∧ t.pending = s.pending) ∧
    ((a.eCeil.toNat < a.eFloor.toNat ∨ 10000 < a.eCeil.toNat) → s.ctrl.station ≠ .leaving →
      s.pledge.comp = none → s.pledge.boundaryPending = false →
      exec (.setState ⟨n, some a⟩) s = .next (answeredOnly n (plain .refusedRange) s)) ∧
    ∀ t, exec (.setState ⟨n, some a⟩) s = .next t → t.host.held ≠ some (plain .done) →
      t.pledge = s.pledge ∧ t.ctrl = s.ctrl

/-- SET_PRICE replaces both current bands, and SET_BASELINE each value whose interval lies in the horizon, clamped to the
ratings; the baselines of the horizon intervals not named stand, and none is kept out of the horizon. Energy figures and all
records are left alone, and the computation of a price carries its mark (R39 to R41, R56). -/
def Obligations.PriceAndBaselineStored : Prop :=
  ∀ (n : Nat) (p : PriceBody) (b : BaselineBody) (s : State),
    s.ctrl.station ≠ .leaving → s.pledge.comp = none → s.pledge.boundaryPending = false →
    let kept (t : State) : Prop :=
      t.ctrl = s.ctrl ∧ t.clock = s.clock ∧ t.table = s.table ∧ t.line = s.line ∧ t.view = s.view ∧
      t.freq = s.freq ∧ t.act = s.act ∧ t.mon = s.mon ∧ t.host.log = s.host.log ∧ t.host.flags = s.host.flags ∧
      t.pledge.positioned = s.pledge.positioned ∧ t.pledge.eHost = s.pledge.eHost ∧
      t.pledge.eFloor = s.pledge.eFloor ∧ t.pledge.eCeil = s.pledge.eCeil ∧
      t.pledge.acc = s.pledge.acc ∧ t.pledge.refresh = s.pledge.refresh ∧ t.pending = s.pending
    (p.raiseBand.toNat ≤ 15 → p.lowerBand.toNat ≤ 15 →
      ∃ t, exec (.setPrice ⟨n, some p⟩) s = .next t ∧ t.host.held = some (plain .done) ∧ kept t ∧
        t.pledge.raiseBand = p.raiseBand.toNat ∧ t.pledge.lowerBand = p.lowerBand.toNat ∧
        (s.ctrl.station ≠ .unjoined → t.pledge.comp.map (·.price) = some true)) ∧
    (1 ≤ b.values.length → b.values.length ≤ 8 →
      ∃ t, exec (.setBaseline ⟨n, some b⟩) s = .next t ∧ t.host.held = some (plain .done) ∧ kept t ∧
        t.pledge.raiseBand = s.pledge.raiseBand ∧ t.pledge.lowerBand = s.pledge.lowerBand ∧
        (∀ i v, b.values[i]? = some v → inHorizon s.clock.current (b.first + BitVec.ofNat 16 i) = true →
          baselineOf s.ctrl.config t.pledge (b.first + BitVec.ofNat 16 i) =
            max (-(s.ctrl.config.chargeMax : Int)) (min s.ctrl.config.dischargeMax v.toInt)) ∧
        (∀ k, inHorizon s.clock.current k = true →
          (∀ i, i < b.values.length → k ≠ b.first + BitVec.ofNat 16 i) →
          baselineOf s.ctrl.config t.pledge k = baselineOf s.ctrl.config s.pledge k) ∧
        ∀ e ∈ t.pledge.baselines, inHorizon s.clock.current e.interval = true)

/-- SET_AVAILABILITY stores the flags of the horizon intervals it names and keeps the others'. In ACTIVE a committed or
RUNNING record whose flag goes from set to clear is withdrawn with reason OWNER, cap and take 0, and a WITHDRAW names its
interval, RAISE first and then LOWER; every other record stands, and outside ACTIVE all do (R42, R157, R158). -/
def Obligations.AvailabilityStored : Prop :=
  ∀ (n : Nat) (b : AvailabilityBody) (s : State),
    s.ctrl.station ≠ .leaving → s.pledge.comp = none → s.pledge.boundaryPending = false → HorizonLaw s →
    1 ≤ b.flags.length → b.flags.length ≤ 8 →
    ∃ t, exec (.setAvailability ⟨n, some b⟩) s = .next t ∧ t.host.held = some (plain .done) ∧
      (∀ i f, b.flags[i]? = some f → inHorizon s.clock.current (b.first + BitVec.ofNat 16 i) = true →
        availOf t.pledge (b.first + BitVec.ofNat 16 i) = (f.getLsbD 0, f.getLsbD 1)) ∧
      (∀ k, inHorizon s.clock.current k = true → (∀ i, i < b.flags.length → k ≠ b.first + BitVec.ofNat 16 i) →
        availOf t.pledge k = availOf s.pledge k) ∧
      t.table.length = s.table.length ∧
      (∀ (i : Nat) (r : CRecord), s.table[i]? = some r →
        let cleared := s.ctrl.station = .active ∧ r.state ≠ .opened ∧
          flagFor (availOf s.pledge r.interval) r.dir = true ∧ flagFor (availOf t.pledge r.interval) r.dir = false
        ∃ u, t.table[i]? = some u ∧ (¬ cleared → u = r) ∧
          (cleared → WithdrawnRecord .owner r u ∧ u.hold = r.hold ∧ u.evalPending = r.evalPending ∧
            flagSet .withdrawn t = true)) ∧
      (s.ctrl.station = .active → QueueLaw s →
        let hit (d : Direction) (k : Word) : Prop := ∃ r ∈ s.table, r.interval = k ∧ r.dir = d ∧ r.state ≠ .opened ∧
          flagFor (availOf s.pledge k) d = true ∧ flagFor (availOf t.pledge k) d = false
        ∃ m : State, m.clock = s.clock ∧ QueueLaw m ∧ Announced .owner (hit .raise) s m ∧
          Announced .owner (hit .lower) m t) ∧
      (s.ctrl.station ≠ .active → t.line = s.line ∧ t.act = s.act ∧ t.host.flags = s.host.flags) ∧
      t.ctrl = s.ctrl ∧ t.clock = s.clock ∧ t.view = s.view ∧ t.freq = s.freq ∧ t.host.log = s.host.log ∧
      t.pledge.acc = s.pledge.acc ∧ t.pending = s.pending

/-- A fresh pledge is what R45 to R47 make of the snapshot: energy limit, headroom, availability, derate, quantum and minimum.
So it is a multiple of 10, 0 or at least M, within the ratings, and 0 for a clear flag and for an OPEN record under the
state-stale condition; a RAISE pledge is 0 until the host gives an energy position, which is at an accepted SET_STATE, and a
reset alone takes away. The snapshot is of its moment, the estimate as R44 forms it (R36, R38, R40, R44 to R47, R49). The
model's: R36 before R45 where they meet (log 38). -/
def Obligations.FreshPledgeForm : Prop :=
  (∀ (cfg : StationConfig) (p : PledgeEngine) (c : Computation) (j : Nat) (d : Direction) (isOpen : Bool),
     let x := freshPledge cfg p c j d isOpen
     x = pledgeByRules cfg p c j d isOpen ∧ x % 10 = 0 ∧ (x = 0 ∨ cfg.minPledge ≤ x) ∧
     x * 16 ≤ ratingHeadroom cfg c j d * (16 - c.errors) ∧ x * 16 ≤ energyLimit cfg p c j d * (16 - c.errors) ∧
     (flagFor (c.avails.getD j (true, true)) d = false → x = 0) ∧ (c.stale = true → isOpen = true → x = 0) ∧
     (d = .raise → p.positioned = false → x = 0) ∧
     (-(cfg.chargeMax : Int) ≤ c.baselines.getD j 0 → c.baselines.getD j 0 ≤ cfg.dischargeMax →
       x ≤ cfg.dischargeMax + cfg.chargeMax)) ∧
  (∀ p : PledgeEngine, (energyEstimate p : Int) = max 0 (min (p.eCeil : Int) ((p.eHost : Int) - Int.tdiv p.acc 3600))) ∧
  (∀ (boundary refresh price : Bool) (s : State),
     let c := snapshot boundary refresh price s
     c.estimate = energyEstimate s.pledge ∧ c.remaining = 300 - s.clock.second ∧
     c.baselines.length = 8 ∧ c.avails.length = 8 ∧
     (∀ j, j < 8 →
       c.baselines[j]? = some (baselineOf s.ctrl.config s.pledge (s.clock.current + BitVec.ofNat 16 j)) ∧
       c.avails[j]? = some (availOf s.pledge (s.clock.current + BitVec.ofNat 16 j))) ∧
     c.raiseBand = s.pledge.raiseBand ∧ c.lowerBand = s.pledge.lowerBand ∧ c.errors = s.mon.errors ∧
     c.stale = s.ctrl.stale ∧
     (∀ k d, (k, d) ∈ c.openRecs ↔ ∃ r ∈ s.table, r.interval = k ∧ r.dir = d ∧ r.state = .opened) ∧
     c.boundary = boundary ∧ c.refresh = refresh ∧ c.price = price ∧ c.left = 20) ∧
  (∀ (i : Instr) (s t : State), exec i s = .next t →
     (t.pledge.positioned = true → s.pledge.positioned = true ∨
       ∃ n a, i = .setState ⟨n, some a⟩ ∧ t.host.held = some (plain .done)) ∧
     (t.pledge.positioned = false → s.pledge.positioned = false ∨ i = .powerOnReset ∨ ∃ x, i = .restart x)) ∧
  (∀ (n : Nat) (a : StateBody) (s t : State), exec (.setState ⟨n, some a⟩) s = .next t →
     t.host.held = some (plain .done) → t.pledge.positioned = true)

/-- The single write: an OPEN record takes the fresh pledge as its live pledge, or at the gate of a boundary computation
is frozen at it with the band of the snapshot; another record keeps its frozen pledge and takes the lower of its cap and
the fresh pledge, a take above it being lowered and noted. Outside ACTIVE every fresh pledge counts as 0. At an uplink station
each record frozen at the gate gets its ladder. A changed offer, a refresh mark or a price inserts a PLEDGE. With nothing held
the busy flag is cleared and the lock ends: the merit takes of an entry into ACTIVE are written, then the waiting evaluations
are made. A rerun request starts one more computation; a held boundary is performed on the written records (R50, R51, R26, R27,
R29, R56, R90, R91, R106, R109, R110, R119, R123). The model's: the row is the end of the computation whenever it comes,
evaluations within the step, and merit takes first (logs 20, 34, 41). -/
def Obligations.ComputationWrites : Prop :=
  ∀ (c : Computation) (s : State), s.pledge.comp = some c →
    ∃ t, exec .computationEnd s = .next t ∧ t.ctrl = s.ctrl ∧ t.clock = s.clock ∧ t.view = s.view ∧ t.freq = s.freq ∧
      t.pledge.eHost = s.pledge.eHost ∧ t.pledge.acc = s.pledge.acc ∧ t.pledge.rerun = none ∧
      t.pledge.boundaryPending = false ∧ t.pending = s.pending ∧
      (s.pledge.boundaryPending = true → HorizonLaw s →
        t.pledge.comp.map (·.boundary) = some true ∧ (s.ctrl.station ≠ .unjoined → HorizonLaw t)) ∧
      (s.pledge.boundaryPending = false → s.pledge.rerun = none → t.pledge.comp = none) ∧
      (∀ mark, s.pledge.rerun = some mark → t.pledge.comp.map (·.refresh) = some mark) ∧
      let gate (r : CRecord) : Prop := c.boundary = true ∧ 1 ≤ slotOf (tableFirst s) r.interval ∧
        slotOf (tableFirst s) r.interval ≤ s.ctrl.config.gateLead
      ∃ written : List CRecord, written.length = s.table.length ∧
        (∀ (i : Nat) (r : CRecord), s.table[i]? = some r →
          ∃ u, written[i]? = some u ∧ Written s c r u ∧ LoweringNoted s r u t) ∧
        (s.pledge.boundaryPending = false →
          (s.entryTakesDue = false → (∀ q ∈ s.table, q.evalPending = false) → t.table = written) ∧
          (s.pledge.rerun.isSome = true → t.table = written ∧ t.entryTakesDue = s.entryTakesDue) ∧
          (s.pledge.rerun = none → HorizonLaw s → t.entryTakesDue = false ∧
            ∀ (i : Nat) (r u : CRecord), s.table[i]? = some r → written[i]? = some u →
              ∃ v, t.table[i]? = some v ∧ LockEnded s r u v t) ∧
          (∀ (i : Nat) (u : CRecord), written[i]? = some u → ∃ v, t.table[i]? = some v ∧
            v.interval = u.interval ∧ v.dir = u.dir ∧ v.state = u.state ∧ v.live = u.live ∧ v.frozen = u.frozen ∧
            v.frozenBand = u.frozenBand ∧ v.cap = u.cap ∧ v.award = u.award ∧ v.withdrawn = u.withdrawn) ∧
          (s.ctrl.config.uplink = false → t.pledge.ladders = s.pledge.ladders) ∧
          (s.ctrl.config.uplink = true → HorizonLaw s →
            (∀ (i : Nat) (r u : CRecord), s.table[i]? = some r → written[i]? = some u → r.state = .opened → gate r →
              ∃ l, (t.pledge.ladders.filter fun m => m.interval == r.interval && m.dir == r.dir) = [l] ∧
                LadderOf s u l) ∧
            ∀ l : Ladder, (∀ r ∈ s.table, r.state = .opened → gate r → (l.interval, l.dir) ≠ (r.interval, r.dir)) →
              (l ∈ t.pledge.ladders ↔ l ∈ s.pledge.ladders))) ∧
        (let changed := ∃ (i : Nat), ∃ r ∈ s.table[i]?, ∃ u ∈ written[i]?,
            u.live ≠ r.live ∨ u.cap ≠ r.cap ∨ u.state ≠ r.state
         let wanted := (changed ∨ c.refresh = true ∨ c.price = true) ∧
            (s.ctrl.station = .listening ∨ s.ctrl.station = .active ∨ s.ctrl.station = .suspended)
         (wanted → flagSet .queueDrop t = true ∨
           ∃ e ∈ t.line.queue, e.key = .pledge ∧ (if e.inFlight = true then e.renewal = .plain else e.sends = 1)) ∧
         (¬ wanted → ∀ e ∈ t.line.queue, e.key = .pledge → ∃ x ∈ s.line.queue, e = { x with draw := e.draw })) ∧
        (s.pledge.boundaryPending = true → s.ctrl.station ≠ .unjoined → HorizonLaw s →
          t.host.log = (handInterval (s.clock.current - 1) { s with table := written }).host.log ∧
          ∀ u ∈ written, u.interval ≠ s.clock.current - 1 →
            findRec t.table u.interval u.dir = some (if u.interval = s.clock.current then
              { u with state := .running, run := some ⟨u.take, u.take, 0, 0, 0⟩ } else u))

/-- The state-stale timer at its limit: in ACTIVE the condition begins, STATE_STALE is raised and a computation is
triggered; elsewhere, and where the condition holds already, only the timer stands at its limit. The refresh timer's end
restarts it at Tp and in a joined state triggers a computation with the refresh mark. A trigger starts a computation, or
beside one in flight sets the rerun request (R15, R51, R55). The model's: that a named expiry is the moment itself (log
4). -/
def Obligations.TimersTriggerComputations : Prop :=
  (∀ s : State, s.ctrl.staleMs ≤ s.ctrl.config.staleLimit * 1000 →
     (s.ctrl.station = .active → s.ctrl.stale = false →
       ∃ t, exec .stateStaleLimit s = .next t ∧
         t.ctrl = { s.ctrl with staleMs := s.ctrl.config.staleLimit * 1000, stale := true } ∧
         flagSet .stateStale t = true ∧ (s.pledge.comp = none → (t.pledge.comp.map (·.stale)) = some true) ∧
         (s.pledge.comp.isSome = true → t.pledge.comp = s.pledge.comp ∧ t.pledge.rerun.isSome = true) ∧
         t.clock = s.clock ∧ t.table = s.table ∧ t.line = s.line ∧ t.view = s.view ∧ t.freq = s.freq ∧
         t.act = s.act ∧ t.mon = s.mon ∧ t.pending = s.pending) ∧
     (s.ctrl.station ≠ .active ∨ s.ctrl.stale = true →
       exec .stateStaleLimit s =
         .next { s with ctrl := { s.ctrl with staleMs := s.ctrl.config.staleLimit * 1000 } })) ∧
  (∀ s : State, s.pledge.refresh.isSome = true →
     ∃ t, exec .refreshTimerExpiry s = .next t ∧ t = { s with pledge := t.pledge } ∧
       t.pledge.refresh = some (s.ctrl.config.refreshPeriod * 1000) ∧
       (s.ctrl.station ≠ .unjoined → s.pledge.comp = none →
         t.pledge.comp.map (·.refresh) = some true ∧ t.pledge.rerun = s.pledge.rerun) ∧
       (s.ctrl.station ≠ .unjoined → s.pledge.comp.isSome = true →
         t.pledge.comp = s.pledge.comp ∧ t.pledge.rerun = some true) ∧
       (s.ctrl.station = .unjoined → t.pledge.comp = s.pledge.comp ∧ t.pledge.rerun = s.pledge.rerun))

/-! ### The Allocation Unit -/

/-- INJECT_AWARD is checked in the order of Table 6-6: the first check that fails gives the answer and nothing but the
answers changes; where all pass, the answer is DONE (R101). -/
def Obligations.InjectAwardChecks : Prop :=
  ∀ (n : Nat) (b : AwardBody) (s : State), HorizonLaw s →
    let r := exec (.injectAward ⟨n, some b⟩) s
    let refused (c : AnswerCode) : Prop := r = .next (answeredOnly n (plain c) s)
    let d : Direction := if b.direction = 0 then .raise else .lower
    if s.ctrl.station = .leaving then refused .refusedState
    else if s.ctrl.config.uplink = false then refused .refusedRole
    else if s.ctrl.station ≠ .active ∧ s.ctrl.station ≠ .listening then refused .refusedState
    else if s.pledge.comp.isSome = true then refused .busy
    else if 15 < b.band.toNat ∨ (b.direction ≠ 0 ∧ b.direction ≠ 1) ∨ 8 ≤ (b.interval - tableFirst s).toNat then
      refused .refusedRange
    else if (s.ctrl.config.zone ^^^ b.compare) &&& ~~~b.mask ≠ 0 then refused .refusedRange
    else if (((findRec s.table b.interval d).bind (·.award)).any fun h => decide (b.issue.toNat < h.issue)) = true then
      refused .refusedRange
    else ∃ t outcome held, r = .next t ∧ t.host.held = some ⟨.done, .injected outcome held⟩ ∧
      (findRec t.table b.interval d).bind (·.award) = some held

/-- A received AWARD first updates its sender's record by its header, which a view without room refuses with VIEW_FULL. Then,
in LEAVING, for an interval out of the table's horizon, or with a pattern that the own zone does not match, it is ignored;
otherwise it meets the record it names by Table 6-3, and in ACTIVE an applied award, or the greater of a conflict, writes the
merit take with its TAKE test and trigger (R78, R79, R83, R95 to R100, R106, R109, R118, R122). The model's: the order of the
header's reports and the award (log 23). -/
def Obligations.ReceivedAwardMeetsRecord : Prop :=
  ∀ (n : Notice) (rest : List Notice) (k : Word) (d : Direction) (issue : Byte) (band : BitVec 4)
    (quantity compare mask : Word) (s : State), HorizonLaw s → FrontFrame s n rest →
    n.body = .award k d issue band quantity compare mask →
    let a : Award := ⟨issue.toNat, band.toNat, quantity.toNat, compare, mask, false⟩
    let old := findPeer s.view n.sender.toNat
    let concerns := s.ctrl.station ≠ .leaving ∧ inHorizon (tableFirst s) k = true ∧
      (s.ctrl.config.zone ^^^ compare) &&& ~~~mask = 0
    let kept (t : State) : Prop :=
      t.line.rx = rest ∧ recordKeys t.table = recordKeys s.table ∧ t.ctrl = s.ctrl ∧ t.clock = s.clock ∧
      t.pledge = s.pledge ∧ t.freq = s.freq ∧ t.host.log = s.host.log ∧ t.entryTakesDue = s.entryTakesDue ∧
      t.pending = s.pending
    ∃ m t : State, exec .receivedAward s = .next t ∧ kept m ∧ kept t ∧ t.view = m.view ∧
      (HasRoom s n → ∃ q, HeaderTaken s m n rest q ∧ q.status = (old.map (·.status)).getD .fresh ∧
        q.entries = (old.map (·.entries)).getD [] ∧ q.heard = (old.map (·.heard)).getD [] ∧
        ReportsActed (zoneNames s n) (fun _ _ => false) s m) ∧
      (¬ HasRoom s n →
        m.table = s.table ∧ m.act = s.act ∧ m.mon = s.mon ∧ m.line = { s.line with rx := rest } ∧
        ((∀ p ∈ s.view, p.status ≠ .stale) → m.view = s.view ∧ Raised .viewFull 1 s m) ∧
        ((∃ p ∈ s.view, p.status = .stale) → (findPeer m.view n.sender.toNat).isSome = true ∧ m.host = s.host)) ∧
      (¬ concerns → t = m) ∧
      (concerns → ∀ r v, findRec s.table k d = some r → findRec m.table k d = some v →
        ∃ u, findRec t.table k d = some u ∧ AwardMet a (bandOf s.pledge d) r u t ∧ AwardAllocated a v u m t ∧
          (∀ k' d', (k', d') ≠ (k, d) → findRec t.table k' d' = findRec m.table k' d') ∧
          (s.ctrl.station ≠ .active → t.line = m.line ∧ t.act = m.act ∧ t.mon = m.mon))

/-- An injected award that passes every check meets its record by Table 6-3 and no other record changes; the answer carries
the outcome and the award held; an AWARD entry stands in the queue, or QUEUE_DROP is raised. In LISTENING the take stands; in
ACTIVE an applied award, or the greater of a conflict, writes the merit take: where it differs the hold starts, TAKE is raised
and max and min take follow; the TAKE test is made, and the trigger sets the pending flag or makes the evaluation (R102, R99,
R27, R106, R109, R110, R118, R120, R122). -/
def Obligations.InjectedAwardMeetsRecord : Prop :=
  ∀ (n : Nat) (b : AwardBody) (d : Direction) (r : CRecord) (s : State), HorizonLaw s →
    s.ctrl.config.uplink = true → s.ctrl.station = .active ∨ s.ctrl.station = .listening → s.pledge.comp = none →
    b.direction = (if d = .raise then 0 else 1) → b.band.toNat ≤ 15 → findRec s.table b.interval d = some r →
    zoneMatch s.ctrl.config.zone b.compare b.mask = true → (∀ h ∈ r.award, h.issue ≤ b.issue.toNat) →
    let a : Award := ⟨b.issue.toNat, b.band.toNat, b.quantity.toNat, b.compare, b.mask, false⟩
    ∃ t u held outcome, exec (.injectAward ⟨n, some b⟩) s = .next t ∧ findRec t.table b.interval d = some u ∧
      AwardMet a (bandOf s.pledge d) r u t ∧ u.award = some held ∧
      t.host.held = some ⟨.done, .injected outcome held⟩ ∧
      (outcome = .applied ↔ ∀ h ∈ r.award, h.issue < a.issue) ∧
      (outcome = .duplicate ↔ ∃ h ∈ r.award, h.issue = a.issue ∧ a.sameContent h = true) ∧
      ((∃ e ∈ t.line.queue, e.key = .award b.interval d) ∨ flagSet .queueDrop t = true) ∧
      (s.ctrl.station = .listening → u.take = r.take) ∧ (QueueLaw s → AwardAllocated a r u s t) ∧
      (s.ctrl.station = .active → outcome = .applied →
        let merit := ownMerit (awardMembers s r a) a u.ownTerm
        merit ≠ r.take →
          u.take = merit ∧ u.hold = some (2000 + s.ctrl.config.stationId % 16 * 250) ∧ flagSet .take t = true) ∧
      (∀ k' d', (k', d') ≠ (b.interval, d) → findRec t.table k' d' = findRec s.table k' d') ∧
      t.ctrl = s.ctrl ∧ t.clock = s.clock ∧ t.pledge = s.pledge ∧ t.view = s.view ∧ t.freq = s.freq ∧
      t.host.log = s.host.log ∧ t.pending = s.pending

/-- Of two contents of one issue the greater is told by quantity, then band, then zone mask, then zone compare; so conflicting
contents end at the same held content in whatever order they arrive, the first included (R97). -/
def Obligations.ConflictOrderIndependent : Prop :=
  (∀ a b : Award, a.greater b = true ↔
     b.quantity < a.quantity ∨ (a.quantity = b.quantity ∧
       (b.band < a.band ∨ (a.band = b.band ∧
         (b.mask.toNat < a.mask.toNat ∨ (a.mask = b.mask ∧ b.compare.toNat < a.compare.toNat)))))) ∧
  (∀ (h k : Award) (xs ys : List Award), (h :: xs).Perm (k :: ys) →
     let keep (h a : Award) : Award := if a.greater h then a else h
     let content (a : Award) := (a.band, a.quantity, a.compare, a.mask)
     content (xs.foldl keep h) = content (ys.foldl keep k))

/-- Where the stations below the clearing band do not exceed Q, the merit takes of a cluster whose views agree sum to Q or
less, and where its pledges reach Q they fall short by at most one unit for each station at the band; no merit take exceeds
its station's quantity (R105). -/
def Obligations.MeritTakesWithinQuantity : Prop :=
  ∀ (ms : List Member) (a : Award) (own : OwnTerm),
    let below := sumBelow a.band ms (some own)
    let at' := sumAt a.band ms (some own)
    let total := ownMerit ms a own + (ms.map (estimatedTake ms a (some own))).sum
    ownMerit ms a own ≤ own.qty ∧ (∀ m ∈ ms, estimatedTake ms a (some own) m ≤ m.qty) ∧
    (below ≤ a.quantity →
      total ≤ a.quantity ∧
      (a.quantity ≤ below + at' →
        a.quantity ≤ total + (ms.filter fun m => m.band == a.band).length + 1))

/-- An evaluation leaves the take where cover is within the slack of Q and of the upper bound. A short record is raised by
what the deficit leaves the station after the spares of all stations ranked before it, a record over the bound lowered by
what the excess leaves after the takes of all stations ranked behind it; the take stays within the cap. A member is used with
its heard take of the held issue, no higher than its entry quantity, and otherwise with its estimate (R113 to R117). The
model's: so too with a heard take that a WITHDRAW zeroed, once a PLEDGE has restored the quantity (log 44). -/
def Obligations.EvaluationByRank : Prop :=
  ∀ (id overCover : Nat) (ms : List Member) (a : Award) (own : OwnTerm) (take : Nat), take ≤ own.qty →
    (∀ m ∈ ms, m.id ≠ id) →
    let used := usedTake ms a (some own)
    let cover := take + (ms.map used).sum
    let upper := a.quantity + a.quantity * overCover / 64
    let first (m : Member) : Bool := m.band < own.band || (m.band == own.band && m.id < id)
    let t := evaluatedTake id overCover ms a own take
    (∀ m ∈ ms,
      (∀ h, m.heard = some h → h.issue = a.issue → used m = min h.amount m.qty) ∧
      ((∀ h, m.heard = some h → h.issue ≠ a.issue) → used m = estimatedTake ms a (some own) m)) ∧
    (a.quantity ≤ cover + 20 → cover ≤ upper + 20 → t = take) ∧
    (cover + 20 < a.quantity →
      t = take + min (own.qty - take)
        (a.quantity - cover - ((ms.filter first).map fun m => m.qty - used m).sum)) ∧
    (upper + 20 < cover →
      t = take - min take (cover - upper - ((ms.filter fun m => !first m).map used).sum)) ∧
    t ≤ own.qty

/-- The hold's expiry stops the timer. A pending evaluation waits on while the records are locked; otherwise it is made:
an unchanged take stands, a changed one is written, starts the hold afresh, raises TAKE, moves max and min take, is tested for
a TAKE entry and, of a RUNNING record, reaches the setpoint. No other record changes (R27, R109, R110, R117, R119, R120, R144,
R147). The model's: that a named expiry is the moment itself (log 4). -/
def Obligations.HoldExpires : Prop :=
  ∀ (k : Word) (d : Direction) (r : CRecord) (s : State), findRec s.table k d = some r → r.hold.isSome = true →
    ∃ t u, exec (.holdExpiry k d) s = .next t ∧ findRec t.table k d = some u ∧
      (r.evalPending = false → u = { r with hold := none }) ∧
      (r.evalPending = true → s.pledge.comp.isSome = true → u = { r with hold := none }) ∧
      (r.evalPending = true → s.pledge.comp = none → s.ctrl.station = .active → ∀ a, r.award = some a →
        let take := evaluatedTake s.ctrl.config.stationId s.ctrl.config.overCover (awardMembers s r a) a
          ⟨r.cap.getD 0, r.frozenBand.getD 0⟩ r.take
        u.take = take ∧ u.evalPending = false ∧ (take = r.take → u.hold = none) ∧
        (take ≠ r.take → u.hold = some (2000 + s.ctrl.config.stationId % 16 * 250) ∧ flagSet .take t = true)) ∧
      (r.evalPending = true → s.pledge.comp = none →
        let x := { r with hold := none, evalPending := false }
        (s.ctrl.station = .active → ∀ a, r.award = some a →
          u = evaluatedRecord s.ctrl.config (membersFor s.view k d a) a x) ∧
        (s.ctrl.station ≠ .active ∨ r.award = none → u = x)) ∧
      TakeNoted r u s t ∧ DeltaHanded s t ∧
      (u.take = r.take ∨ r.state ≠ .running → t.act = s.act) ∧
      (u.take = r.take → t.line = s.line ∧ t.host = s.host) ∧
      (∀ k' d', (k', d') ≠ (k, d) → findRec t.table k' d' = findRec s.table k' d') ∧
      t.ctrl = s.ctrl ∧ t.clock = s.clock ∧ t.pledge = s.pledge ∧ t.view = s.view ∧ t.freq = s.freq ∧
      t.host.log = s.host.log ∧ t.pending = s.pending

/-! ### The Cluster View -/

/-- A PLEDGE at its sender's record: the entries it carries for horizon intervals are held, those held for other horizon
intervals are zeroed with their bands kept, the heard takes stand, and the status is FRESH. Each awarded record of an interval
whose entry was created, replaced or zeroed takes its trigger, and so do those a changed zone code names: in ACTIVE the
evaluation is made at once, or waits for the hold or the lock (R78 to R80, R83, R118, R119). The model's: the header's report
before the body's (log 23). -/
def Obligations.PledgeNoticeTaken : Prop :=
  ∀ (n : Notice) (rest : List Notice) (first : Word) (entries : List SlotEntry) (s : State), FrontFrame s n rest →
    n.body = .pledge first entries → entries.length ≤ 8 → HasRoom s n →
    ∃ t q, exec .receivedPledge s = .next t ∧ HeaderTaken s t n rest q ∧ q.status = .fresh ∧
      (∀ i e, entries[i]? = some e → inHorizon s.clock.current (first + BitVec.ofNat 16 i) = true →
        q.entryAt (first + BitVec.ofNat 16 i) = some e) ∧
      (∀ k, inHorizon s.clock.current k = true → (∀ i, i < entries.length → k ≠ first + BitVec.ofNat 16 i) →
        q.entryAt k = ((findPeer s.view n.sender.toNat).bind (·.entryAt k)).map
          fun e => { e with raiseQty := 0, lowerQty := 0 }) ∧
      (∀ k d, q.heardAt k d = (findPeer s.view n.sender.toNat).bind (·.heardAt k d)) ∧
      ReportsActed (zoneNames s n) (fun k _ => inHorizon s.clock.current k && (q.entryAt k).isSome) s t

/-- A TAKE for a horizon interval is held with its amount and issue where no heard take of a higher issue is held, and
changes nothing of the record but the header otherwise; a WITHDRAW zeroes the entries and heard takes of the horizon
intervals it affects, and makes the record, unless it is STALE, WITHDRAWN where it covers the eight from the current one. A stored TAKE is a trigger
for its pair; a WITHDRAW for the pairs of its horizon intervals and, where the status changes, for all pairs with an entry; a
changed zone code for those it names (R78, R81 to R83, R118, R119). The model's: R78 before R82 at a STALE record, which stays
STALE, and the header's report before the body's (logs 23, 40). -/
def Obligations.TakeAndWithdrawNoticesTaken : Prop :=
  ∀ (n : Notice) (rest : List Notice) (s : State), FrontFrame s n rest → HasRoom s n →
    let old := findPeer s.view n.sender.toNat
    (∀ k d issue amount, n.body = .take k d issue amount →
      ∃ t q, exec .receivedTake s = .next t ∧ HeaderTaken s t n rest q ∧
        q.status = (old.map (·.status)).getD .fresh ∧ q.entries = (old.map (·.entries)).getD [] ∧
        (∀ k' d', (k', d') ≠ (k, d) → q.heardAt k' d' = old.bind (·.heardAt k' d')) ∧
        q.heardAt k d =
          (if inHorizon s.clock.current k = true ∧ ∀ h ∈ old.bind (·.heardAt k d), h.issue ≤ issue.toNat then
            some ⟨k, d, amount.toNat, issue.toNat⟩
          else old.bind (·.heardAt k d)) ∧
        ReportsActed (zoneNames s n) (fun k' d' => k' == k && d' == d && inHorizon s.clock.current k &&
          (old.bind (·.heardAt k d)).all fun h => h.issue ≤ issue.toNat) s t) ∧
    ∀ reason first affected, n.body = .withdraw reason first affected →
      let hit (k : Word) : Prop := inHorizon s.clock.current k = true ∧
        ∃ o ∈ List.range 8, affected.getLsbD o = true ∧ k = first + BitVec.ofNat 16 o
      ∃ t q, exec .receivedWithdraw s = .next t ∧ HeaderTaken s t n rest q ∧
        (∀ k, hit k → q.entryAt k =
            (old.bind (·.entryAt k)).map fun e => { e with raiseQty := 0, lowerQty := 0 }) ∧
        (∀ k, ¬ hit k → q.entryAt k = old.bind (·.entryAt k)) ∧
        (∀ k d, hit k → q.heardAt k d = (old.bind (·.heardAt k d)).map fun h => { h with amount := 0 }) ∧
        (∀ k d, ¬ hit k → q.heardAt k d = old.bind (·.heardAt k d)) ∧
        q.status = (if affected = 0xFF ∧ first = s.clock.current ∧ old.map (·.status) ≠ some .stale then .withdrawn
          else (old.map (·.status)).getD .fresh) ∧
        ReportsActed (zoneNames s n) (fun k _ => inHorizon s.clock.current k &&
          ((List.range 8).any (fun o => affected.getLsbD o && k == first + BitVec.ofNat 16 o) ||
            (q.status != (old.map (·.status)).getD .fresh && (q.entryAt k).isSome))) s t

/-- A frame of an unknown sender, of whatever kind, at a view of 47 records: its new record takes the place of the STALE record
of the greatest age, of equal ages that of the lowest id; with no record STALE the view stands, VIEW_FULL is raised and the
frame is gone, an AWARD having gone to the Allocation Unit (R78, R79). -/
def Obligations.FullViewMakesRoom : Prop :=
  ∀ (n : Notice) (rest : List Notice) (i : Instr) (s : State), FrontFrame s n rest → dueDispatch s = [i] →
    s.view.length = 47 → findPeer s.view n.sender.toNat = none →
    ((∀ p ∈ s.view, p.status ≠ .stale) →
      ∃ t, exec i s = .next t ∧ t.view = s.view ∧ t.line.rx = rest ∧ flagSet .viewFull t = true ∧
        (i ≠ .receivedAward → t.table = s.table) ∧ t.pledge = s.pledge ∧ t.pending = s.pending) ∧
    (∀ out ∈ s.view, out.status = .stale → (s.view.map (·.id)).Nodup →
      (∀ p ∈ s.view, p.status = .stale → p.ageMs < out.ageMs ∨ (p.ageMs = out.ageMs ∧ out.id ≤ p.id)) →
      ∃ t, exec i s = .next t ∧ t.view.length = 47 ∧ t.line.rx = rest ∧
        (∃ q, findPeer t.view n.sender.toNat = some q ∧ q.zone = n.zone ∧ q.ageMs = 0 ∧ q.status ≠ .stale) ∧
        findPeer t.view out.id = none ∧
        (∀ p ∈ s.view, p ≠ out → p ∈ t.view) ∧ t.pledge = s.pledge ∧ t.pending = s.pending)

/-- A record whose age reaches 3 × Tp is STALE from then on and a member of no award; one whose age reaches 10 × Tp is
gone. Either is a trigger for all pairs the record holds an entry for, the first where the status changes. The other records
stand; an id without a record changes nothing (R83 to R85, R87, R118, R119). The model's: that a named expiry is the moment
itself, and does nothing without its record (logs 3, 4). -/
def Obligations.PeersAge : Prop :=
  ∀ (id : Nat) (s : State),
    (∀ p, findPeer s.view id = some p →
      (∃ t, exec (.peerStale id) s = .next t ∧ t.view.length = s.view.length ∧
        findPeer t.view id = some { p with
          status := .stale, ageMs := max p.ageMs (3 * s.ctrl.config.refreshPeriod * 1000) } ∧
        (∀ j, j ≠ id → findPeer t.view j = findPeer s.view j) ∧
        (∀ k d compare mask, ∀ m ∈ membersOf t.view k d compare mask, m.id ≠ id) ∧
        ReportsActed (fun _ _ => false)
          (fun k _ => p.status != .stale && inHorizon s.clock.current k && (p.entryAt k).isSome) s t ∧
        t.ctrl = s.ctrl ∧ t.clock = s.clock ∧ t.pledge = s.pledge ∧ t.freq = s.freq ∧ t.pending = s.pending) ∧
      ∃ t, exec (.peerRemoved id) s = .next t ∧ findPeer t.view id = none ∧
        (∀ j, j ≠ id → findPeer t.view j = findPeer s.view j) ∧
        ReportsActed (fun _ _ => false) (fun k _ => inHorizon s.clock.current k && (p.entryAt k).isSome) s t ∧
        t.ctrl = s.ctrl ∧ t.clock = s.clock ∧ t.pledge = s.pledge ∧ t.freq = s.freq ∧ t.pending = s.pending) ∧
    (findPeer s.view id = none → exec (.peerStale id) s = .next s ∧ exec (.peerRemoved id) s = .next s)

/-! ### Frequency, activation, delivery -/

/-- CROSSING by Table 8-2: with no reference it becomes the reference; a glitch changes nothing; a valid period joins the
ring and, in VALID or once the ring holds N, gives the rounded value and the state VALID to the Activation Unit; a short
or long one is an invalid period, and so is a missed period, which discards the reference. The third invalid period in a
row in VALID makes the meter INVALID; in INVALID each empties the ring. A crossing beyond the miss timer's end finds every
missed period before it recorded, and becomes the reference (R129 to R135, R140). The model's: the operand is the count at the
crossing, and a crossing at the very end of the timer comes before it (log 7). -/
def Obligations.CrossingsAndMisses : Prop :=
  ∀ (count : Nat) (s : State),
    let hz50 := s.ctrl.config.nominal = .hz50
    let glitch := if hz50 then 80000 else 66667
    let low := if hz50 then 180000 else 150000
    let high := if hz50 then 220000 else 183334
    let missed := if hz50 then 300000 else 250001
    let N := s.ctrl.config.averaging
    let kept (t : State) : Prop :=
      t.ctrl = s.ctrl ∧ t.clock = s.clock ∧ t.table = s.table ∧ t.pledge = s.pledge ∧ t.line = s.line ∧
      t.view = s.view ∧ t.host.log = s.host.log ∧ t.pending = s.pending
    let invalid (t : State) : Prop :=
      t.freq.measured = s.freq.measured ∧
      (s.freq.state = .valid → s.freq.invalids < 2 → t.freq.state = .valid ∧ t.freq.ring = s.freq.ring ∧
        t.freq.invalids = s.freq.invalids + 1 ∧ t.act = s.act ∧ t.mon = s.mon) ∧
      (s.freq.state = .valid → 2 ≤ s.freq.invalids → t.freq.state = .invalid ∧ t.freq.ring = [] ∧
        t.freq.invalids = 3 ∧ flagSet .freqInvalid t = true ∧ t.act.heldState = .invalid ∧
        t.act.heldFreq = s.act.heldFreq ∧ Neutral t) ∧
      (s.freq.state = .invalid → t.freq.state = .invalid ∧ t.freq.ring = [] ∧
        t.freq.invalids = min 3 (s.freq.invalids + 1) ∧ t.act = s.act ∧ t.mon = s.mon)
    let inTime := count ≤ s.freq.missStart + missed
    (inTime → s.freq.reference = none →
      exec (.crossing count) s = .next { s with freq := { s.freq with
        count := max s.freq.count count, reference := some count, missStart := count } }) ∧
    (inTime → ∀ r, s.freq.reference = some r → count - r < glitch →
      exec (.crossing count) s = .next { s with freq := { s.freq with count := max s.freq.count count } }) ∧
    (inTime → ∀ r, s.freq.reference = some r → glitch ≤ count - r → count - r < low ∨ high < count - r →
      ∃ t, exec (.crossing count) s = .next t ∧ t.freq.reference = some count ∧ t.freq.missStart = count ∧
        invalid t ∧ kept t) ∧
    (inTime → ∀ r, s.freq.reference = some r → low ≤ count - r → count - r ≤ high →
      ∃ t, exec (.crossing count) s = .next t ∧ t.freq.reference = some count ∧ t.freq.missStart = count ∧
        t.freq.invalids = 0 ∧ kept t ∧
        t.freq.ring = (s.freq.ring ++ [count - r]).drop (s.freq.ring.length + 1 - N) ∧
        (s.freq.state = .valid ∨ t.freq.ring.length = N →
          ∃ f, t.freq.measured = some f ∧ t.freq.state = .valid ∧ t.act.heldFreq = some f ∧ t.act.heldState = .valid ∧
            45000 ≤ f ∧ f ≤ 66000 ∧
            (45000 < f → f < 66000 →
              2 * f * t.freq.ring.sum ≤ 20000000000 * N + t.freq.ring.sum ∧
              20000000000 * N < (2 * f + 1) * t.freq.ring.sum)) ∧
        (s.freq.state = .invalid → t.freq.ring.length ≠ N →
          t.freq.state = .invalid ∧ t.freq.measured = s.freq.measured ∧ t.act = s.act)) ∧
    (¬ inTime →
      let n := (count - s.freq.missStart - 1) / missed
      ∃ t, exec (.crossing count) s = .next t ∧ t.freq.reference = some count ∧ t.freq.missStart = count ∧
        t.freq.count = max s.freq.count count ∧ t.freq.measured = s.freq.measured ∧ kept t ∧
        t.freq.invalids = min 3 (s.freq.invalids + n) ∧
        (s.freq.state = .valid → s.freq.invalids + n < 3 →
          t.freq.state = .valid ∧ t.freq.ring = s.freq.ring ∧ t.act = s.act ∧ t.mon = s.mon) ∧
        (s.freq.state = .valid → 3 ≤ s.freq.invalids + n →
          t.freq.state = .invalid ∧ t.freq.ring = [] ∧ flagSet .freqInvalid t = true ∧ t.act.heldState = .invalid ∧
          t.act.heldFreq = s.act.heldFreq ∧ Neutral t) ∧
        (s.freq.state = .invalid → t.freq.state = .invalid ∧ t.freq.ring = [] ∧ t.act = s.act ∧ t.mon = s.mon)) ∧
    ∃ t, exec .missedPeriod s = .next t ∧ t.freq.reference = none ∧ t.freq.missStart = s.freq.missStart + missed ∧
      invalid t ∧ kept t

/-- The level: 0 and no direction within the deadband, edges included; RAISE below and LOWER above; level m of 1..16 exactly
where 256 x reaches (16 m − φ) × span, so 16 from full activation on; over the sixteen phases the levels of one deviation sum
to floor(256 x / span). The setpoint delta is the floor of take × L / 16 in the direction, so never above the take; the duty is
512 plus 512 × D / P_scale to the nearest, halves away from zero, symmetric about 512 and within 0..1024. A PWM period takes up
the last computed duty and changes nothing else. A recomputation forms the setpoint from the inputs of the moment and hands a
changed D over: 10 or more from the reference delta it starts settling afresh and abandons a judge period, a smaller step
leaves the window; and so at every crossing and missed period (R141, R143, R144, R146, R147, R154). -/
def Obligations.SetpointFollowsDeviation : Prop :=
  (∀ (c : StationConfig) (freq : Nat), c.deadband < c.fullDeviation →
     let dev : Int := (freq : Int) - (if c.nominal = .hz50 then 50000 else 60000)
     let x : Int := |dev| - c.deadband
     let span : Int := c.fullDeviation - c.deadband
     (∀ φ, φ < 16 →
       let r := levelAndDir c φ freq
       (x ≤ 0 → r = (0, none)) ∧ r.1 ≤ 16 ∧
       (0 < x → r.2 = some (if dev < 0 then .raise else .lower) ∧ (span ≤ x → r.1 = 16) ∧
         ∀ m : Nat, 1 ≤ m → m ≤ 16 → (m ≤ r.1 ↔ (16 * m - φ) * span ≤ 256 * x))) ∧
     (0 < x → x ≤ span → (((List.range 16).map fun φ => (levelAndDir c φ freq).1).sum : Int) = 256 * x / span)) ∧
  ((∀ (dir : Option Direction) (take level : Nat), level ≤ 16 →
     let d := setpointDelta dir take level
     d.natAbs ≤ take ∧
     (dir = some .raise → 16 * d ≤ take * level ∧ (take * level : Int) < 16 * d + 16) ∧
     (dir = some .lower → d = -setpointDelta (some .raise) take level) ∧ (dir = none → d = 0)) ∧
   (∀ (scale : Nat) (d : Int), 0 < scale → d.natAbs ≤ scale →
     let duty : Int := dutyFor scale d
     0 ≤ duty ∧ duty ≤ 1024 ∧ (dutyFor scale (-d) : Int) = 1024 - duty ∧
     (0 ≤ d → 2 * scale * (duty - 512) ≤ 1024 * d + scale ∧ 1024 * d < 2 * scale * (duty - 512) + scale)) ∧
   (∀ s : State, exec .pwmPeriodStart s =
     .next { s with act := { s.act with lineDuty := s.act.duty, pwmDue := false } }) ∧
   (∀ s : State, let t := recompute s
     ActivationLaw t ∧ DeltaHanded s t ∧ t = { s with act := t.act, mon := t.mon } ∧
     t.act.heldFreq = s.act.heldFreq ∧ t.act.heldState = s.act.heldState ∧ t.act.phase = s.act.phase) ∧
   ∀ (count : Nat) (s t : State),
     exec (.crossing count) s = .next t ∨ exec .missedPeriod s = .next t → DeltaHanded s t)

/-- A feedback period of 800 to 1250 µs with one falling edge sets the feedback duty and F, rounded halves away from zero,
and makes feedback PRESENT; another changes nothing. At 50 ms without one feedback is LOST and verification stops; in
ACTIVE the station is suspended and withdrawn with reason INVERTER, elsewhere station and table stand (R151, R152, R154, R157,
R158). The model's: periods in counts of 100 ns, FEEDBACK_LOST without effect in LOST, and otherwise the moment itself,
whatever the loss timer counts (logs 3, 4, 8). -/
def Obligations.FeedbackMeasuredAndLost : Prop :=
  ∀ (period high falls : Nat) (s : State),
    (8000 ≤ period → period ≤ 12500 → falls = 1 → high ≤ period →
      let duty := (2048 * high + period) / (2 * period)
      let scale := pScale s.ctrl.config
      exec (.feedbackPeriod period high falls) s = .next { s with mon := { s.mon with
        fbDuty := duty, fb := .present, lossMs := 0
        f := if 512 ≤ duty then (((duty - 512) * scale * 2 + 512) / 1024 : Nat)
          else -(((512 - duty) * scale * 2 + 512) / 1024 : Nat) } }) ∧
    (period < 8000 ∨ 12500 < period ∨ falls ≠ 1 → exec (.feedbackPeriod period high falls) s = .next s) ∧
    (s.mon.fb = .lost → exec .feedbackLost s = .next s) ∧
    (s.mon.fb = .present →
      ∃ t, exec .feedbackLost s = .next t ∧ t.mon.fb = .lost ∧ t.mon.window = .stopped ∧ t.mon.settling = none ∧
        t.mon.judgeMs = none ∧ t.mon.f = s.mon.f ∧ t.mon.fbDuty = s.mon.fbDuty ∧ t.mon.errors = s.mon.errors ∧
        (s.ctrl.station ≠ .active → t = { s with mon := t.mon }) ∧
        (s.ctrl.station = .active → t.ctrl.station = .suspended ∧ t.ctrl.suspendReason = some .inverter ∧
          WithdrawnWhole .inverter s t ∧ Neutral t ∧ flagSet .suspended t = true ∧
          t.ctrl.config = s.ctrl.config ∧ t.clock = s.clock ∧ t.pledge = s.pledge ∧ t.view = s.view ∧
          t.freq = s.freq ∧ t.host.log = s.host.log ∧ t.pending = s.pending))

/-- The end of a measurement period: the rounded mean of its samples and the current baseline are added to A, which stays
in 32 bits; each RUNNING record gains the mean in its own direction, no other record changes, and the next period starts
empty (R153, R43). The model's: the row is the end of the period whenever it comes, and delivered energy has no bound
(logs 4, 37). -/
def Obligations.MeasurementPeriodEnds : Prop :=
  ∀ s : State,
    let x : Int := if 0 ≤ s.mon.samples then (2 * s.mon.samples + 1000) / 2000
      else -((-2 * s.mon.samples + 1000) / 2000)
    ∃ t, exec .measurementPeriodEnd s = .next t ∧ t.mon = { s.mon with samples := 0, measureMs := 0 } ∧
      t.pledge.acc = max (-2147483648) (min 2147483647
        (s.pledge.acc + (x + baselineOf s.ctrl.config s.pledge s.clock.current))) ∧
      t.pledge.eHost = s.pledge.eHost ∧ t.pledge.comp = s.pledge.comp ∧ t.table.length = s.table.length ∧
      (∀ (i : Nat) (r : CRecord), s.table[i]? = some r → t.table[i]? = some (if r.state = .running then
        { r with run := r.run.map fun f => { f with
          delivered := f.delivered + (if r.dir = .raise then x else -x) } } else r)) ∧
      t.ctrl = s.ctrl ∧ t.clock = s.clock ∧ t.line = s.line ∧ t.view = s.view ∧ t.freq = s.freq ∧ t.act = s.act ∧
      t.host = s.host ∧ t.pending = s.pending

/-- Settling's end opens a judge period with empty sums. A judge period's end gives the verdict by the tolerance of R155,
counts it in the RUNNING records concerned, and carries it to C: the sixteenth good verdict in a row lowers a C above 0, a
bad one raises C and, where it reaches T in ACTIVE, suspends the station and withdraws its records with reason DELIVERY. A
changed C triggers a computation, and the next judge period runs unless the station was suspended (R154 to R158). The
model's: the rows are the ends of the periods whenever they come (log 4). -/
def Obligations.VerdictsReachTheCounter : Prop :=
  ∀ s : State,
    (s.mon.window = .settling → exec .settlingExpiry s = .next { s with mon := { s.mon with
      window := .judging, settling := none, judgeMs := some 0, dSum := 0, fSum := 0 } }) ∧
    (s.mon.window = .judging →
      let mean (sum : Int) : Int := if 0 ≤ sum then (2 * sum + 1000) / 2000 else -((-2 * sum + 1000) / 2000)
      let d := mean s.mon.dSum
      let good := |mean s.mon.fSum - d| ≤ max 20 (|d| / 16)
      let threshold := s.ctrl.config.suspendAt ≤ s.mon.errors + 1
      ∃ t, exec .judgePeriodEnd s = .next t ∧ t.table.length = s.table.length ∧
        (∀ (i : Nat) (r : CRecord), s.table[i]? = some r → r.state = .running → ∀ f, r.run = some f →
          let counts := 0 ≤ d ∧ r.dir = .raise ∨ d ≤ 0 ∧ r.dir = .lower
          ∃ u, t.table[i]? = some u ∧ ∃ g, u.run = some g ∧ g.delivered = f.delivered ∧
            g.good = (if counts ∧ good then min 300 (f.good + 1) else f.good) ∧
            g.bad = (if counts ∧ ¬ good then min 300 (f.bad + 1) else f.bad)) ∧
        (good → t.ctrl = s.ctrl ∧ t.mon.window = .judging ∧ t.mon.judgeMs = some 0 ∧
          (s.mon.goodRun < 15 → t.mon.goodRun = s.mon.goodRun + 1 ∧ t.mon.errors = s.mon.errors) ∧
          (15 ≤ s.mon.goodRun → t.mon.goodRun = 0 ∧ t.mon.errors = s.mon.errors - 1)) ∧
        (¬ good → t.mon.goodRun = 0 ∧ t.mon.errors = s.mon.errors + 1 ∧
          (¬ threshold → t.ctrl = s.ctrl ∧ t.mon.window = .judging ∧ t.mon.judgeMs = some 0) ∧
          (threshold → s.ctrl.station = .active →
            t.ctrl.station = .suspended ∧ t.ctrl.suspendReason = some .delivery ∧ t.mon.window = .stopped ∧
            WithdrawnWhole .delivery s t ∧ flagSet .suspended t = true ∧ Neutral t)) ∧
        (t.mon.errors ≠ s.mon.errors → s.ctrl.station ≠ .unjoined → t.pledge.comp.isSome = true) ∧
        (t.mon.errors = s.mon.errors → t.pledge = s.pledge) ∧
        t.clock = s.clock ∧ t.view = s.view ∧ t.freq = s.freq ∧ t.pledge.acc = s.pledge.acc ∧
        t.host.log = s.host.log ∧ t.pending = s.pending)

/-! ### The line -/

/-- Carrier sense and jams: a rise starts a burst; 2 ms make it line carrier, and a waiting run is abandoned; a glitch
leaves the run alone; the end of line carrier starts a new run with a fresh draw for a waiting head. A draw advances the
generator by four steps. 400 ms of line carrier jam an IDLE or WAITING transmitter and raise LINE_JAM; an idle line frees it.
While SENDING, and off the line, only the pin's level is noted. The receiver has the whole of a line carrier that begins while
it listens (R66). The queue's entries stand throughout (R59 to R62). The model's: a level that does not change, rows taken as
the moment itself whatever the burst or idle time counts, runs begun on a busy line, and what the receiver has of carrier
(logs 3, 4, 15, 36). -/
def Obligations.CarrierSensed : Prop :=
  (∀ v : Word,
    let next (x y : Word) : Prop := (∀ i, i < 15 → y.getLsbD i = x.getLsbD (i + 1)) ∧
      y.getLsbD 15 = (x.getLsbD 0 ^^ x.getLsbD 2 ^^ x.getLsbD 3 ^^ x.getLsbD 5)
    ∃ a b c : Word, next v a ∧ next a b ∧ next b c ∧ next c (backoffAdvance v)) ∧
  ∀ s : State,
    let watched := s.ctrl.station ≠ .unjoined ∧ s.line.tx ≠ .sending
    let run (t : State) : Prop := t.line.run = some 0 ∧ t.line.backoff = backoffAdvance s.line.backoff ∧
      t.line.queue.tail = s.line.queue.tail ∧
      ∃ e ∈ s.line.queue.head?, t.line.queue.head? = some { e with draw := t.line.backoff.toNat % 16 }
    (s.line.cdet = true → exec (.carrierDetectChange true) s = .next s) ∧
    (s.line.cdet = false → exec (.carrierDetectChange false) s = .next s) ∧
    (s.line.cdet = false → exec (.carrierDetectChange true) s = .next { s with line := { s.line with
      cdet := true, receiver := .idle, burst := if watched then some 0 else s.line.burst } }) ∧
    (s.line.cdet = true → watched → s.line.carrier = true →
      ∃ t, exec (.carrierDetectChange false) s = .next t ∧ t = { s with line := t.line } ∧ t.line.cdet = false ∧
        t.line.carrier = false ∧ t.line.burst = none ∧ t.line.receiver = s.line.receiver ∧ t.line.tx = s.line.tx ∧
        (s.line.tx = .waiting → s.line.queue ≠ [] → run t) ∧
        (s.line.tx ≠ .waiting → t.line.queue = s.line.queue ∧ t.line.run = s.line.run)) ∧
    (s.line.cdet = true → watched → s.line.carrier = false →
      exec (.carrierDetectChange false) s =
        .next { s with line := { s.line with cdet := false, burst := none } }) ∧
    (s.line.cdet = true → ¬ watched → exec (.carrierDetectChange false) s =
      .next { s with line := { s.line with cdet := false } }) ∧
    (watched → s.line.burst.isSome = true → s.line.carrier = false →
      exec .lineCarrier s = .next { s with line := { s.line with
        carrier := true, idleMs := 0, run := if s.line.tx = .waiting then none else s.line.run
        receiver := if s.line.receiver = .idle then .whole else s.line.receiver } }) ∧
    (s.ctrl.station ≠ .unjoined → s.line.carrier = true → s.line.tx = .idle ∨ s.line.tx = .waiting →
      ∃ t, exec .lineJam s = .next t ∧ t.line = { s.line with tx := .jammed, run := none } ∧
        flagSet .lineJam t = true ∧ t = { s with line := t.line, host := t.host } ∧ t.host.log = s.host.log) ∧
    (s.ctrl.station ≠ .unjoined → s.line.carrier = false → s.line.tx = .jammed →
      ∃ t, exec .jamClear s = .next t ∧ t = { s with line := t.line } ∧
        (s.line.queue = [] → t.line = { s.line with tx := .idle, run := none }) ∧
        (s.line.queue ≠ [] → t.line.tx = .waiting ∧ run t))

/-- The completed idle run puts the head in flight with its frame, assembled at this moment from the tables with the own
id and zone; a TAKE's take becomes the record's last sent take; a TAKE or AWARD whose record is gone or holds no award
leaves the queue without a send (R62 to R64). The model's: line time in thirds of a millisecond, and the head removed
without a send (logs 22, 24). -/
def Obligations.HeadPutInFlight : Prop :=
  ∀ (e : QEntry) (rest : List QEntry) (s : State), s.ctrl.station ≠ .unjoined → s.line.tx = .waiting →
    s.line.run.isSome = true → s.line.carrier = false → s.line.queue = e :: rest →
    let sends (body : NoticeBody) (t : State) : Prop :=
      let bytes := preamble ++ frameBytes ⟨.ofNat 8 s.ctrl.config.stationId, s.ctrl.config.zone, body⟩
      t.line.tx = .sending ∧ t.line.queue = { e with inFlight := true } :: rest ∧
      t.line.sending = some ⟨bytes, 5 * bytes.length⟩ ∧ t.line.receiver = .idle ∧ t.line.rx = s.line.rx ∧ t.ctrl = s.ctrl ∧
      t.clock = s.clock ∧ t.pledge = s.pledge ∧ t.view = s.view ∧ t.freq = s.freq ∧ t.act = s.act ∧ t.mon = s.mon ∧
      t.host = s.host ∧ t.pending = s.pending
    (∀ k d, e.key = .take k d → ∀ r, findRec s.table k d = some r → ∀ a, r.award = some a →
      ∃ t, exec .idleRunComplete s = .next t ∧ sends (.take k d (.ofNat 8 a.issue) (.ofNat 16 r.take)) t ∧
        findRec t.table k d = some { r with lastSent := some r.take } ∧
        ∀ k' d', (k', d') ≠ (k, d) → findRec t.table k' d' = findRec s.table k' d') ∧
    (∀ k d, e.key = .award k d → ∀ r, findRec s.table k d = some r → ∀ a, r.award = some a →
      ∃ t, exec .idleRunComplete s = .next t ∧ t.table = s.table ∧
        sends (.award k d (.ofNat 8 a.issue) (.ofNat 4 a.band) (.ofNat 16 a.quantity) a.compare a.mask) t) ∧
    (e.key = .withdraw → ∀ w, e.content = some w →
      ∃ t, exec .idleRunComplete s = .next t ∧ t.table = s.table ∧ sends (.withdraw w.reason w.first w.affected) t) ∧
    (e.key = .pledge →
      ∃ t, exec .idleRunComplete s = .next t ∧ ∃ entries, t.table = s.table ∧ sends (.pledge (tableFirst s) entries) t ∧
        1 ≤ entries.length ∧ entries.length ≤ 8 ∧
        (∀ (j : Nat) (x : SlotEntry), entries[j]? = some x → ∀ d, ∀ r,
          findRec s.table (tableFirst s + BitVec.ofNat 16 j) d = some r →
          let offer := if r.state = .opened then (bandOf s.pledge d, r.live.getD 0)
            else (r.frozenBand.getD 0, r.cap.getD 0)
          x.band d = offer.1 % 16 ∧ x.qty d = offer.2 % 65536) ∧
        (∀ j, j < 8 → entries.length ≤ j → ∀ d, ∀ r,
          findRec s.table (tableFirst s + BitVec.ofNat 16 j) d = some r →
          (if r.state = .opened then r.live.getD 0 else r.cap.getD 0) % 65536 = 0) ∧
        (1 < entries.length → ∃ x ∈ entries.getLast?, x.raiseQty ≠ 0 ∨ x.lowerQty ≠ 0)) ∧
    (∀ k d, e.key = .take k d ∨ e.key = .award k d → (findRec s.table k d).bind (·.award) = none →
      ∃ t, exec .idleRunComplete s = .next t ∧ t = { s with line := t.line } ∧
        t.line.queue.map (·.key) = rest.map (·.key) ∧ t.line.tx = (if rest = [] then .idle else .waiting))

/-- What enters and leaves the Transmit Queue. An insert has the outcome of Table 4-7. A merge names the intervals of both
withdrawals within the horizon from the earliest on, with the more severe reason. At the end of a transmission an entry with no
send left and no renewal, or whose interval has ended, is removed; another joins the tail of its group with one send fewer, or
renewed with the sends of an insert, a WITHDRAW with the pending content merged into it. The transmitter starts a new run for
the head, or is IDLE; in LEAVING the station is out of the cluster once the queue is empty. Carrier then present counts from
this end for the receiver (R9, R59, R66, R70 to R73, R75). The model's: an entry in flight at the head whatever its group, and
the draw of a fresh entry (logs 33, 36, 39). -/
def Obligations.TransmissionEnds : Prop :=
  ((∀ (k : NoticeKey) (w : Option WithdrawContent) (s : State), QueueLaw s → (w.isSome = true ↔ k = .withdraw) →
     Inserted k w s (enqueue k w s)) ∧
   ∀ (cur : Word) (a b : WithdrawContent),
     let m := mergeWithdraw cur a b
     let named (k : Word) : Prop := inHorizon cur k = true ∧ (a.Names k ∨ b.Names k)
     (∀ k, m.Names k ↔ named k) ∧ m.reason = moreSevere (some a.reason) b.reason ∧ inHorizon cur m.first = true ∧
     (∀ k, named k → named m.first) ∧ ((∀ k, ¬ named k) → m.first = cur ∧ m.affected = 0)) ∧
  (Reason.owner.severity < Reason.leave.severity ∧ Reason.leave.severity < Reason.delivery.severity ∧
   Reason.delivery.severity < Reason.inverter.severity ∧ Reason.inverter.severity < Reason.supply.severity) ∧
  ∀ (e : QEntry) (rest : List QEntry) (s : State), s.ctrl.station ≠ .unjoined → s.line.tx = .sending →
    s.line.queue = e :: rest → (∀ x ∈ rest, x.inFlight = false) →
    let gone := (∃ k ∈ e.key.interval, isBefore k s.clock.current = true) ∨ (e.renewal = .absent ∧ e.sends ≤ 1)
    (gone → rest = [] → s.ctrl.station = .leaving →
      ∃ t, exec .transmissionEnd s = .next t ∧ OutOfCluster t ∧ t.pending = s.pending) ∧
    (¬ (gone ∧ rest = [] ∧ s.ctrl.station = .leaving) →
      ∃ t, exec .transmissionEnd s = .next t ∧ t = { s with line := t.line } ∧ t.line.sending = none ∧
        t.line.carrier = false ∧ t.line.rx = s.line.rx ∧ (∀ x ∈ t.line.queue.drop 1, x.inFlight = false) ∧
        t.line.receiver = (if s.line.cdet = true then .since 0 else .idle) ∧
        t.line.burst = (if s.line.cdet = true then some 0 else none) ∧
        (t.line.queue = [] → t.line.tx = .idle ∧ t.line.run = none) ∧
        (t.line.queue ≠ [] → t.line.tx = .waiting ∧ t.line.run = some 0) ∧
        (gone → t.line.queue.map (·.key) = rest.map (·.key)) ∧
        (¬ gone → t.line.queue.length = rest.length + 1 ∧
          ∃ x, (t.line.queue.filter fun y => y.key.groupA == e.key.groupA).getLast? = some x ∧
            x.key = e.key ∧ x.inFlight = false ∧ x.renewal = .absent ∧
            (e.renewal = .absent → x.sends = e.sends - 1 ∧ x.content = e.content) ∧
            (e.renewal = .plain → x.sends = initialSends e.key e.content ∧ x.content = e.content) ∧
            (∀ p, e.renewal = .withdraw p → e.key = .withdraw → ∀ c ∈ e.content,
              x.content = some (mergeWithdraw s.clock.current c p) ∧
              x.sends = withdrawSends (mergeWithdraw s.clock.current c p))))

/-- A closed frame that fails the check is counted bad; a good one with the own id raises ID_CLASH and is gone; a good one
of another station enters the buffer behind those held, or at a full buffer is counted dropped and raises RX_OVERFLOW. The
counters stay at 65535. A frame is heard only outside UNJOINED and SENDING, in line carrier that began while the receiver listened, or
in carrier that stood before only where the 6 bytes of preamble and the frame fit in the time since; and once a frame is
closed, none until line carrier begins again (R66 to R68). The model's: the moment of a frame, and what the receiver has of
carrier (logs 29, 36). -/
def Obligations.FramesClosed : Prop :=
  ∀ (bytes : List Byte) (s : State), bytes.length ≤ 49 →
    let heard := s.ctrl.station ≠ .unjoined ∧ s.line.tx ≠ .sending ∧
      (s.line.receiver = .whole ∨ ∃ ms, s.line.receiver = .since ms ∧ 5 * (6 + bytes.length) ≤ 3 * ms)
    let line := { s.line with receiver := .idle }
    (¬ heard → exec (.frameReceived bytes) s = .next s) ∧
    (heard → checkFrame bytes = none →
      exec (.frameReceived bytes) s =
        .next { s with line := { line with rxBad := min 65535 (s.line.rxBad + 1) } }) ∧
    (heard → ∀ n, checkFrame bytes = some n →
      (n.sender.toNat = s.ctrl.config.stationId →
        exec (.frameReceived bytes) s = .next (raiseEvent .idClash { s with line := line })) ∧
      (n.sender.toNat ≠ s.ctrl.config.stationId → s.line.rx.length < 4 →
        exec (.frameReceived bytes) s = .next { s with line := { line with rx := s.line.rx ++ [n] } }) ∧
      (n.sender.toNat ≠ s.ctrl.config.stationId → 4 ≤ s.line.rx.length →
        exec (.frameReceived bytes) s = .next (raiseEvent .rxOverflow
          { s with line := { line with rxDropped := min 65535 (s.line.rxDropped + 1) } })))

/-! ### What every step keeps -/

/-- Every step keeps the configuration in its ranges, the clock's counts, the suspension reason and the timers in their
states, and the emptiness of UNJOINED (R3, R16, R21, R1, R7, R8, R10). -/
def Obligations.StationKept : Prop :=
  ∀ s t : State, ConfigLaw s ∧ ClockLaw s ∧ StationLaw s ∧ UnjoinedLaw s → step s = .next t →
    ConfigLaw t ∧ ClockLaw t ∧ StationLaw t ∧ UnjoinedLaw t

/-- Every step keeps one record for each horizon interval and direction in a joined state and none in UNJOINED, each at a slot
of its state (RUNNING at 0, CLOSED from 1 to G, AWARDED from 1 up, OPEN above G, or at G while its freeze is awaited) and with the fields of its state, a held boundary beside a computation in flight, and the clock set in every
joined state (R2, R5, R22 to R24, R29, R30). -/
def Obligations.HorizonKept : Prop :=
  ∀ s t : State, ConfigLaw s ∧ TableLaw s → step s = .next t → TableLaw t

/-- Every step keeps take ≤ cap ≤ frozen pledge in every record, and take 0 without an award, beside the fields of its state
(R25, R23). -/
def Obligations.TakesKeptWithinCaps : Prop :=
  ∀ s t : State, ConfigLaw s ∧ TableLaw s ∧ TakeLaw s → step s = .next t → FieldsLaw t ∧ TakeLaw t

/-- Every step keeps every live pledge, cap and take at 0, the holds stopped and the pending flags clear outside ACTIVE, beside
the fields of the records and the order of take and cap (R2, R112, R23, R25). -/
def Obligations.NothingHeldOutsideActive : Prop :=
  ∀ s t : State, ConfigLaw s ∧ TableLaw s ∧ TakeLaw s ∧ InactiveLaw s → step s = .next t →
    FieldsLaw t ∧ TakeLaw t ∧ InactiveLaw t

/-- Every step keeps every live pledge and cap a multiple of 10, 0 or at least M, and at most P_scale, and the energy figures
and bands in range (R47, R38, R41, R43). -/
def Obligations.PledgesKeptInForm : Prop :=
  ∀ s t : State, UnjoinedLaw s ∧ PledgeLaw s ∧ EnergyLaw s ∧ BandLaw s → step s = .next t →
    PledgeLaw t ∧ EnergyLaw t ∧ BandLaw t

/-- Every step keeps the Transmit Queue within 12 entries, one of a kind and key, group A first, with only its head in flight
and that exactly while SENDING (R61, R70). The model's: an entry in flight stays at the head whatever its group (log 33). -/
def Obligations.QueueKept : Prop :=
  ∀ s t : State, QueueLaw s → step s = .next t → QueueLaw t

/-- Every step keeps the view, the receive buffer, the event words and the Settlement Log within their bounds, and the view
ordered with no own record (R57, R68, R76, R89, R162, R163, R166). -/
def Obligations.StoresKeptWithinBounds : Prop :=
  ∀ s t : State, ViewLaw s ∧ BufferLaw s ∧ EventLaw s ∧ LogLaw s → step s = .next t →
    ViewLaw t ∧ BufferLaw t ∧ EventLaw t ∧ LogLaw t

/-- Every step keeps the setpoint what the frequency, the phase, the station state and the running take of the moment give: D
is 0 outside ACTIVE and never above the running take; and the Delivery Monitor holds the D formed last (R143 to R147). -/
def Obligations.SetpointKept : Prop :=
  ∀ s t : State, HorizonLaw s ∧ ActivationLaw s ∧ HeldDeltaLaw s → step s = .next t → ActivationLaw t ∧ HeldDeltaLaw t

/-- Every step keeps C within 0..T, at T only in a DELIVERY suspension, verification only under the judging conditions, and
the meter's values in range (R128, R133, R154, R156). -/
def Obligations.MonitorKept : Prop :=
  ∀ s t : State, ConfigLaw s ∧ WindowLaw s ∧ CounterLaw s ∧ MeterLaw s → step s = .next t →
    WindowLaw t ∧ CounterLaw t ∧ MeterLaw t
end

