-- ==== Sys2Proof/Laws/State.lean ====
section
/-! SUPPORT. What each field reads after each update of the state. -/

namespace Sys2Proof.Machine

/-! ### setCtrl -/

@[simp] theorem State.setCtrl_ctrl (s : State) (x : Controller) : (s.setCtrl x).ctrl = x := rfl
@[simp] theorem State.setCtrl_clock (s : State) (x : Controller) : (s.setCtrl x).clock = s.clock := rfl
@[simp] theorem State.setCtrl_table (s : State) (x : Controller) : (s.setCtrl x).table = s.table := rfl
@[simp] theorem State.setCtrl_pledge (s : State) (x : Controller) : (s.setCtrl x).pledge = s.pledge := rfl
@[simp] theorem State.setCtrl_line (s : State) (x : Controller) : (s.setCtrl x).line = s.line := rfl
@[simp] theorem State.setCtrl_view (s : State) (x : Controller) : (s.setCtrl x).view = s.view := rfl
@[simp] theorem State.setCtrl_entryTakesDue (s : State) (x : Controller) : (s.setCtrl x).entryTakesDue = s.entryTakesDue := rfl
@[simp] theorem State.setCtrl_freq (s : State) (x : Controller) : (s.setCtrl x).freq = s.freq := rfl
@[simp] theorem State.setCtrl_act (s : State) (x : Controller) : (s.setCtrl x).act = s.act := rfl
@[simp] theorem State.setCtrl_mon (s : State) (x : Controller) : (s.setCtrl x).mon = s.mon := rfl
@[simp] theorem State.setCtrl_host (s : State) (x : Controller) : (s.setCtrl x).host = s.host := rfl
@[simp] theorem State.setCtrl_ties (s : State) (x : Controller) : (s.setCtrl x).ties = s.ties := rfl
@[simp] theorem State.setCtrl_pending (s : State) (x : Controller) : (s.setCtrl x).pending = s.pending := rfl

/-! ### setClock -/

@[simp] theorem State.setClock_ctrl (s : State) (x : IntervalClock) : (s.setClock x).ctrl = s.ctrl := rfl
@[simp] theorem State.setClock_clock (s : State) (x : IntervalClock) : (s.setClock x).clock = x := rfl
@[simp] theorem State.setClock_table (s : State) (x : IntervalClock) : (s.setClock x).table = s.table := rfl
@[simp] theorem State.setClock_pledge (s : State) (x : IntervalClock) : (s.setClock x).pledge = s.pledge := rfl
@[simp] theorem State.setClock_line (s : State) (x : IntervalClock) : (s.setClock x).line = s.line := rfl
@[simp] theorem State.setClock_view (s : State) (x : IntervalClock) : (s.setClock x).view = s.view := rfl
@[simp] theorem State.setClock_entryTakesDue (s : State) (x : IntervalClock) : (s.setClock x).entryTakesDue = s.entryTakesDue := rfl
@[simp] theorem State.setClock_freq (s : State) (x : IntervalClock) : (s.setClock x).freq = s.freq := rfl
@[simp] theorem State.setClock_act (s : State) (x : IntervalClock) : (s.setClock x).act = s.act := rfl
@[simp] theorem State.setClock_mon (s : State) (x : IntervalClock) : (s.setClock x).mon = s.mon := rfl
@[simp] theorem State.setClock_host (s : State) (x : IntervalClock) : (s.setClock x).host = s.host := rfl
@[simp] theorem State.setClock_ties (s : State) (x : IntervalClock) : (s.setClock x).ties = s.ties := rfl
@[simp] theorem State.setClock_pending (s : State) (x : IntervalClock) : (s.setClock x).pending = s.pending := rfl

/-! ### setTable -/

@[simp] theorem State.setTable_ctrl (s : State) (x : List CRecord) : (s.setTable x).ctrl = s.ctrl := rfl
@[simp] theorem State.setTable_clock (s : State) (x : List CRecord) : (s.setTable x).clock = s.clock := rfl
@[simp] theorem State.setTable_table (s : State) (x : List CRecord) : (s.setTable x).table = x := rfl
@[simp] theorem State.setTable_pledge (s : State) (x : List CRecord) : (s.setTable x).pledge = s.pledge := rfl
@[simp] theorem State.setTable_line (s : State) (x : List CRecord) : (s.setTable x).line = s.line := rfl
@[simp] theorem State.setTable_view (s : State) (x : List CRecord) : (s.setTable x).view = s.view := rfl
@[simp] theorem State.setTable_entryTakesDue (s : State) (x : List CRecord) : (s.setTable x).entryTakesDue = s.entryTakesDue := rfl
@[simp] theorem State.setTable_freq (s : State) (x : List CRecord) : (s.setTable x).freq = s.freq := rfl
@[simp] theorem State.setTable_act (s : State) (x : List CRecord) : (s.setTable x).act = s.act := rfl
@[simp] theorem State.setTable_mon (s : State) (x : List CRecord) : (s.setTable x).mon = s.mon := rfl
@[simp] theorem State.setTable_host (s : State) (x : List CRecord) : (s.setTable x).host = s.host := rfl
@[simp] theorem State.setTable_ties (s : State) (x : List CRecord) : (s.setTable x).ties = s.ties := rfl
@[simp] theorem State.setTable_pending (s : State) (x : List CRecord) : (s.setTable x).pending = s.pending := rfl

/-! ### setPledge -/

@[simp] theorem State.setPledge_ctrl (s : State) (x : PledgeEngine) : (s.setPledge x).ctrl = s.ctrl := rfl
@[simp] theorem State.setPledge_clock (s : State) (x : PledgeEngine) : (s.setPledge x).clock = s.clock := rfl
@[simp] theorem State.setPledge_table (s : State) (x : PledgeEngine) : (s.setPledge x).table = s.table := rfl
@[simp] theorem State.setPledge_pledge (s : State) (x : PledgeEngine) : (s.setPledge x).pledge = x := rfl
@[simp] theorem State.setPledge_line (s : State) (x : PledgeEngine) : (s.setPledge x).line = s.line := rfl
@[simp] theorem State.setPledge_view (s : State) (x : PledgeEngine) : (s.setPledge x).view = s.view := rfl
@[simp] theorem State.setPledge_entryTakesDue (s : State) (x : PledgeEngine) : (s.setPledge x).entryTakesDue = s.entryTakesDue := rfl
@[simp] theorem State.setPledge_freq (s : State) (x : PledgeEngine) : (s.setPledge x).freq = s.freq := rfl
@[simp] theorem State.setPledge_act (s : State) (x : PledgeEngine) : (s.setPledge x).act = s.act := rfl
@[simp] theorem State.setPledge_mon (s : State) (x : PledgeEngine) : (s.setPledge x).mon = s.mon := rfl
@[simp] theorem State.setPledge_host (s : State) (x : PledgeEngine) : (s.setPledge x).host = s.host := rfl
@[simp] theorem State.setPledge_ties (s : State) (x : PledgeEngine) : (s.setPledge x).ties = s.ties := rfl
@[simp] theorem State.setPledge_pending (s : State) (x : PledgeEngine) : (s.setPledge x).pending = s.pending := rfl

/-! ### setLine -/

@[simp] theorem State.setLine_ctrl (s : State) (x : LineInterface) : (s.setLine x).ctrl = s.ctrl := rfl
@[simp] theorem State.setLine_clock (s : State) (x : LineInterface) : (s.setLine x).clock = s.clock := rfl
@[simp] theorem State.setLine_table (s : State) (x : LineInterface) : (s.setLine x).table = s.table := rfl
@[simp] theorem State.setLine_pledge (s : State) (x : LineInterface) : (s.setLine x).pledge = s.pledge := rfl
@[simp] theorem State.setLine_line (s : State) (x : LineInterface) : (s.setLine x).line = x := rfl
@[simp] theorem State.setLine_view (s : State) (x : LineInterface) : (s.setLine x).view = s.view := rfl
@[simp] theorem State.setLine_entryTakesDue (s : State) (x : LineInterface) : (s.setLine x).entryTakesDue = s.entryTakesDue := rfl
@[simp] theorem State.setLine_freq (s : State) (x : LineInterface) : (s.setLine x).freq = s.freq := rfl
@[simp] theorem State.setLine_act (s : State) (x : LineInterface) : (s.setLine x).act = s.act := rfl
@[simp] theorem State.setLine_mon (s : State) (x : LineInterface) : (s.setLine x).mon = s.mon := rfl
@[simp] theorem State.setLine_host (s : State) (x : LineInterface) : (s.setLine x).host = s.host := rfl
@[simp] theorem State.setLine_ties (s : State) (x : LineInterface) : (s.setLine x).ties = s.ties := rfl
@[simp] theorem State.setLine_pending (s : State) (x : LineInterface) : (s.setLine x).pending = s.pending := rfl

/-! ### setView -/

@[simp] theorem State.setView_ctrl (s : State) (x : List Peer) : (s.setView x).ctrl = s.ctrl := rfl
@[simp] theorem State.setView_clock (s : State) (x : List Peer) : (s.setView x).clock = s.clock := rfl
@[simp] theorem State.setView_table (s : State) (x : List Peer) : (s.setView x).table = s.table := rfl
@[simp] theorem State.setView_pledge (s : State) (x : List Peer) : (s.setView x).pledge = s.pledge := rfl
@[simp] theorem State.setView_line (s : State) (x : List Peer) : (s.setView x).line = s.line := rfl
@[simp] theorem State.setView_view (s : State) (x : List Peer) : (s.setView x).view = x := rfl
@[simp] theorem State.setView_entryTakesDue (s : State) (x : List Peer) : (s.setView x).entryTakesDue = s.entryTakesDue := rfl
@[simp] theorem State.setView_freq (s : State) (x : List Peer) : (s.setView x).freq = s.freq := rfl
@[simp] theorem State.setView_act (s : State) (x : List Peer) : (s.setView x).act = s.act := rfl
@[simp] theorem State.setView_mon (s : State) (x : List Peer) : (s.setView x).mon = s.mon := rfl
@[simp] theorem State.setView_host (s : State) (x : List Peer) : (s.setView x).host = s.host := rfl
@[simp] theorem State.setView_ties (s : State) (x : List Peer) : (s.setView x).ties = s.ties := rfl
@[simp] theorem State.setView_pending (s : State) (x : List Peer) : (s.setView x).pending = s.pending := rfl

/-! ### setEntryDue -/

@[simp] theorem State.setEntryDue_ctrl (s : State) (x : Bool) : (s.setEntryDue x).ctrl = s.ctrl := rfl
@[simp] theorem State.setEntryDue_clock (s : State) (x : Bool) : (s.setEntryDue x).clock = s.clock := rfl
@[simp] theorem State.setEntryDue_table (s : State) (x : Bool) : (s.setEntryDue x).table = s.table := rfl
@[simp] theorem State.setEntryDue_pledge (s : State) (x : Bool) : (s.setEntryDue x).pledge = s.pledge := rfl
@[simp] theorem State.setEntryDue_line (s : State) (x : Bool) : (s.setEntryDue x).line = s.line := rfl
@[simp] theorem State.setEntryDue_view (s : State) (x : Bool) : (s.setEntryDue x).view = s.view := rfl
@[simp] theorem State.setEntryDue_entryTakesDue (s : State) (x : Bool) : (s.setEntryDue x).entryTakesDue = x := rfl
@[simp] theorem State.setEntryDue_freq (s : State) (x : Bool) : (s.setEntryDue x).freq = s.freq := rfl
@[simp] theorem State.setEntryDue_act (s : State) (x : Bool) : (s.setEntryDue x).act = s.act := rfl
@[simp] theorem State.setEntryDue_mon (s : State) (x : Bool) : (s.setEntryDue x).mon = s.mon := rfl
@[simp] theorem State.setEntryDue_host (s : State) (x : Bool) : (s.setEntryDue x).host = s.host := rfl
@[simp] theorem State.setEntryDue_ties (s : State) (x : Bool) : (s.setEntryDue x).ties = s.ties := rfl
@[simp] theorem State.setEntryDue_pending (s : State) (x : Bool) : (s.setEntryDue x).pending = s.pending := rfl

/-! ### setFreq -/

@[simp] theorem State.setFreq_ctrl (s : State) (x : FrequencyMeter) : (s.setFreq x).ctrl = s.ctrl := rfl
@[simp] theorem State.setFreq_clock (s : State) (x : FrequencyMeter) : (s.setFreq x).clock = s.clock := rfl
@[simp] theorem State.setFreq_table (s : State) (x : FrequencyMeter) : (s.setFreq x).table = s.table := rfl
@[simp] theorem State.setFreq_pledge (s : State) (x : FrequencyMeter) : (s.setFreq x).pledge = s.pledge := rfl
@[simp] theorem State.setFreq_line (s : State) (x : FrequencyMeter) : (s.setFreq x).line = s.line := rfl
@[simp] theorem State.setFreq_view (s : State) (x : FrequencyMeter) : (s.setFreq x).view = s.view := rfl
@[simp] theorem State.setFreq_entryTakesDue (s : State) (x : FrequencyMeter) : (s.setFreq x).entryTakesDue = s.entryTakesDue := rfl
@[simp] theorem State.setFreq_freq (s : State) (x : FrequencyMeter) : (s.setFreq x).freq = x := rfl
@[simp] theorem State.setFreq_act (s : State) (x : FrequencyMeter) : (s.setFreq x).act = s.act := rfl
@[simp] theorem State.setFreq_mon (s : State) (x : FrequencyMeter) : (s.setFreq x).mon = s.mon := rfl
@[simp] theorem State.setFreq_host (s : State) (x : FrequencyMeter) : (s.setFreq x).host = s.host := rfl
@[simp] theorem State.setFreq_ties (s : State) (x : FrequencyMeter) : (s.setFreq x).ties = s.ties := rfl
@[simp] theorem State.setFreq_pending (s : State) (x : FrequencyMeter) : (s.setFreq x).pending = s.pending := rfl

/-! ### setAct -/

@[simp] theorem State.setAct_ctrl (s : State) (x : ActivationUnit) : (s.setAct x).ctrl = s.ctrl := rfl
@[simp] theorem State.setAct_clock (s : State) (x : ActivationUnit) : (s.setAct x).clock = s.clock := rfl
@[simp] theorem State.setAct_table (s : State) (x : ActivationUnit) : (s.setAct x).table = s.table := rfl
@[simp] theorem State.setAct_pledge (s : State) (x : ActivationUnit) : (s.setAct x).pledge = s.pledge := rfl
@[simp] theorem State.setAct_line (s : State) (x : ActivationUnit) : (s.setAct x).line = s.line := rfl
@[simp] theorem State.setAct_view (s : State) (x : ActivationUnit) : (s.setAct x).view = s.view := rfl
@[simp] theorem State.setAct_entryTakesDue (s : State) (x : ActivationUnit) : (s.setAct x).entryTakesDue = s.entryTakesDue := rfl
@[simp] theorem State.setAct_freq (s : State) (x : ActivationUnit) : (s.setAct x).freq = s.freq := rfl
@[simp] theorem State.setAct_act (s : State) (x : ActivationUnit) : (s.setAct x).act = x := rfl
@[simp] theorem State.setAct_mon (s : State) (x : ActivationUnit) : (s.setAct x).mon = s.mon := rfl
@[simp] theorem State.setAct_host (s : State) (x : ActivationUnit) : (s.setAct x).host = s.host := rfl
@[simp] theorem State.setAct_ties (s : State) (x : ActivationUnit) : (s.setAct x).ties = s.ties := rfl
@[simp] theorem State.setAct_pending (s : State) (x : ActivationUnit) : (s.setAct x).pending = s.pending := rfl

/-! ### setMon -/

@[simp] theorem State.setMon_ctrl (s : State) (x : DeliveryMonitor) : (s.setMon x).ctrl = s.ctrl := rfl
@[simp] theorem State.setMon_clock (s : State) (x : DeliveryMonitor) : (s.setMon x).clock = s.clock := rfl
@[simp] theorem State.setMon_table (s : State) (x : DeliveryMonitor) : (s.setMon x).table = s.table := rfl
@[simp] theorem State.setMon_pledge (s : State) (x : DeliveryMonitor) : (s.setMon x).pledge = s.pledge := rfl
@[simp] theorem State.setMon_line (s : State) (x : DeliveryMonitor) : (s.setMon x).line = s.line := rfl
@[simp] theorem State.setMon_view (s : State) (x : DeliveryMonitor) : (s.setMon x).view = s.view := rfl
@[simp] theorem State.setMon_entryTakesDue (s : State) (x : DeliveryMonitor) : (s.setMon x).entryTakesDue = s.entryTakesDue := rfl
@[simp] theorem State.setMon_freq (s : State) (x : DeliveryMonitor) : (s.setMon x).freq = s.freq := rfl
@[simp] theorem State.setMon_act (s : State) (x : DeliveryMonitor) : (s.setMon x).act = s.act := rfl
@[simp] theorem State.setMon_mon (s : State) (x : DeliveryMonitor) : (s.setMon x).mon = x := rfl
@[simp] theorem State.setMon_host (s : State) (x : DeliveryMonitor) : (s.setMon x).host = s.host := rfl
@[simp] theorem State.setMon_ties (s : State) (x : DeliveryMonitor) : (s.setMon x).ties = s.ties := rfl
@[simp] theorem State.setMon_pending (s : State) (x : DeliveryMonitor) : (s.setMon x).pending = s.pending := rfl

/-! ### setHost -/

@[simp] theorem State.setHost_ctrl (s : State) (x : HostLink) : (s.setHost x).ctrl = s.ctrl := rfl
@[simp] theorem State.setHost_clock (s : State) (x : HostLink) : (s.setHost x).clock = s.clock := rfl
@[simp] theorem State.setHost_table (s : State) (x : HostLink) : (s.setHost x).table = s.table := rfl
@[simp] theorem State.setHost_pledge (s : State) (x : HostLink) : (s.setHost x).pledge = s.pledge := rfl
@[simp] theorem State.setHost_line (s : State) (x : HostLink) : (s.setHost x).line = s.line := rfl
@[simp] theorem State.setHost_view (s : State) (x : HostLink) : (s.setHost x).view = s.view := rfl
@[simp] theorem State.setHost_entryTakesDue (s : State) (x : HostLink) : (s.setHost x).entryTakesDue = s.entryTakesDue := rfl
@[simp] theorem State.setHost_freq (s : State) (x : HostLink) : (s.setHost x).freq = s.freq := rfl
@[simp] theorem State.setHost_act (s : State) (x : HostLink) : (s.setHost x).act = s.act := rfl
@[simp] theorem State.setHost_mon (s : State) (x : HostLink) : (s.setHost x).mon = s.mon := rfl
@[simp] theorem State.setHost_host (s : State) (x : HostLink) : (s.setHost x).host = x := rfl
@[simp] theorem State.setHost_ties (s : State) (x : HostLink) : (s.setHost x).ties = s.ties := rfl
@[simp] theorem State.setHost_pending (s : State) (x : HostLink) : (s.setHost x).pending = s.pending := rfl

/-! ### setTies -/

@[simp] theorem State.setTies_ctrl (s : State) (x : Nat) : (s.setTies x).ctrl = s.ctrl := rfl
@[simp] theorem State.setTies_clock (s : State) (x : Nat) : (s.setTies x).clock = s.clock := rfl
@[simp] theorem State.setTies_table (s : State) (x : Nat) : (s.setTies x).table = s.table := rfl
@[simp] theorem State.setTies_pledge (s : State) (x : Nat) : (s.setTies x).pledge = s.pledge := rfl
@[simp] theorem State.setTies_line (s : State) (x : Nat) : (s.setTies x).line = s.line := rfl
@[simp] theorem State.setTies_view (s : State) (x : Nat) : (s.setTies x).view = s.view := rfl
@[simp] theorem State.setTies_entryTakesDue (s : State) (x : Nat) : (s.setTies x).entryTakesDue = s.entryTakesDue := rfl
@[simp] theorem State.setTies_freq (s : State) (x : Nat) : (s.setTies x).freq = s.freq := rfl
@[simp] theorem State.setTies_act (s : State) (x : Nat) : (s.setTies x).act = s.act := rfl
@[simp] theorem State.setTies_mon (s : State) (x : Nat) : (s.setTies x).mon = s.mon := rfl
@[simp] theorem State.setTies_host (s : State) (x : Nat) : (s.setTies x).host = s.host := rfl
@[simp] theorem State.setTies_ties (s : State) (x : Nat) : (s.setTies x).ties = x := rfl
@[simp] theorem State.setTies_pending (s : State) (x : Nat) : (s.setTies x).pending = s.pending := rfl

/-! ### setPending -/

@[simp] theorem State.setPending_ctrl (s : State) (x : List Instr) : (s.setPending x).ctrl = s.ctrl := rfl
@[simp] theorem State.setPending_clock (s : State) (x : List Instr) : (s.setPending x).clock = s.clock := rfl
@[simp] theorem State.setPending_table (s : State) (x : List Instr) : (s.setPending x).table = s.table := rfl
@[simp] theorem State.setPending_pledge (s : State) (x : List Instr) : (s.setPending x).pledge = s.pledge := rfl
@[simp] theorem State.setPending_line (s : State) (x : List Instr) : (s.setPending x).line = s.line := rfl
@[simp] theorem State.setPending_view (s : State) (x : List Instr) : (s.setPending x).view = s.view := rfl
@[simp] theorem State.setPending_entryTakesDue (s : State) (x : List Instr) : (s.setPending x).entryTakesDue = s.entryTakesDue := rfl
@[simp] theorem State.setPending_freq (s : State) (x : List Instr) : (s.setPending x).freq = s.freq := rfl
@[simp] theorem State.setPending_act (s : State) (x : List Instr) : (s.setPending x).act = s.act := rfl
@[simp] theorem State.setPending_mon (s : State) (x : List Instr) : (s.setPending x).mon = s.mon := rfl
@[simp] theorem State.setPending_host (s : State) (x : List Instr) : (s.setPending x).host = s.host := rfl
@[simp] theorem State.setPending_ties (s : State) (x : List Instr) : (s.setPending x).ties = s.ties := rfl
@[simp] theorem State.setPending_pending (s : State) (x : List Instr) : (s.setPending x).pending = x := rfl

end Sys2Proof.Machine
end

