-- ==== Sys2Proof/Laws/Frames.lean ====
section
/-! SUPPORT. What each shared operation leaves unchanged, block by block. -/

namespace Sys2Proof.Machine

/-- A fold leaves what each of its steps leaves. -/
theorem foldl_keeps {α β : Type} (f : State → α → State) (p : State → β) (h : ∀ s x, p (f s x) = p s) (xs : List α)
    (s : State) : p (xs.foldl f s) = p s := by
  induction xs generalizing s with
  | nil => rfl
  | cons x xs ih => exact (ih (f s x)).trans (h s x)

@[simp] theorem raiseEvent_frame (s : State) (e : Event) :
    (raiseEvent e s).ctrl = s.ctrl ∧ (raiseEvent e s).clock = s.clock ∧ (raiseEvent e s).table = s.table ∧
    (raiseEvent e s).pledge = s.pledge ∧ (raiseEvent e s).line = s.line ∧ (raiseEvent e s).view = s.view ∧
    (raiseEvent e s).entryTakesDue = s.entryTakesDue ∧ (raiseEvent e s).freq = s.freq ∧
    (raiseEvent e s).act = s.act ∧ (raiseEvent e s).mon = s.mon ∧ (raiseEvent e s).ties = s.ties ∧
    (raiseEvent e s).pending = s.pending := by
  simp only [raiseEvent]; (repeat' split) <;> simp

@[simp] theorem raiseWhen_frame (s : State) (b : Bool) (e : Event) :
    (raiseWhen b e s).ctrl = s.ctrl ∧ (raiseWhen b e s).clock = s.clock ∧ (raiseWhen b e s).table = s.table ∧
    (raiseWhen b e s).pledge = s.pledge ∧ (raiseWhen b e s).line = s.line ∧ (raiseWhen b e s).view = s.view ∧
    (raiseWhen b e s).entryTakesDue = s.entryTakesDue ∧ (raiseWhen b e s).freq = s.freq ∧
    (raiseWhen b e s).act = s.act ∧ (raiseWhen b e s).mon = s.mon ∧ (raiseWhen b e s).ties = s.ties ∧
    (raiseWhen b e s).pending = s.pending := by
  simp only [raiseWhen]; (repeat' split) <;> simp

@[simp] theorem State.updRec_frame (s : State) (k : Word) (d : Direction) (f : CRecord → CRecord) :
    (s.updRec k d f).ctrl = s.ctrl ∧ (s.updRec k d f).clock = s.clock ∧ (s.updRec k d f).pledge = s.pledge ∧
    (s.updRec k d f).line = s.line ∧ (s.updRec k d f).view = s.view ∧
    (s.updRec k d f).entryTakesDue = s.entryTakesDue ∧ (s.updRec k d f).freq = s.freq ∧
    (s.updRec k d f).act = s.act ∧ (s.updRec k d f).mon = s.mon ∧ (s.updRec k d f).host = s.host ∧
    (s.updRec k d f).ties = s.ties ∧ (s.updRec k d f).pending = s.pending := by
  simp [State.updRec]

@[simp] theorem State.updRunning_frame (s : State) (f : Direction → RunFields → RunFields) :
    (s.updRunning f).ctrl = s.ctrl ∧ (s.updRunning f).clock = s.clock ∧ (s.updRunning f).pledge = s.pledge ∧
    (s.updRunning f).line = s.line ∧ (s.updRunning f).view = s.view ∧
    (s.updRunning f).entryTakesDue = s.entryTakesDue ∧ (s.updRunning f).freq = s.freq ∧
    (s.updRunning f).act = s.act ∧ (s.updRunning f).mon = s.mon ∧ (s.updRunning f).host = s.host ∧
    (s.updRunning f).ties = s.ties ∧ (s.updRunning f).pending = s.pending := by
  simp [State.updRunning]

@[simp] theorem drawTie_frame (s : State) (n : Nat) :
    (drawTie n s).2.ctrl = s.ctrl ∧ (drawTie n s).2.clock = s.clock ∧ (drawTie n s).2.table = s.table ∧
    (drawTie n s).2.pledge = s.pledge ∧ (drawTie n s).2.line = s.line ∧ (drawTie n s).2.view = s.view ∧
    (drawTie n s).2.entryTakesDue = s.entryTakesDue ∧ (drawTie n s).2.freq = s.freq ∧ (drawTie n s).2.act = s.act ∧
    (drawTie n s).2.mon = s.mon ∧ (drawTie n s).2.host = s.host ∧ (drawTie n s).2.pending = s.pending := by
  simp [drawTie]

@[simp] theorem clockOut_frame (s : State) (clocked : Nat) :
    (clockOut clocked s).ctrl = s.ctrl ∧ (clockOut clocked s).clock = s.clock ∧
    (clockOut clocked s).table = s.table ∧ (clockOut clocked s).pledge = s.pledge ∧
    (clockOut clocked s).line = s.line ∧ (clockOut clocked s).view = s.view ∧
    (clockOut clocked s).entryTakesDue = s.entryTakesDue ∧ (clockOut clocked s).freq = s.freq ∧
    (clockOut clocked s).act = s.act ∧ (clockOut clocked s).mon = s.mon ∧ (clockOut clocked s).ties = s.ties ∧
    (clockOut clocked s).pending = s.pending := by
  simp only [clockOut]; (repeat' split) <;> simp

@[simp] theorem holdAnswer_frame (s : State) (a : Answer) :
    (holdAnswer a s).ctrl = s.ctrl ∧ (holdAnswer a s).clock = s.clock ∧ (holdAnswer a s).table = s.table ∧
    (holdAnswer a s).pledge = s.pledge ∧ (holdAnswer a s).line = s.line ∧ (holdAnswer a s).view = s.view ∧
    (holdAnswer a s).entryTakesDue = s.entryTakesDue ∧ (holdAnswer a s).freq = s.freq ∧
    (holdAnswer a s).act = s.act ∧ (holdAnswer a s).mon = s.mon ∧ (holdAnswer a s).ties = s.ties ∧
    (holdAnswer a s).pending = s.pending := by
  simp [holdAnswer]

@[simp] theorem enqueue_frame (s : State) (k : NoticeKey) (w : Option WithdrawContent) :
    (enqueue k w s).ctrl = s.ctrl ∧ (enqueue k w s).clock = s.clock ∧ (enqueue k w s).table = s.table ∧
    (enqueue k w s).pledge = s.pledge ∧ (enqueue k w s).view = s.view ∧
    (enqueue k w s).entryTakesDue = s.entryTakesDue ∧ (enqueue k w s).freq = s.freq ∧ (enqueue k w s).act = s.act ∧
    (enqueue k w s).mon = s.mon ∧ (enqueue k w s).ties = s.ties ∧ (enqueue k w s).pending = s.pending := by
  simp [enqueue]

@[simp] theorem purgeQueue_frame (s : State) (keep : Word → Bool) :
    (purgeQueue keep s).ctrl = s.ctrl ∧ (purgeQueue keep s).clock = s.clock ∧ (purgeQueue keep s).table = s.table ∧
    (purgeQueue keep s).pledge = s.pledge ∧ (purgeQueue keep s).view = s.view ∧
    (purgeQueue keep s).entryTakesDue = s.entryTakesDue ∧ (purgeQueue keep s).freq = s.freq ∧
    (purgeQueue keep s).act = s.act ∧ (purgeQueue keep s).mon = s.mon ∧ (purgeQueue keep s).host = s.host ∧
    (purgeQueue keep s).ties = s.ties ∧ (purgeQueue keep s).pending = s.pending := by
  simp [purgeQueue]

@[simp] theorem recomputePhase_frame (s : State) :
    (recomputePhase s).ctrl = s.ctrl ∧ (recomputePhase s).clock = s.clock ∧ (recomputePhase s).table = s.table ∧
    (recomputePhase s).pledge = s.pledge ∧ (recomputePhase s).line = s.line ∧ (recomputePhase s).view = s.view ∧
    (recomputePhase s).entryTakesDue = s.entryTakesDue ∧ (recomputePhase s).freq = s.freq ∧
    (recomputePhase s).mon = s.mon ∧ (recomputePhase s).host = s.host ∧ (recomputePhase s).ties = s.ties ∧
    (recomputePhase s).pending = s.pending := by
  simp [recomputePhase]

@[simp] theorem stopWindow_frame (s : State) :
    (stopWindow s).ctrl = s.ctrl ∧ (stopWindow s).clock = s.clock ∧ (stopWindow s).table = s.table ∧
    (stopWindow s).pledge = s.pledge ∧ (stopWindow s).line = s.line ∧ (stopWindow s).view = s.view ∧
    (stopWindow s).entryTakesDue = s.entryTakesDue ∧ (stopWindow s).freq = s.freq ∧ (stopWindow s).act = s.act ∧
    (stopWindow s).host = s.host ∧ (stopWindow s).ties = s.ties ∧ (stopWindow s).pending = s.pending := by
  simp [stopWindow]

@[simp] theorem startSettling_frame (s : State) (d : Int) :
    (startSettling d s).ctrl = s.ctrl ∧ (startSettling d s).clock = s.clock ∧ (startSettling d s).table = s.table ∧
    (startSettling d s).pledge = s.pledge ∧ (startSettling d s).line = s.line ∧ (startSettling d s).view = s.view ∧
    (startSettling d s).entryTakesDue = s.entryTakesDue ∧ (startSettling d s).freq = s.freq ∧
    (startSettling d s).act = s.act ∧ (startSettling d s).host = s.host ∧ (startSettling d s).ties = s.ties ∧
    (startSettling d s).pending = s.pending := by
  simp [startSettling]

@[simp] theorem handOverDelta_frame (s : State) (d : Int) :
    (handOverDelta d s).ctrl = s.ctrl ∧ (handOverDelta d s).clock = s.clock ∧ (handOverDelta d s).table = s.table ∧
    (handOverDelta d s).pledge = s.pledge ∧ (handOverDelta d s).line = s.line ∧ (handOverDelta d s).view = s.view ∧
    (handOverDelta d s).entryTakesDue = s.entryTakesDue ∧ (handOverDelta d s).freq = s.freq ∧
    (handOverDelta d s).act = s.act ∧ (handOverDelta d s).host = s.host ∧ (handOverDelta d s).ties = s.ties ∧
    (handOverDelta d s).pending = s.pending := by
  simp only [handOverDelta]; (repeat' split) <;> simp

@[simp] theorem recompute_frame (s : State) :
    (recompute s).ctrl = s.ctrl ∧ (recompute s).clock = s.clock ∧ (recompute s).table = s.table ∧
    (recompute s).pledge = s.pledge ∧ (recompute s).line = s.line ∧ (recompute s).view = s.view ∧
    (recompute s).entryTakesDue = s.entryTakesDue ∧ (recompute s).freq = s.freq ∧ (recompute s).host = s.host ∧
    (recompute s).ties = s.ties ∧ (recompute s).pending = s.pending := by
  simp only [recompute]; (repeat' split) <;> simp

@[simp] theorem addSettlement_frame (s : State) (x : Settlement) :
    (addSettlement x s).ctrl = s.ctrl ∧ (addSettlement x s).clock = s.clock ∧ (addSettlement x s).table = s.table ∧
    (addSettlement x s).pledge = s.pledge ∧ (addSettlement x s).line = s.line ∧ (addSettlement x s).view = s.view ∧
    (addSettlement x s).entryTakesDue = s.entryTakesDue ∧ (addSettlement x s).freq = s.freq ∧
    (addSettlement x s).act = s.act ∧ (addSettlement x s).mon = s.mon ∧ (addSettlement x s).ties = s.ties ∧
    (addSettlement x s).pending = s.pending := by
  simp only [addSettlement]; (repeat' split) <;> simp

@[simp] theorem handRecord_frame (s : State) (r : CRecord) :
    (handRecord s r).ctrl = s.ctrl ∧ (handRecord s r).clock = s.clock ∧ (handRecord s r).table = s.table ∧
    (handRecord s r).pledge = s.pledge ∧ (handRecord s r).line = s.line ∧ (handRecord s r).view = s.view ∧
    (handRecord s r).entryTakesDue = s.entryTakesDue ∧ (handRecord s r).freq = s.freq ∧
    (handRecord s r).act = s.act ∧ (handRecord s r).mon = s.mon ∧ (handRecord s r).ties = s.ties ∧
    (handRecord s r).pending = s.pending := by
  simp only [handRecord]; (repeat' split) <;> simp

@[simp] theorem handInterval_frame (s : State) (k : Word) :
    (handInterval k s).ctrl = s.ctrl ∧ (handInterval k s).clock = s.clock ∧ (handInterval k s).table = s.table ∧
    (handInterval k s).pledge = s.pledge ∧ (handInterval k s).line = s.line ∧ (handInterval k s).view = s.view ∧
    (handInterval k s).entryTakesDue = s.entryTakesDue ∧ (handInterval k s).freq = s.freq ∧
    (handInterval k s).act = s.act ∧ (handInterval k s).mon = s.mon ∧ (handInterval k s).ties = s.ties ∧
    (handInterval k s).pending = s.pending := by
  refine ⟨?_, ?_, ?_, ?_, ?_, ?_, ?_, ?_, ?_, ?_, ?_, ?_⟩ <;> exact foldl_keeps _ _ (by intro t x; simp) _ _

@[simp] theorem performBoundary_frame (s : State) :
    (performBoundary s).ctrl = s.ctrl ∧ (performBoundary s).clock = s.clock ∧ (performBoundary s).line = s.line ∧
    (performBoundary s).view = s.view ∧ (performBoundary s).entryTakesDue = s.entryTakesDue ∧
    (performBoundary s).freq = s.freq ∧ (performBoundary s).ties = s.ties ∧ (performBoundary s).pending = s.pending := by
  simp [performBoundary]

@[simp] theorem startComputation_frame (s : State) (b r p : Bool) :
    (startComputation b r p s).ctrl = s.ctrl ∧ (startComputation b r p s).clock = s.clock ∧
    (startComputation b r p s).table = s.table ∧ (startComputation b r p s).line = s.line ∧
    (startComputation b r p s).view = s.view ∧ (startComputation b r p s).entryTakesDue = s.entryTakesDue ∧
    (startComputation b r p s).freq = s.freq ∧ (startComputation b r p s).act = s.act ∧
    (startComputation b r p s).mon = s.mon ∧ (startComputation b r p s).host = s.host ∧
    (startComputation b r p s).ties = s.ties ∧ (startComputation b r p s).pending = s.pending := by
  simp [startComputation]

@[simp] theorem triggerComputation_frame (s : State) (r : Bool) :
    (triggerComputation r s).ctrl = s.ctrl ∧ (triggerComputation r s).clock = s.clock ∧
    (triggerComputation r s).table = s.table ∧ (triggerComputation r s).line = s.line ∧
    (triggerComputation r s).view = s.view ∧ (triggerComputation r s).entryTakesDue = s.entryTakesDue ∧
    (triggerComputation r s).freq = s.freq ∧ (triggerComputation r s).act = s.act ∧
    (triggerComputation r s).mon = s.mon ∧ (triggerComputation r s).host = s.host ∧
    (triggerComputation r s).ties = s.ties ∧ (triggerComputation r s).pending = s.pending := by
  simp only [triggerComputation]; (repeat' split) <;> simp

@[simp] theorem addLadder_frame (s : State) (kd : Word × Direction) :
    (addLadder s kd).ctrl = s.ctrl ∧ (addLadder s kd).clock = s.clock ∧ (addLadder s kd).table = s.table ∧
    (addLadder s kd).line = s.line ∧ (addLadder s kd).view = s.view ∧
    (addLadder s kd).entryTakesDue = s.entryTakesDue ∧ (addLadder s kd).freq = s.freq ∧
    (addLadder s kd).act = s.act ∧ (addLadder s kd).mon = s.mon ∧ (addLadder s kd).host = s.host ∧
    (addLadder s kd).ties = s.ties ∧ (addLadder s kd).pending = s.pending := by
  simp only [addLadder]; (repeat' split) <;> simp

@[simp] theorem foldl_addLadder_frame (s : State) (pairs : Report) :
    (pairs.foldl addLadder s).ctrl = s.ctrl ∧ (pairs.foldl addLadder s).clock = s.clock ∧
    (pairs.foldl addLadder s).table = s.table ∧ (pairs.foldl addLadder s).line = s.line ∧
    (pairs.foldl addLadder s).view = s.view ∧ (pairs.foldl addLadder s).entryTakesDue = s.entryTakesDue ∧
    (pairs.foldl addLadder s).freq = s.freq ∧ (pairs.foldl addLadder s).act = s.act ∧
    (pairs.foldl addLadder s).mon = s.mon ∧ (pairs.foldl addLadder s).host = s.host ∧
    (pairs.foldl addLadder s).ties = s.ties ∧ (pairs.foldl addLadder s).pending = s.pending := by
  refine ⟨?_, ?_, ?_, ?_, ?_, ?_, ?_, ?_, ?_, ?_, ?_, ?_⟩ <;> exact foldl_keeps _ _ (by intro t x; simp) _ _

@[simp] theorem formLadders_frame (s : State) (pairs : Report) :
    (formLadders pairs s).ctrl = s.ctrl ∧ (formLadders pairs s).clock = s.clock ∧
    (formLadders pairs s).table = s.table ∧ (formLadders pairs s).line = s.line ∧
    (formLadders pairs s).view = s.view ∧ (formLadders pairs s).entryTakesDue = s.entryTakesDue ∧
    (formLadders pairs s).freq = s.freq ∧ (formLadders pairs s).act = s.act ∧ (formLadders pairs s).mon = s.mon ∧
    (formLadders pairs s).host = s.host ∧ (formLadders pairs s).ties = s.ties ∧
    (formLadders pairs s).pending = s.pending := by
  simp only [formLadders]; (repeat' split) <;> simp

@[simp] theorem withdrawProcedure_frame (s : State) (reason : Reason) (sel : CRecord → Bool) :
    (withdrawProcedure reason sel s).ctrl = s.ctrl ∧ (withdrawProcedure reason sel s).clock = s.clock ∧
    (withdrawProcedure reason sel s).pledge = s.pledge ∧ (withdrawProcedure reason sel s).view = s.view ∧
    (withdrawProcedure reason sel s).entryTakesDue = s.entryTakesDue ∧
    (withdrawProcedure reason sel s).freq = s.freq ∧ (withdrawProcedure reason sel s).ties = s.ties ∧
    (withdrawProcedure reason sel s).pending = s.pending := by
  simp [withdrawProcedure]

@[simp] theorem noteTakeChange_frame (s : State) (k : Word) (d : Direction) (running : Bool) :
    (noteTakeChange k d running s).ctrl = s.ctrl ∧ (noteTakeChange k d running s).clock = s.clock ∧
    (noteTakeChange k d running s).pledge = s.pledge ∧ (noteTakeChange k d running s).line = s.line ∧
    (noteTakeChange k d running s).view = s.view ∧ (noteTakeChange k d running s).entryTakesDue = s.entryTakesDue ∧
    (noteTakeChange k d running s).freq = s.freq ∧ (noteTakeChange k d running s).ties = s.ties ∧
    (noteTakeChange k d running s).pending = s.pending := by
  simp only [noteTakeChange]; (repeat' split) <;> simp

@[simp] theorem takeTest_frame (s : State) (k : Word) (d : Direction) :
    (takeTest k d s).ctrl = s.ctrl ∧ (takeTest k d s).clock = s.clock ∧ (takeTest k d s).table = s.table ∧
    (takeTest k d s).pledge = s.pledge ∧ (takeTest k d s).view = s.view ∧
    (takeTest k d s).entryTakesDue = s.entryTakesDue ∧ (takeTest k d s).freq = s.freq ∧
    (takeTest k d s).act = s.act ∧ (takeTest k d s).mon = s.mon ∧ (takeTest k d s).ties = s.ties ∧
    (takeTest k d s).pending = s.pending := by
  simp only [takeTest]; (repeat' split) <;> simp

@[simp] theorem changeTake_frame (s : State) (k : Word) (d : Direction) (t : Nat) :
    (changeTake k d t s).ctrl = s.ctrl ∧ (changeTake k d t s).clock = s.clock ∧
    (changeTake k d t s).pledge = s.pledge ∧ (changeTake k d t s).line = s.line ∧
    (changeTake k d t s).view = s.view ∧ (changeTake k d t s).entryTakesDue = s.entryTakesDue ∧
    (changeTake k d t s).freq = s.freq ∧ (changeTake k d t s).ties = s.ties ∧
    (changeTake k d t s).pending = s.pending := by
  simp only [changeTake]; (repeat' split) <;> simp

@[simp] theorem evaluate_frame (s : State) (k : Word) (d : Direction) :
    (evaluate k d s).ctrl = s.ctrl ∧ (evaluate k d s).clock = s.clock ∧ (evaluate k d s).pledge = s.pledge ∧
    (evaluate k d s).view = s.view ∧ (evaluate k d s).entryTakesDue = s.entryTakesDue ∧
    (evaluate k d s).freq = s.freq ∧ (evaluate k d s).ties = s.ties ∧ (evaluate k d s).pending = s.pending := by
  simp only [evaluate]; (repeat' split) <;> simp

@[simp] theorem setEvalPending_frame (s : State) (k : Word) (d : Direction) (b : Bool) :
    (setEvalPending k d b s).ctrl = s.ctrl ∧ (setEvalPending k d b s).clock = s.clock ∧
    (setEvalPending k d b s).pledge = s.pledge ∧ (setEvalPending k d b s).line = s.line ∧
    (setEvalPending k d b s).view = s.view ∧ (setEvalPending k d b s).entryTakesDue = s.entryTakesDue ∧
    (setEvalPending k d b s).freq = s.freq ∧ (setEvalPending k d b s).act = s.act ∧
    (setEvalPending k d b s).mon = s.mon ∧ (setEvalPending k d b s).host = s.host ∧
    (setEvalPending k d b s).ties = s.ties ∧ (setEvalPending k d b s).pending = s.pending := by
  simp [setEvalPending]

@[simp] theorem triggerEvaluation_frame (s : State) (kd : Word × Direction) :
    (triggerEvaluation s kd).ctrl = s.ctrl ∧ (triggerEvaluation s kd).clock = s.clock ∧
    (triggerEvaluation s kd).pledge = s.pledge ∧ (triggerEvaluation s kd).view = s.view ∧
    (triggerEvaluation s kd).entryTakesDue = s.entryTakesDue ∧ (triggerEvaluation s kd).freq = s.freq ∧
    (triggerEvaluation s kd).ties = s.ties ∧ (triggerEvaluation s kd).pending = s.pending := by
  simp only [triggerEvaluation]; (repeat' split) <;> simp

@[simp] theorem actOnReport_frame (s : State) (pairs : Report) :
    (actOnReport pairs s).ctrl = s.ctrl ∧ (actOnReport pairs s).clock = s.clock ∧
    (actOnReport pairs s).pledge = s.pledge ∧ (actOnReport pairs s).view = s.view ∧
    (actOnReport pairs s).entryTakesDue = s.entryTakesDue ∧ (actOnReport pairs s).freq = s.freq ∧
    (actOnReport pairs s).ties = s.ties ∧ (actOnReport pairs s).pending = s.pending := by
  refine ⟨?_, ?_, ?_, ?_, ?_, ?_, ?_, ?_⟩ <;> exact foldl_keeps _ _ (by intro t x; simp) _ _

@[simp] theorem writeMerit_frame (s : State) (k : Word) (d : Direction) :
    (writeMerit k d s).ctrl = s.ctrl ∧ (writeMerit k d s).clock = s.clock ∧ (writeMerit k d s).pledge = s.pledge ∧
    (writeMerit k d s).view = s.view ∧ (writeMerit k d s).entryTakesDue = s.entryTakesDue ∧
    (writeMerit k d s).freq = s.freq ∧ (writeMerit k d s).ties = s.ties ∧ (writeMerit k d s).pending = s.pending := by
  simp only [writeMerit]; (repeat' split) <;> simp

@[simp] theorem meritAndTrigger_frame (s : State) (kd : Word × Direction) :
    (meritAndTrigger s kd).ctrl = s.ctrl ∧ (meritAndTrigger s kd).clock = s.clock ∧
    (meritAndTrigger s kd).pledge = s.pledge ∧ (meritAndTrigger s kd).view = s.view ∧
    (meritAndTrigger s kd).entryTakesDue = s.entryTakesDue ∧ (meritAndTrigger s kd).freq = s.freq ∧
    (meritAndTrigger s kd).ties = s.ties ∧ (meritAndTrigger s kd).pending = s.pending := by
  simp only [meritAndTrigger]; (repeat' split) <;> simp

@[simp] theorem applyAward_frame (s : State) (k : Word) (d : Direction) (a : Award) :
    (applyAward k d a s).ctrl = s.ctrl ∧ (applyAward k d a s).clock = s.clock ∧
    (applyAward k d a s).pledge = s.pledge ∧ (applyAward k d a s).view = s.view ∧
    (applyAward k d a s).entryTakesDue = s.entryTakesDue ∧ (applyAward k d a s).freq = s.freq ∧
    (applyAward k d a s).ties = s.ties ∧ (applyAward k d a s).pending = s.pending := by
  simp [applyAward]

@[simp] theorem conflictAward_frame (s : State) (k : Word) (d : Direction) (a held : Award) :
    (conflictAward k d a held s).ctrl = s.ctrl ∧ (conflictAward k d a held s).clock = s.clock ∧
    (conflictAward k d a held s).pledge = s.pledge ∧ (conflictAward k d a held s).view = s.view ∧
    (conflictAward k d a held s).entryTakesDue = s.entryTakesDue ∧ (conflictAward k d a held s).freq = s.freq ∧
    (conflictAward k d a held s).ties = s.ties ∧ (conflictAward k d a held s).pending = s.pending := by
  simp only [conflictAward]; (repeat' split) <;> simp

@[simp] theorem compareAward_frame (s : State) (k : Word) (d : Direction) (a : Award) (r : CRecord) :
    (compareAward k d a r s).1.ctrl = s.ctrl ∧ (compareAward k d a r s).1.clock = s.clock ∧
    (compareAward k d a r s).1.pledge = s.pledge ∧ (compareAward k d a r s).1.view = s.view ∧
    (compareAward k d a r s).1.entryTakesDue = s.entryTakesDue ∧ (compareAward k d a r s).1.freq = s.freq ∧
    (compareAward k d a r s).1.ties = s.ties ∧ (compareAward k d a r s).1.pending = s.pending := by
  simp only [compareAward]; (repeat' split) <;> simp

@[simp] theorem acceptAward_frame (s : State) (k : Word) (d : Direction) (a : Award) :
    (acceptAward k d a s).1.ctrl = s.ctrl ∧ (acceptAward k d a s).1.clock = s.clock ∧
    (acceptAward k d a s).1.pledge = s.pledge ∧ (acceptAward k d a s).1.view = s.view ∧
    (acceptAward k d a s).1.entryTakesDue = s.entryTakesDue ∧ (acceptAward k d a s).1.freq = s.freq ∧
    (acceptAward k d a s).1.ties = s.ties ∧ (acceptAward k d a s).1.pending = s.pending := by
  simp only [acceptAward]; (repeat' split) <;> simp

@[simp] theorem foldl_meritAndTrigger_frame (s : State) (pairs : Report) :
    (pairs.foldl meritAndTrigger s).ctrl = s.ctrl ∧ (pairs.foldl meritAndTrigger s).clock = s.clock ∧
    (pairs.foldl meritAndTrigger s).pledge = s.pledge ∧ (pairs.foldl meritAndTrigger s).view = s.view ∧
    (pairs.foldl meritAndTrigger s).entryTakesDue = s.entryTakesDue ∧
    (pairs.foldl meritAndTrigger s).freq = s.freq ∧ (pairs.foldl meritAndTrigger s).ties = s.ties ∧
    (pairs.foldl meritAndTrigger s).pending = s.pending := by
  refine ⟨?_, ?_, ?_, ?_, ?_, ?_, ?_, ?_⟩ <;> exact foldl_keeps _ _ (by intro t x; simp) _ _

@[simp] theorem entryMerits_frame (s : State) :
    (entryMerits s).ctrl = s.ctrl ∧ (entryMerits s).clock = s.clock ∧ (entryMerits s).pledge = s.pledge ∧
    (entryMerits s).view = s.view ∧ (entryMerits s).freq = s.freq ∧ (entryMerits s).ties = s.ties ∧
    (entryMerits s).pending = s.pending := by
  simp only [entryMerits]; (repeat' split) <;> simp

@[simp] theorem runPending_frame (s : State) (kd : Word × Direction) :
    (runPending s kd).ctrl = s.ctrl ∧ (runPending s kd).clock = s.clock ∧ (runPending s kd).pledge = s.pledge ∧
    (runPending s kd).view = s.view ∧ (runPending s kd).entryTakesDue = s.entryTakesDue ∧
    (runPending s kd).freq = s.freq ∧ (runPending s kd).ties = s.ties ∧ (runPending s kd).pending = s.pending := by
  simp [runPending]

@[simp] theorem foldl_runPending_frame (s : State) (pairs : Report) :
    (pairs.foldl runPending s).ctrl = s.ctrl ∧ (pairs.foldl runPending s).clock = s.clock ∧
    (pairs.foldl runPending s).pledge = s.pledge ∧ (pairs.foldl runPending s).view = s.view ∧
    (pairs.foldl runPending s).entryTakesDue = s.entryTakesDue ∧ (pairs.foldl runPending s).freq = s.freq ∧
    (pairs.foldl runPending s).ties = s.ties ∧ (pairs.foldl runPending s).pending = s.pending := by
  refine ⟨?_, ?_, ?_, ?_, ?_, ?_, ?_, ?_⟩ <;> exact foldl_keeps _ _ (by intro t x; simp) _ _

@[simp] theorem lockEnds_frame (s : State) :
    (lockEnds s).ctrl = s.ctrl ∧ (lockEnds s).clock = s.clock ∧ (lockEnds s).pledge = s.pledge ∧
    (lockEnds s).view = s.view ∧ (lockEnds s).freq = s.freq ∧ (lockEnds s).ties = s.ties ∧
    (lockEnds s).pending = s.pending := by
  simp [lockEnds]

@[simp] theorem stopHolds_frame (s : State) :
    (stopHolds s).ctrl = s.ctrl ∧ (stopHolds s).clock = s.clock ∧ (stopHolds s).pledge = s.pledge ∧
    (stopHolds s).line = s.line ∧ (stopHolds s).view = s.view ∧ (stopHolds s).freq = s.freq ∧
    (stopHolds s).act = s.act ∧ (stopHolds s).mon = s.mon ∧ (stopHolds s).host = s.host ∧
    (stopHolds s).ties = s.ties ∧ (stopHolds s).pending = s.pending := by
  simp [stopHolds]

@[simp] theorem leaveActive_frame (s : State) :
    (leaveActive s).ctrl = s.ctrl ∧ (leaveActive s).clock = s.clock ∧ (leaveActive s).pledge = s.pledge ∧
    (leaveActive s).line = s.line ∧ (leaveActive s).view = s.view ∧ (leaveActive s).freq = s.freq ∧
    (leaveActive s).act = s.act ∧ (leaveActive s).host = s.host ∧ (leaveActive s).ties = s.ties ∧
    (leaveActive s).pending = s.pending := by
  simp [leaveActive]

@[simp] theorem suspendStation_frame (s : State) (q : SuspendReason) :
    (suspendStation q s).clock = s.clock ∧ (suspendStation q s).pledge = s.pledge ∧
    (suspendStation q s).view = s.view ∧ (suspendStation q s).freq = s.freq ∧ (suspendStation q s).ties = s.ties ∧
    (suspendStation q s).pending = s.pending := by
  simp [suspendStation]

@[simp] theorem requestInActive_frame (s : State) (q : SuspendReason) :
    (requestInActive q s).clock = s.clock ∧ (requestInActive q s).pledge = s.pledge ∧
    (requestInActive q s).view = s.view ∧ (requestInActive q s).freq = s.freq ∧
    (requestInActive q s).ties = s.ties ∧ (requestInActive q s).pending = s.pending := by
  simp only [requestInActive]; (repeat' split) <;> simp

@[simp] theorem requestSupply_frame (s : State) :
    (requestSupply s).clock = s.clock ∧ (requestSupply s).pledge = s.pledge ∧ (requestSupply s).view = s.view ∧
    (requestSupply s).freq = s.freq ∧ (requestSupply s).ties = s.ties ∧ (requestSupply s).pending = s.pending := by
  simp only [requestSupply]; (repeat' split) <;> simp

@[simp] theorem supplyWhenFiltered_frame (s : State) :
    (supplyWhenFiltered s).clock = s.clock ∧ (supplyWhenFiltered s).pledge = s.pledge ∧
    (supplyWhenFiltered s).view = s.view ∧ (supplyWhenFiltered s).freq = s.freq ∧
    (supplyWhenFiltered s).ties = s.ties ∧ (supplyWhenFiltered s).pending = s.pending := by
  simp only [supplyWhenFiltered]; (repeat' split) <;> simp

@[simp] theorem enterListening_frame (s : State) :
    (enterListening s).clock = s.clock ∧ (enterListening s).pledge = s.pledge ∧ (enterListening s).view = s.view ∧
    (enterListening s).freq = s.freq ∧ (enterListening s).ties = s.ties ∧ (enterListening s).pending = s.pending := by
  simp [enterListening]

@[simp] theorem beginStale_frame (s : State) :
    (beginStale s).clock = s.clock ∧ (beginStale s).table = s.table ∧ (beginStale s).pledge = s.pledge ∧
    (beginStale s).line = s.line ∧ (beginStale s).view = s.view ∧ (beginStale s).entryTakesDue = s.entryTakesDue ∧
    (beginStale s).freq = s.freq ∧ (beginStale s).act = s.act ∧ (beginStale s).mon = s.mon ∧
    (beginStale s).ties = s.ties ∧ (beginStale s).pending = s.pending := by
  simp only [beginStale]; (repeat' split) <;> simp

@[simp] theorem beginJudging_frame (s : State) :
    (beginJudging s).ctrl = s.ctrl ∧ (beginJudging s).clock = s.clock ∧ (beginJudging s).table = s.table ∧
    (beginJudging s).pledge = s.pledge ∧ (beginJudging s).line = s.line ∧ (beginJudging s).view = s.view ∧
    (beginJudging s).entryTakesDue = s.entryTakesDue ∧ (beginJudging s).freq = s.freq ∧
    (beginJudging s).act = s.act ∧ (beginJudging s).host = s.host ∧ (beginJudging s).ties = s.ties ∧
    (beginJudging s).pending = s.pending := by
  simp only [beginJudging]; (repeat' split) <;> simp

@[simp] theorem entryRequests_frame (s : State) :
    (entryRequests s).clock = s.clock ∧ (entryRequests s).pledge = s.pledge ∧ (entryRequests s).view = s.view ∧
    (entryRequests s).freq = s.freq ∧ (entryRequests s).pending = s.pending := by
  simp only [entryRequests]; (repeat' split) <;> simp

@[simp] theorem enterActive_frame (s : State) :
    (enterActive s).clock = s.clock ∧ (enterActive s).view = s.view ∧ (enterActive s).freq = s.freq ∧
    (enterActive s).pending = s.pending := by
  simp only [enterActive]; (repeat' split) <;> simp

@[simp] theorem returnToUnjoined_frame (s : State) :
    (returnToUnjoined s).clock = s.clock ∧ (returnToUnjoined s).freq = s.freq ∧
    (returnToUnjoined s).ties = s.ties ∧ (returnToUnjoined s).pending = s.pending := by
  simp [returnToUnjoined]

@[simp] theorem boundaryAtTable_frame (s : State) :
    (boundaryAtTable s).ctrl = s.ctrl ∧ (boundaryAtTable s).clock = s.clock ∧ (boundaryAtTable s).line = s.line ∧
    (boundaryAtTable s).view = s.view ∧ (boundaryAtTable s).entryTakesDue = s.entryTakesDue ∧
    (boundaryAtTable s).freq = s.freq ∧ (boundaryAtTable s).ties = s.ties ∧ (boundaryAtTable s).pending = s.pending := by
  simp only [boundaryAtTable]; (repeat' split) <;> simp

@[simp] theorem issueBoundary_frame (s : State) :
    (issueBoundary s).ctrl = s.ctrl ∧ (issueBoundary s).clock = s.clock ∧
    (issueBoundary s).entryTakesDue = s.entryTakesDue ∧ (issueBoundary s).freq = s.freq ∧
    (issueBoundary s).ties = s.ties ∧ (issueBoundary s).pending = s.pending := by
  simp [issueBoundary]

@[simp] theorem nextInterval_frame (s : State) :
    (nextInterval s).ctrl = s.ctrl ∧ (nextInterval s).table = s.table ∧ (nextInterval s).pledge = s.pledge ∧
    (nextInterval s).line = s.line ∧ (nextInterval s).view = s.view ∧
    (nextInterval s).entryTakesDue = s.entryTakesDue ∧ (nextInterval s).freq = s.freq ∧
    (nextInterval s).act = s.act ∧ (nextInterval s).mon = s.mon ∧ (nextInterval s).host = s.host ∧
    (nextInterval s).ties = s.ties ∧ (nextInterval s).pending = s.pending := by
  simp [nextInterval]

@[simp] theorem naturalBoundary_frame (s : State) :
    (naturalBoundary s).ctrl = s.ctrl ∧ (naturalBoundary s).entryTakesDue = s.entryTakesDue ∧
    (naturalBoundary s).freq = s.freq ∧ (naturalBoundary s).ties = s.ties ∧ (naturalBoundary s).pending = s.pending := by
  simp only [naturalBoundary]; (repeat' split) <;> simp

@[simp] theorem setClockTo_frame (s : State) (k : Word) (second : Nat) :
    (setClockTo k second s).ctrl = s.ctrl ∧ (setClockTo k second s).table = s.table ∧
    (setClockTo k second s).pledge = s.pledge ∧ (setClockTo k second s).line = s.line ∧
    (setClockTo k second s).view = s.view ∧ (setClockTo k second s).entryTakesDue = s.entryTakesDue ∧
    (setClockTo k second s).freq = s.freq ∧ (setClockTo k second s).act = s.act ∧
    (setClockTo k second s).mon = s.mon ∧ (setClockTo k second s).host = s.host ∧
    (setClockTo k second s).ties = s.ties ∧ (setClockTo k second s).pending = s.pending := by
  simp [setClockTo]

@[simp] theorem rebuildHorizon_frame (s : State) :
    (rebuildHorizon s).ctrl = s.ctrl ∧ (rebuildHorizon s).clock = s.clock ∧
    (rebuildHorizon s).entryTakesDue = s.entryTakesDue ∧ (rebuildHorizon s).freq = s.freq ∧
    (rebuildHorizon s).act = s.act ∧ (rebuildHorizon s).mon = s.mon ∧ (rebuildHorizon s).host = s.host ∧
    (rebuildHorizon s).ties = s.ties ∧ (rebuildHorizon s).pending = s.pending := by
  simp [rebuildHorizon]

@[simp] theorem performRebuild_frame (s : State) (k : Word) (second : Nat) :
    (performRebuild k second s).ctrl = s.ctrl ∧ (performRebuild k second s).entryTakesDue = s.entryTakesDue ∧
    (performRebuild k second s).freq = s.freq ∧ (performRebuild k second s).host = s.host ∧
    (performRebuild k second s).ties = s.ties ∧ (performRebuild k second s).pending = s.pending := by
  simp only [performRebuild]; (repeat' split) <;> simp

@[simp] theorem noteLowered_frame (s : State) (kd : Word × Direction) :
    (noteLowered s kd).ctrl = s.ctrl ∧ (noteLowered s kd).clock = s.clock ∧ (noteLowered s kd).pledge = s.pledge ∧
    (noteLowered s kd).view = s.view ∧ (noteLowered s kd).entryTakesDue = s.entryTakesDue ∧
    (noteLowered s kd).freq = s.freq ∧ (noteLowered s kd).ties = s.ties ∧ (noteLowered s kd).pending = s.pending := by
  simp [noteLowered]

@[simp] theorem pledgeInsert_frame (s : State) (wanted : Bool) :
    (pledgeInsert wanted s).ctrl = s.ctrl ∧ (pledgeInsert wanted s).clock = s.clock ∧
    (pledgeInsert wanted s).table = s.table ∧ (pledgeInsert wanted s).pledge = s.pledge ∧
    (pledgeInsert wanted s).view = s.view ∧ (pledgeInsert wanted s).entryTakesDue = s.entryTakesDue ∧
    (pledgeInsert wanted s).freq = s.freq ∧ (pledgeInsert wanted s).act = s.act ∧
    (pledgeInsert wanted s).mon = s.mon ∧ (pledgeInsert wanted s).ties = s.ties ∧
    (pledgeInsert wanted s).pending = s.pending := by
  simp only [pledgeInsert]; (repeat' split) <;> simp

@[simp] theorem afterWrite_frame (s : State) :
    (afterWrite s).ctrl = s.ctrl ∧ (afterWrite s).clock = s.clock ∧ (afterWrite s).view = s.view ∧
    (afterWrite s).freq = s.freq ∧ (afterWrite s).ties = s.ties ∧ (afterWrite s).pending = s.pending := by
  simp only [afterWrite]; (repeat' split) <;> simp

@[simp] theorem foldl_noteLowered_frame (s : State) (pairs : Report) :
    (pairs.foldl noteLowered s).ctrl = s.ctrl ∧ (pairs.foldl noteLowered s).clock = s.clock ∧
    (pairs.foldl noteLowered s).pledge = s.pledge ∧ (pairs.foldl noteLowered s).view = s.view ∧
    (pairs.foldl noteLowered s).entryTakesDue = s.entryTakesDue ∧ (pairs.foldl noteLowered s).freq = s.freq ∧
    (pairs.foldl noteLowered s).ties = s.ties ∧ (pairs.foldl noteLowered s).pending = s.pending := by
  refine ⟨?_, ?_, ?_, ?_, ?_, ?_, ?_, ?_⟩ <;> exact foldl_keeps _ _ (by intro t x; simp) _ _

@[simp] theorem endComputation_frame (s : State) (c : Computation) :
    (endComputation c s).ctrl = s.ctrl ∧ (endComputation c s).clock = s.clock ∧
    (endComputation c s).view = s.view ∧ (endComputation c s).freq = s.freq ∧ (endComputation c s).ties = s.ties ∧
    (endComputation c s).pending = s.pending := by
  simp [endComputation]

@[simp] theorem handOverValue_frame (s : State) (f : Nat) :
    (handOverValue f s).ctrl = s.ctrl ∧ (handOverValue f s).clock = s.clock ∧ (handOverValue f s).table = s.table ∧
    (handOverValue f s).pledge = s.pledge ∧ (handOverValue f s).line = s.line ∧ (handOverValue f s).view = s.view ∧
    (handOverValue f s).entryTakesDue = s.entryTakesDue ∧ (handOverValue f s).freq = s.freq ∧
    (handOverValue f s).host = s.host ∧ (handOverValue f s).ties = s.ties ∧ (handOverValue f s).pending = s.pending := by
  simp [handOverValue]

@[simp] theorem handOverInvalid_frame (s : State) :
    (handOverInvalid s).ctrl = s.ctrl ∧ (handOverInvalid s).clock = s.clock ∧ (handOverInvalid s).table = s.table ∧
    (handOverInvalid s).pledge = s.pledge ∧ (handOverInvalid s).line = s.line ∧ (handOverInvalid s).view = s.view ∧
    (handOverInvalid s).entryTakesDue = s.entryTakesDue ∧ (handOverInvalid s).freq = s.freq ∧
    (handOverInvalid s).host = s.host ∧ (handOverInvalid s).ties = s.ties ∧ (handOverInvalid s).pending = s.pending := by
  simp [handOverInvalid]

@[simp] theorem computeValue_frame (s : State) :
    (computeValue s).ctrl = s.ctrl ∧ (computeValue s).clock = s.clock ∧ (computeValue s).table = s.table ∧
    (computeValue s).pledge = s.pledge ∧ (computeValue s).line = s.line ∧ (computeValue s).view = s.view ∧
    (computeValue s).entryTakesDue = s.entryTakesDue ∧ (computeValue s).host = s.host ∧
    (computeValue s).ties = s.ties ∧ (computeValue s).pending = s.pending := by
  simp [computeValue]

@[simp] theorem validPeriod_frame (s : State) (n : Nat) :
    (validPeriod n s).ctrl = s.ctrl ∧ (validPeriod n s).clock = s.clock ∧ (validPeriod n s).table = s.table ∧
    (validPeriod n s).pledge = s.pledge ∧ (validPeriod n s).line = s.line ∧ (validPeriod n s).view = s.view ∧
    (validPeriod n s).entryTakesDue = s.entryTakesDue ∧ (validPeriod n s).host = s.host ∧
    (validPeriod n s).ties = s.ties ∧ (validPeriod n s).pending = s.pending := by
  simp only [validPeriod]; (repeat' split) <;> simp

@[simp] theorem invalidPeriod_frame (s : State) :
    (invalidPeriod s).ctrl = s.ctrl ∧ (invalidPeriod s).clock = s.clock ∧ (invalidPeriod s).table = s.table ∧
    (invalidPeriod s).pledge = s.pledge ∧ (invalidPeriod s).line = s.line ∧ (invalidPeriod s).view = s.view ∧
    (invalidPeriod s).entryTakesDue = s.entryTakesDue ∧ (invalidPeriod s).ties = s.ties ∧
    (invalidPeriod s).pending = s.pending := by
  simp only [invalidPeriod]; (repeat' split) <;> simp

@[simp] theorem newReference_frame (s : State) (count : Nat) :
    (newReference count s).ctrl = s.ctrl ∧ (newReference count s).clock = s.clock ∧
    (newReference count s).table = s.table ∧ (newReference count s).pledge = s.pledge ∧
    (newReference count s).line = s.line ∧ (newReference count s).view = s.view ∧
    (newReference count s).entryTakesDue = s.entryTakesDue ∧ (newReference count s).act = s.act ∧
    (newReference count s).mon = s.mon ∧ (newReference count s).host = s.host ∧
    (newReference count s).ties = s.ties ∧ (newReference count s).pending = s.pending := by
  simp [newReference]

@[simp] theorem reachCount_frame (s : State) (count : Nat) :
    (reachCount count s).ctrl = s.ctrl ∧ (reachCount count s).clock = s.clock ∧
    (reachCount count s).table = s.table ∧ (reachCount count s).pledge = s.pledge ∧
    (reachCount count s).line = s.line ∧ (reachCount count s).view = s.view ∧
    (reachCount count s).entryTakesDue = s.entryTakesDue ∧ (reachCount count s).act = s.act ∧
    (reachCount count s).mon = s.mon ∧ (reachCount count s).host = s.host ∧ (reachCount count s).ties = s.ties ∧
    (reachCount count s).pending = s.pending := by
  simp [reachCount]

@[simp] theorem meterReconfigured_frame (s : State) (old : StationConfig) :
    (meterReconfigured old s).ctrl = s.ctrl ∧ (meterReconfigured old s).clock = s.clock ∧
    (meterReconfigured old s).table = s.table ∧ (meterReconfigured old s).pledge = s.pledge ∧
    (meterReconfigured old s).line = s.line ∧ (meterReconfigured old s).view = s.view ∧
    (meterReconfigured old s).entryTakesDue = s.entryTakesDue ∧ (meterReconfigured old s).ties = s.ties ∧
    (meterReconfigured old s).pending = s.pending := by
  simp only [meterReconfigured]; (repeat' split) <;> simp

@[simp] theorem clearErrors_frame (s : State) :
    (clearErrors s).ctrl = s.ctrl ∧ (clearErrors s).clock = s.clock ∧ (clearErrors s).table = s.table ∧
    (clearErrors s).pledge = s.pledge ∧ (clearErrors s).line = s.line ∧ (clearErrors s).view = s.view ∧
    (clearErrors s).entryTakesDue = s.entryTakesDue ∧ (clearErrors s).freq = s.freq ∧ (clearErrors s).act = s.act ∧
    (clearErrors s).host = s.host ∧ (clearErrors s).ties = s.ties ∧ (clearErrors s).pending = s.pending := by
  simp [clearErrors]

@[simp] theorem thresholdReset_frame (s : State) (items : List Item) :
    (thresholdReset items s).ctrl = s.ctrl ∧ (thresholdReset items s).clock = s.clock ∧
    (thresholdReset items s).table = s.table ∧ (thresholdReset items s).pledge = s.pledge ∧
    (thresholdReset items s).line = s.line ∧ (thresholdReset items s).view = s.view ∧
    (thresholdReset items s).entryTakesDue = s.entryTakesDue ∧ (thresholdReset items s).freq = s.freq ∧
    (thresholdReset items s).act = s.act ∧ (thresholdReset items s).host = s.host ∧
    (thresholdReset items s).ties = s.ties ∧ (thresholdReset items s).pending = s.pending := by
  simp only [thresholdReset]; (repeat' split) <;> simp

@[simp] theorem storeConfiguration_frame (s : State) (items : List Item) :
    (storeConfiguration items s).clock = s.clock ∧ (storeConfiguration items s).table = s.table ∧
    (storeConfiguration items s).pledge = s.pledge ∧ (storeConfiguration items s).line = s.line ∧
    (storeConfiguration items s).view = s.view ∧ (storeConfiguration items s).entryTakesDue = s.entryTakesDue ∧
    (storeConfiguration items s).ties = s.ties ∧ (storeConfiguration items s).pending = s.pending := by
  simp [storeConfiguration]

@[simp] theorem joinStation_frame (s : State) :
    (joinStation s).clock = s.clock ∧ (joinStation s).freq = s.freq ∧ (joinStation s).ties = s.ties ∧
    (joinStation s).pending = s.pending := by
  simp only [joinStation]; (repeat' split) <;> simp

@[simp] theorem beginLeaving_frame (s : State) :
    (beginLeaving s).clock = s.clock ∧ (beginLeaving s).pledge = s.pledge ∧ (beginLeaving s).view = s.view ∧
    (beginLeaving s).freq = s.freq ∧ (beginLeaving s).ties = s.ties ∧ (beginLeaving s).pending = s.pending := by
  simp [beginLeaving]

@[simp] theorem clearSuspension_frame (s : State) :
    (clearSuspension s).clock = s.clock ∧ (clearSuspension s).view = s.view ∧ (clearSuspension s).freq = s.freq ∧
    (clearSuspension s).ties = s.ties ∧ (clearSuspension s).pending = s.pending := by
  simp only [clearSuspension]; (repeat' split) <;> simp

@[simp] theorem reachStaleLimit_frame (s : State) :
    (reachStaleLimit s).clock = s.clock ∧ (reachStaleLimit s).table = s.table ∧ (reachStaleLimit s).line = s.line ∧
    (reachStaleLimit s).view = s.view ∧ (reachStaleLimit s).entryTakesDue = s.entryTakesDue ∧
    (reachStaleLimit s).freq = s.freq ∧ (reachStaleLimit s).act = s.act ∧ (reachStaleLimit s).mon = s.mon ∧
    (reachStaleLimit s).ties = s.ties ∧ (reachStaleLimit s).pending = s.pending := by
  simp only [reachStaleLimit]; (repeat' split) <;> simp

@[simp] theorem crossingFrom_frame (s : State) (reference count : Nat) :
    (crossingFrom reference count s).ctrl = s.ctrl ∧ (crossingFrom reference count s).clock = s.clock ∧
    (crossingFrom reference count s).table = s.table ∧ (crossingFrom reference count s).pledge = s.pledge ∧
    (crossingFrom reference count s).line = s.line ∧ (crossingFrom reference count s).view = s.view ∧
    (crossingFrom reference count s).entryTakesDue = s.entryTakesDue ∧
    (crossingFrom reference count s).ties = s.ties ∧ (crossingFrom reference count s).pending = s.pending := by
  simp only [crossingFrom]; (repeat' split) <;> simp

@[simp] theorem loseFeedback_frame (s : State) :
    (loseFeedback s).clock = s.clock ∧ (loseFeedback s).pledge = s.pledge ∧ (loseFeedback s).view = s.view ∧
    (loseFeedback s).freq = s.freq ∧ (loseFeedback s).ties = s.ties ∧ (loseFeedback s).pending = s.pending := by
  simp [loseFeedback]

@[simp] theorem accumulateDelivered_frame (s : State) (x : Int) :
    (accumulateDelivered x s).ctrl = s.ctrl ∧ (accumulateDelivered x s).clock = s.clock ∧
    (accumulateDelivered x s).table = s.table ∧ (accumulateDelivered x s).line = s.line ∧
    (accumulateDelivered x s).view = s.view ∧ (accumulateDelivered x s).entryTakesDue = s.entryTakesDue ∧
    (accumulateDelivered x s).freq = s.freq ∧ (accumulateDelivered x s).act = s.act ∧
    (accumulateDelivered x s).mon = s.mon ∧ (accumulateDelivered x s).host = s.host ∧
    (accumulateDelivered x s).ties = s.ties ∧ (accumulateDelivered x s).pending = s.pending := by
  simp [accumulateDelivered]

@[simp] theorem endMeasurement_frame (s : State) :
    (endMeasurement s).ctrl = s.ctrl ∧ (endMeasurement s).clock = s.clock ∧ (endMeasurement s).line = s.line ∧
    (endMeasurement s).view = s.view ∧ (endMeasurement s).entryTakesDue = s.entryTakesDue ∧
    (endMeasurement s).freq = s.freq ∧ (endMeasurement s).act = s.act ∧ (endMeasurement s).host = s.host ∧
    (endMeasurement s).ties = s.ties ∧ (endMeasurement s).pending = s.pending := by
  simp [endMeasurement]

@[simp] theorem startJudging_frame (s : State) :
    (startJudging s).ctrl = s.ctrl ∧ (startJudging s).clock = s.clock ∧ (startJudging s).table = s.table ∧
    (startJudging s).pledge = s.pledge ∧ (startJudging s).line = s.line ∧ (startJudging s).view = s.view ∧
    (startJudging s).entryTakesDue = s.entryTakesDue ∧ (startJudging s).freq = s.freq ∧
    (startJudging s).act = s.act ∧ (startJudging s).host = s.host ∧ (startJudging s).ties = s.ties ∧
    (startJudging s).pending = s.pending := by
  simp [startJudging]

@[simp] theorem countVerdict_frame (s : State) (good : Bool) (meanD : Int) :
    (countVerdict good meanD s).ctrl = s.ctrl ∧ (countVerdict good meanD s).clock = s.clock ∧
    (countVerdict good meanD s).pledge = s.pledge ∧ (countVerdict good meanD s).line = s.line ∧
    (countVerdict good meanD s).view = s.view ∧ (countVerdict good meanD s).entryTakesDue = s.entryTakesDue ∧
    (countVerdict good meanD s).freq = s.freq ∧ (countVerdict good meanD s).act = s.act ∧
    (countVerdict good meanD s).mon = s.mon ∧ (countVerdict good meanD s).host = s.host ∧
    (countVerdict good meanD s).ties = s.ties ∧ (countVerdict good meanD s).pending = s.pending := by
  simp only [countVerdict]; (repeat' split) <;> simp

@[simp] theorem goodVerdict_frame (s : State) :
    (goodVerdict s).ctrl = s.ctrl ∧ (goodVerdict s).clock = s.clock ∧ (goodVerdict s).table = s.table ∧
    (goodVerdict s).line = s.line ∧ (goodVerdict s).view = s.view ∧
    (goodVerdict s).entryTakesDue = s.entryTakesDue ∧ (goodVerdict s).freq = s.freq ∧ (goodVerdict s).act = s.act ∧
    (goodVerdict s).host = s.host ∧ (goodVerdict s).ties = s.ties ∧ (goodVerdict s).pending = s.pending := by
  simp only [goodVerdict]; (repeat' split) <;> simp

@[simp] theorem badVerdict_frame (s : State) :
    (badVerdict s).clock = s.clock ∧ (badVerdict s).view = s.view ∧ (badVerdict s).freq = s.freq ∧
    (badVerdict s).ties = s.ties ∧ (badVerdict s).pending = s.pending := by
  simp only [badVerdict]; (repeat' split) <;> simp

@[simp] theorem endJudgePeriod_frame (s : State) :
    (endJudgePeriod s).clock = s.clock ∧ (endJudgePeriod s).view = s.view ∧ (endJudgePeriod s).freq = s.freq ∧
    (endJudgePeriod s).ties = s.ties ∧ (endJudgePeriod s).pending = s.pending := by
  simp only [endJudgePeriod]; (repeat' split) <;> simp

@[simp] theorem replaceSecond_frame (s : State) (second : Nat) :
    (replaceSecond second s).ctrl = s.ctrl ∧ (replaceSecond second s).table = s.table ∧
    (replaceSecond second s).pledge = s.pledge ∧ (replaceSecond second s).line = s.line ∧
    (replaceSecond second s).view = s.view ∧ (replaceSecond second s).entryTakesDue = s.entryTakesDue ∧
    (replaceSecond second s).freq = s.freq ∧ (replaceSecond second s).act = s.act ∧
    (replaceSecond second s).mon = s.mon ∧ (replaceSecond second s).host = s.host ∧
    (replaceSecond second s).ties = s.ties ∧ (replaceSecond second s).pending = s.pending := by
  simp [replaceSecond]

@[simp] theorem beginMark_frame (s : State) (d second : Nat) :
    (beginMark d second s).ctrl = s.ctrl ∧ (beginMark d second s).table = s.table ∧
    (beginMark d second s).pledge = s.pledge ∧ (beginMark d second s).line = s.line ∧
    (beginMark d second s).view = s.view ∧ (beginMark d second s).entryTakesDue = s.entryTakesDue ∧
    (beginMark d second s).freq = s.freq ∧ (beginMark d second s).act = s.act ∧
    (beginMark d second s).mon = s.mon ∧ (beginMark d second s).host = s.host ∧
    (beginMark d second s).ties = s.ties ∧ (beginMark d second s).pending = s.pending := by
  simp [beginMark]

@[simp] theorem beginRebuild_frame (s : State) (b : MarkBody) :
    (beginRebuild b s).ctrl = s.ctrl ∧ (beginRebuild b s).table = s.table ∧ (beginRebuild b s).pledge = s.pledge ∧
    (beginRebuild b s).line = s.line ∧ (beginRebuild b s).view = s.view ∧
    (beginRebuild b s).entryTakesDue = s.entryTakesDue ∧ (beginRebuild b s).freq = s.freq ∧
    (beginRebuild b s).act = s.act ∧ (beginRebuild b s).mon = s.mon ∧ (beginRebuild b s).host = s.host ∧
    (beginRebuild b s).ties = s.ties ∧ (beginRebuild b s).pending = s.pending := by
  simp [beginRebuild]

@[simp] theorem acceptMark_frame (s : State) (b : MarkBody) :
    (acceptMark b s).ctrl = s.ctrl ∧ (acceptMark b s).entryTakesDue = s.entryTakesDue ∧
    (acceptMark b s).freq = s.freq ∧ (acceptMark b s).host = s.host ∧ (acceptMark b s).ties = s.ties ∧
    (acceptMark b s).pending = s.pending := by
  simp only [acceptMark]; (repeat' split) <;> simp

@[simp] theorem nextSecond_frame (s : State) :
    (nextSecond s).ctrl = s.ctrl ∧ (nextSecond s).table = s.table ∧ (nextSecond s).pledge = s.pledge ∧
    (nextSecond s).line = s.line ∧ (nextSecond s).view = s.view ∧ (nextSecond s).entryTakesDue = s.entryTakesDue ∧
    (nextSecond s).freq = s.freq ∧ (nextSecond s).act = s.act ∧ (nextSecond s).mon = s.mon ∧
    (nextSecond s).host = s.host ∧ (nextSecond s).ties = s.ties ∧ (nextSecond s).pending = s.pending := by
  simp [nextSecond]

@[simp] theorem performMarkBoundary_frame (s : State) (m : ForwardMark) :
    (performMarkBoundary m s).ctrl = s.ctrl ∧ (performMarkBoundary m s).entryTakesDue = s.entryTakesDue ∧
    (performMarkBoundary m s).freq = s.freq ∧ (performMarkBoundary m s).ties = s.ties ∧
    (performMarkBoundary m s).pending = s.pending := by
  simp only [performMarkBoundary]; (repeat' split) <;> simp

@[simp] theorem storeState_frame (s : State) (b : StateBody) :
    (storeState b s).clock = s.clock ∧ (storeState b s).table = s.table ∧ (storeState b s).line = s.line ∧
    (storeState b s).view = s.view ∧ (storeState b s).entryTakesDue = s.entryTakesDue ∧
    (storeState b s).freq = s.freq ∧ (storeState b s).act = s.act ∧ (storeState b s).mon = s.mon ∧
    (storeState b s).host = s.host ∧ (storeState b s).ties = s.ties ∧ (storeState b s).pending = s.pending := by
  simp [storeState]

@[simp] theorem storeBaseline_frame (s : State) (b : BaselineBody) :
    (storeBaseline b s).ctrl = s.ctrl ∧ (storeBaseline b s).clock = s.clock ∧ (storeBaseline b s).table = s.table ∧
    (storeBaseline b s).line = s.line ∧ (storeBaseline b s).view = s.view ∧
    (storeBaseline b s).entryTakesDue = s.entryTakesDue ∧ (storeBaseline b s).freq = s.freq ∧
    (storeBaseline b s).act = s.act ∧ (storeBaseline b s).mon = s.mon ∧ (storeBaseline b s).host = s.host ∧
    (storeBaseline b s).ties = s.ties ∧ (storeBaseline b s).pending = s.pending := by
  simp [storeBaseline]

@[simp] theorem storePrice_frame (s : State) (b : PriceBody) :
    (storePrice b s).ctrl = s.ctrl ∧ (storePrice b s).clock = s.clock ∧ (storePrice b s).table = s.table ∧
    (storePrice b s).line = s.line ∧ (storePrice b s).view = s.view ∧
    (storePrice b s).entryTakesDue = s.entryTakesDue ∧ (storePrice b s).freq = s.freq ∧
    (storePrice b s).act = s.act ∧ (storePrice b s).mon = s.mon ∧ (storePrice b s).host = s.host ∧
    (storePrice b s).ties = s.ties ∧ (storePrice b s).pending = s.pending := by
  simp [storePrice]

@[simp] theorem storeAvails_frame (s : State) (b : AvailabilityBody) :
    (storeAvails b s).ctrl = s.ctrl ∧ (storeAvails b s).clock = s.clock ∧ (storeAvails b s).table = s.table ∧
    (storeAvails b s).line = s.line ∧ (storeAvails b s).view = s.view ∧
    (storeAvails b s).entryTakesDue = s.entryTakesDue ∧ (storeAvails b s).freq = s.freq ∧
    (storeAvails b s).act = s.act ∧ (storeAvails b s).mon = s.mon ∧ (storeAvails b s).host = s.host ∧
    (storeAvails b s).ties = s.ties ∧ (storeAvails b s).pending = s.pending := by
  simp [storeAvails]

@[simp] theorem ownerWithdrawal_frame (s : State) (p q : PledgeEngine) (d : Direction) :
    (ownerWithdrawal p q d s).ctrl = s.ctrl ∧ (ownerWithdrawal p q d s).clock = s.clock ∧
    (ownerWithdrawal p q d s).pledge = s.pledge ∧ (ownerWithdrawal p q d s).view = s.view ∧
    (ownerWithdrawal p q d s).entryTakesDue = s.entryTakesDue ∧ (ownerWithdrawal p q d s).freq = s.freq ∧
    (ownerWithdrawal p q d s).ties = s.ties ∧ (ownerWithdrawal p q d s).pending = s.pending := by
  simp only [ownerWithdrawal]; (repeat' split) <;> simp

@[simp] theorem storeAvailability_frame (s : State) (b : AvailabilityBody) :
    (storeAvailability b s).ctrl = s.ctrl ∧ (storeAvailability b s).clock = s.clock ∧
    (storeAvailability b s).view = s.view ∧ (storeAvailability b s).entryTakesDue = s.entryTakesDue ∧
    (storeAvailability b s).freq = s.freq ∧ (storeAvailability b s).ties = s.ties ∧
    (storeAvailability b s).pending = s.pending := by
  simp only [storeAvailability]; (repeat' split) <;> simp

@[simp] theorem restartRefresh_frame (s : State) :
    (restartRefresh s).ctrl = s.ctrl ∧ (restartRefresh s).clock = s.clock ∧ (restartRefresh s).table = s.table ∧
    (restartRefresh s).line = s.line ∧ (restartRefresh s).view = s.view ∧
    (restartRefresh s).entryTakesDue = s.entryTakesDue ∧ (restartRefresh s).freq = s.freq ∧
    (restartRefresh s).act = s.act ∧ (restartRefresh s).mon = s.mon ∧ (restartRefresh s).host = s.host ∧
    (restartRefresh s).ties = s.ties ∧ (restartRefresh s).pending = s.pending := by
  simp [restartRefresh]

@[simp] theorem clearFlags_frame (s : State) (m : Word) :
    (clearFlags m s).ctrl = s.ctrl ∧ (clearFlags m s).clock = s.clock ∧ (clearFlags m s).table = s.table ∧
    (clearFlags m s).pledge = s.pledge ∧ (clearFlags m s).line = s.line ∧ (clearFlags m s).view = s.view ∧
    (clearFlags m s).entryTakesDue = s.entryTakesDue ∧ (clearFlags m s).freq = s.freq ∧
    (clearFlags m s).act = s.act ∧ (clearFlags m s).mon = s.mon ∧ (clearFlags m s).ties = s.ties ∧
    (clearFlags m s).pending = s.pending := by
  simp [clearFlags]

@[simp] theorem storeMask_frame (s : State) (m : Word) :
    (storeMask m s).ctrl = s.ctrl ∧ (storeMask m s).clock = s.clock ∧ (storeMask m s).table = s.table ∧
    (storeMask m s).pledge = s.pledge ∧ (storeMask m s).line = s.line ∧ (storeMask m s).view = s.view ∧
    (storeMask m s).entryTakesDue = s.entryTakesDue ∧ (storeMask m s).freq = s.freq ∧ (storeMask m s).act = s.act ∧
    (storeMask m s).mon = s.mon ∧ (storeMask m s).ties = s.ties ∧ (storeMask m s).pending = s.pending := by
  simp [storeMask]

@[simp] theorem noteSent_frame (s : State) (k : NoticeKey) :
    (noteSent k s).ctrl = s.ctrl ∧ (noteSent k s).clock = s.clock ∧ (noteSent k s).pledge = s.pledge ∧
    (noteSent k s).line = s.line ∧ (noteSent k s).view = s.view ∧ (noteSent k s).entryTakesDue = s.entryTakesDue ∧
    (noteSent k s).freq = s.freq ∧ (noteSent k s).act = s.act ∧ (noteSent k s).mon = s.mon ∧
    (noteSent k s).host = s.host ∧ (noteSent k s).ties = s.ties ∧ (noteSent k s).pending = s.pending := by
  simp only [noteSent]; (repeat' split) <;> simp

@[simp] theorem startSending_frame (s : State) (e : QEntry) (rest : List QEntry) (b : NoticeBody) :
    (startSending e rest b s).ctrl = s.ctrl ∧ (startSending e rest b s).clock = s.clock ∧
    (startSending e rest b s).pledge = s.pledge ∧ (startSending e rest b s).view = s.view ∧
    (startSending e rest b s).entryTakesDue = s.entryTakesDue ∧ (startSending e rest b s).freq = s.freq ∧
    (startSending e rest b s).act = s.act ∧ (startSending e rest b s).mon = s.mon ∧
    (startSending e rest b s).host = s.host ∧ (startSending e rest b s).ties = s.ties ∧
    (startSending e rest b s).pending = s.pending := by
  simp [startSending]

@[simp] theorem completeRun_frame (s : State) :
    (completeRun s).ctrl = s.ctrl ∧ (completeRun s).clock = s.clock ∧ (completeRun s).pledge = s.pledge ∧
    (completeRun s).view = s.view ∧ (completeRun s).entryTakesDue = s.entryTakesDue ∧
    (completeRun s).freq = s.freq ∧ (completeRun s).act = s.act ∧ (completeRun s).mon = s.mon ∧
    (completeRun s).host = s.host ∧ (completeRun s).ties = s.ties ∧ (completeRun s).pending = s.pending := by
  simp only [completeRun]; (repeat' split) <;> simp

@[simp] theorem endTransmission_frame (s : State) :
    (endTransmission s).clock = s.clock ∧ (endTransmission s).freq = s.freq ∧ (endTransmission s).ties = s.ties ∧
    (endTransmission s).pending = s.pending := by
  simp only [endTransmission]; (repeat' split) <;> simp

@[simp] theorem countBad_frame (s : State) :
    (countBad s).ctrl = s.ctrl ∧ (countBad s).clock = s.clock ∧ (countBad s).table = s.table ∧
    (countBad s).pledge = s.pledge ∧ (countBad s).view = s.view ∧ (countBad s).entryTakesDue = s.entryTakesDue ∧
    (countBad s).freq = s.freq ∧ (countBad s).act = s.act ∧ (countBad s).mon = s.mon ∧ (countBad s).host = s.host ∧
    (countBad s).ties = s.ties ∧ (countBad s).pending = s.pending := by
  simp [countBad]

@[simp] theorem placeFrame_frame (s : State) (n : Notice) :
    (placeFrame n s).ctrl = s.ctrl ∧ (placeFrame n s).clock = s.clock ∧ (placeFrame n s).table = s.table ∧
    (placeFrame n s).pledge = s.pledge ∧ (placeFrame n s).view = s.view ∧
    (placeFrame n s).entryTakesDue = s.entryTakesDue ∧ (placeFrame n s).freq = s.freq ∧
    (placeFrame n s).act = s.act ∧ (placeFrame n s).mon = s.mon ∧ (placeFrame n s).ties = s.ties ∧
    (placeFrame n s).pending = s.pending := by
  simp only [placeFrame]; (repeat' split) <;> simp

@[simp] theorem takeGoodFrame_frame (s : State) (n : Notice) :
    (takeGoodFrame n s).ctrl = s.ctrl ∧ (takeGoodFrame n s).clock = s.clock ∧ (takeGoodFrame n s).table = s.table ∧
    (takeGoodFrame n s).pledge = s.pledge ∧ (takeGoodFrame n s).view = s.view ∧
    (takeGoodFrame n s).entryTakesDue = s.entryTakesDue ∧ (takeGoodFrame n s).freq = s.freq ∧
    (takeGoodFrame n s).act = s.act ∧ (takeGoodFrame n s).mon = s.mon ∧ (takeGoodFrame n s).ties = s.ties ∧
    (takeGoodFrame n s).pending = s.pending := by
  simp only [takeGoodFrame]; (repeat' split) <;> simp

@[simp] theorem closeFrame_frame (s : State) (bytes : List Byte) :
    (closeFrame bytes s).ctrl = s.ctrl ∧ (closeFrame bytes s).clock = s.clock ∧
    (closeFrame bytes s).table = s.table ∧ (closeFrame bytes s).pledge = s.pledge ∧
    (closeFrame bytes s).view = s.view ∧ (closeFrame bytes s).entryTakesDue = s.entryTakesDue ∧
    (closeFrame bytes s).freq = s.freq ∧ (closeFrame bytes s).act = s.act ∧ (closeFrame bytes s).mon = s.mon ∧
    (closeFrame bytes s).ties = s.ties ∧ (closeFrame bytes s).pending = s.pending := by
  simp only [closeFrame]; (repeat' split) <;> simp

@[simp] theorem dropFront_frame (s : State) :
    (dropFront s).ctrl = s.ctrl ∧ (dropFront s).clock = s.clock ∧ (dropFront s).table = s.table ∧
    (dropFront s).pledge = s.pledge ∧ (dropFront s).view = s.view ∧ (dropFront s).entryTakesDue = s.entryTakesDue ∧
    (dropFront s).freq = s.freq ∧ (dropFront s).act = s.act ∧ (dropFront s).mon = s.mon ∧
    (dropFront s).host = s.host ∧ (dropFront s).ties = s.ties ∧ (dropFront s).pending = s.pending := by
  simp [dropFront]

@[simp] theorem takeFrame_frame (s : State) (n : Notice) (body : Peer → Peer × Report) :
    (takeFrame n body s).ctrl = s.ctrl ∧ (takeFrame n body s).clock = s.clock ∧
    (takeFrame n body s).pledge = s.pledge ∧ (takeFrame n body s).entryTakesDue = s.entryTakesDue ∧
    (takeFrame n body s).freq = s.freq ∧ (takeFrame n body s).ties = s.ties ∧
    (takeFrame n body s).pending = s.pending := by
  simp only [takeFrame]; (repeat' split) <;> simp

@[simp] theorem makeStale_frame (s : State) (id : Nat) (p : Peer) :
    (makeStale id p s).ctrl = s.ctrl ∧ (makeStale id p s).clock = s.clock ∧ (makeStale id p s).pledge = s.pledge ∧
    (makeStale id p s).entryTakesDue = s.entryTakesDue ∧ (makeStale id p s).freq = s.freq ∧
    (makeStale id p s).ties = s.ties ∧ (makeStale id p s).pending = s.pending := by
  simp only [makeStale]; (repeat' split) <;> simp

@[simp] theorem removePeer_frame (s : State) (id : Nat) (p : Peer) :
    (removePeer id p s).ctrl = s.ctrl ∧ (removePeer id p s).clock = s.clock ∧
    (removePeer id p s).pledge = s.pledge ∧ (removePeer id p s).entryTakesDue = s.entryTakesDue ∧
    (removePeer id p s).freq = s.freq ∧ (removePeer id p s).ties = s.ties ∧ (removePeer id p s).pending = s.pending := by
  simp [removePeer]

@[simp] theorem expireHold_frame (s : State) (k : Word) (d : Direction) (b : Bool) :
    (expireHold k d b s).ctrl = s.ctrl ∧ (expireHold k d b s).clock = s.clock ∧
    (expireHold k d b s).pledge = s.pledge ∧ (expireHold k d b s).view = s.view ∧
    (expireHold k d b s).entryTakesDue = s.entryTakesDue ∧ (expireHold k d b s).freq = s.freq ∧
    (expireHold k d b s).ties = s.ties ∧ (expireHold k d b s).pending = s.pending := by
  simp only [expireHold]; (repeat' split) <;> simp

end Sys2Proof.Machine
end

