-- ==== Sys2Proof/Laws/Host.lean ====
section
/-! SUPPORT. What a host command's transaction does, once for all commands. -/

namespace Sys2Proof.Machine

/-- Only the Host Link changes where only the answers do. -/
@[simp] theorem answeredOnly_frame (s : State) (n : Nat) (a : Answer) :
    (answeredOnly n a s).ctrl = s.ctrl ∧ (answeredOnly n a s).clock = s.clock ∧
    (answeredOnly n a s).table = s.table ∧ (answeredOnly n a s).pledge = s.pledge ∧
    (answeredOnly n a s).line = s.line ∧ (answeredOnly n a s).view = s.view ∧
    (answeredOnly n a s).entryTakesDue = s.entryTakesDue ∧ (answeredOnly n a s).freq = s.freq ∧
    (answeredOnly n a s).act = s.act ∧ (answeredOnly n a s).mon = s.mon ∧ (answeredOnly n a s).ties = s.ties ∧
    (answeredOnly n a s).pending = s.pending := by
  simp [answeredOnly]

/-- A command that leaves the state as its transaction finds it changes nothing but the answers. -/
@[simp] theorem holdAnswer_clockOut (n : Nat) (a : Answer) (s : State) :
    holdAnswer a (clockOut n s) = answeredOnly n a s := rfl

/-- A command whose body stands, outside LEAVING or in the set that R9 accepts, is served on the state after its
transaction. -/
theorem hostCommand_served {α : Type} (n : Nat) (b : α) (inLeaving : Bool) (serve : α → State → State × Answer)
    (s : State) (h : s.ctrl.station ≠ .leaving ∨ inLeaving = true) :
    hostCommand ⟨n, some b⟩ inLeaving serve s =
      holdAnswer (serve b (clockOut n s)).2 (serve b (clockOut n s)).1 := by
  rcases h with h | h <;> simp [hostCommand, h]

/-- In LEAVING a command outside the set is refused. -/
theorem hostCommand_leaving {α : Type} (n : Nat) (b : α) (serve : α → State → State × Answer) (s : State)
    (h : s.ctrl.station = .leaving) :
    hostCommand ⟨n, some b⟩ false serve s = answeredOnly n (plain .refusedState) s := by
  simp [hostCommand, h]

/-- A command whose body has a wrong length is refused. -/
@[simp] theorem hostCommand_wrongLength {α : Type} (n : Nat) (inLeaving : Bool)
    (serve : α → State → State × Answer) (s : State) :
    hostCommand ⟨n, none⟩ inLeaving serve s = answeredOnly n (plain .refusedRange) s := rfl

/-- A transaction hands over what it held and leaves every event, mask and record of the log as it is. -/
@[simp] theorem clockOut_host (n : Nat) (s : State) :
    (clockOut n s).host.flags = s.host.flags ∧ (clockOut n s).host.again = s.host.again ∧
    (clockOut n s).host.mask = s.host.mask ∧ (clockOut n s).host.log = s.host.log ∧
    (clockOut n s).host.sdo = shiftOut s.host.held n := by
  simp [clockOut]

/-- Holding an answer leaves every event, mask, record and shifted byte as it is. -/
@[simp] theorem holdAnswer_host (a : Answer) (s : State) :
    (holdAnswer a s).host.flags = s.host.flags ∧ (holdAnswer a s).host.again = s.host.again ∧
    (holdAnswer a s).host.mask = s.host.mask ∧ (holdAnswer a s).host.log = s.host.log ∧
    (holdAnswer a s).host.sdo = s.host.sdo ∧ (holdAnswer a s).host.held = some a := by
  simp [holdAnswer]

/-- What a served command answers is held. -/
@[simp] theorem hostCommand_frame_pending {α : Type} (t : Transaction α) (inLeaving : Bool)
    (serve : α → State → State × Answer) (s : State)
    (h : ∀ b x, (serve b x).1.pending = x.pending) :
    (hostCommand t inLeaving serve s).pending = s.pending := by
  simp only [hostCommand]
  split
  · simp
  · split
    · simp
    · simp [h]

end Sys2Proof.Machine
end

