-- ==== Sys2Proof/Laws/Ops.lean ====
section
/-! SUPPORT. What the shared operations over bytes, numbers, intervals, records and events can do, one lemma for each. -/

namespace Sys2Proof.Machine

/-! ### Byte order -/

/-- Two bytes give back the word they were taken from. -/
@[simp] theorem u16_be16 (w : Word) : u16 (w.extractLsb' 8 8) (w.extractLsb' 0 8) = w := by
  apply BitVec.eq_of_getLsbD_eq
  intro i hi
  simp only [u16, BitVec.getLsbD_append, BitVec.getLsbD_extractLsb']
  rcases Nat.lt_or_ge i 8 with h | h
  · simp [h]
  · simp [Nat.not_lt.mpr h, show i - 8 < 8 by omega, show 8 + (i - 8) = i by omega]

/-- Four bytes give back the value they were taken from. -/
@[simp] theorem u32_be32 (v : BitVec 32) :
    u32 (v.extractLsb' 24 8) (v.extractLsb' 16 8) (v.extractLsb' 8 8) (v.extractLsb' 0 8) = v := by
  apply BitVec.eq_of_getLsbD_eq
  intro i hi
  simp only [u32, u16, BitVec.getLsbD_append, BitVec.getLsbD_extractLsb']
  rcases Nat.lt_or_ge i 8 with h | h
  · simp [h, show i < 16 by omega]
  · rcases Nat.lt_or_ge i 16 with h2 | h2
    · simp [Nat.not_lt.mpr h, h2, show i - 8 < 8 by omega, show 8 + (i - 8) = i by omega]
    · rcases Nat.lt_or_ge i 24 with h3 | h3
      · simp [Nat.not_lt.mpr h2, show i - 16 < 8 by omega, show 16 + (i - 16) = i by omega]
      · simp [Nat.not_lt.mpr h2, show ¬ i - 16 < 8 by omega, show i - 16 - 8 < 8 by omega,
          show 24 + (i - 16 - 8) = i by omega]

/-! ### Rounding -/

/-- A clamped value lies within its bounds. -/
theorem clampInt_bounds {lo hi : Int} (x : Int) (h : lo ≤ hi) : lo ≤ clampInt lo hi x ∧ clampInt lo hi x ≤ hi := by
  unfold clampInt; omega

/-- A value within the bounds is left as it is. -/
theorem clampInt_of_mem {lo hi x : Int} (h1 : lo ≤ x) (h2 : x ≤ hi) : clampInt lo hi x = x := by
  unfold clampInt; omega

/-- The rounded quotient lies within half a unit of the exact one. -/
theorem roundDiv_near (a : Int) {b : Nat} (h : 0 < b) :
    2 * roundDiv a b * b ≤ 2 * a + b ∧ 2 * a - b ≤ 2 * roundDiv a b * b := by
  have hdiv := Nat.div_add_mod (2 * a.natAbs + b) (2 * b)
  have hmod := Nat.mod_lt (2 * a.natAbs + b) (show 0 < 2 * b by omega)
  generalize hq : (2 * a.natAbs + b) / (2 * b) = q at hdiv
  generalize (2 * a.natAbs + b) % (2 * b) = r at hdiv hmod
  have hz : 2 * (b : Int) * q + r = 2 * (a.natAbs : Int) + b := by exact_mod_cast hdiv
  have hm : (r : Int) < 2 * b := by exact_mod_cast hmod
  unfold roundDiv
  rw [hq]
  split
  · have : (a.natAbs : Int) = a := by omega
    constructor <;> nlinarith
  · have : (a.natAbs : Int) = -a := by omega
    constructor <;> nlinarith

/-! ### Intervals and slots -/

/-- The slot of an interval of the horizon. -/
@[simp] theorem slotOf_atSlot (first : Word) (j : Nat) (h : j < 65536) : slotOf first (atSlot first j) = j := by
  simp [slotOf, atSlot, Nat.mod_eq_of_lt h]

/-- An interval stands at its own slot. -/
@[simp] theorem atSlot_slotOf (first k : Word) : atSlot first (slotOf first k) = k := by
  simp only [slotOf, atSlot, BitVec.ofNat_toNat, BitVec.setWidth_eq]
  bv_omega

/-- The first interval is in its horizon. -/
@[simp] theorem inHorizon_self (k : Word) : inHorizon k k = true := by simp [inHorizon, slotOf]

/-- The pairs of a horizon are those of its eight intervals and both directions. -/
theorem mem_horizonPairs (first k : Word) (d : Direction) : (k, d) ∈ horizonPairs first ↔ inHorizon first k = true := by
  simp only [horizonPairs, List.mem_flatMap, List.mem_range, inHorizon, decide_eq_true_eq]
  constructor
  · rintro ⟨j, hj, hm⟩
    have : k = atSlot first j := by
      simp only [List.mem_cons, Prod.mk.injEq, List.not_mem_nil, or_false] at hm
      rcases hm with h | h <;> exact h.1
    rw [this, slotOf_atSlot _ _ (by omega)]
    exact hj
  · intro h
    refine ⟨slotOf first k, h, ?_⟩
    cases d <;> simp

/-- A horizon has 16 pairs. -/
@[simp] theorem horizonPairs_length (first : Word) : (horizonPairs first).length = 16 := rfl

/-- No pair stands twice in a horizon. -/
theorem horizonPairs_nodup (first : Word) : (horizonPairs first).Nodup := by
  refine List.nodup_flatMap.mpr ⟨fun j _ => by simp, ?_⟩
  refine List.Pairwise.imp_of_mem ?_ List.nodup_range
  intro i j hi hj hne
  have hij : atSlot first i ≠ atSlot first j := by
    intro h
    have := congrArg (slotOf first) h
    rw [slotOf_atSlot _ _ (by have := List.mem_range.mp hi; omega),
      slotOf_atSlot _ _ (by have := List.mem_range.mp hj; omega)] at this
    exact hne this
  simp [Function.onFun, hij, Ne.symm hij]

/-! ### Commitment records -/

/-- The record found is in the table and has the key asked for. -/
theorem findRec_some {table : List CRecord} {k : Word} {d : Direction} {r : CRecord} (h : findRec table k d = some r) :
    r ∈ table ∧ r.interval = k ∧ r.dir = d := by
  refine ⟨List.mem_of_find?_eq_some h, ?_⟩
  simpa [CRecord.is] using List.find?_some h

/-- A record is found exactly for the keys of the table. -/
theorem findRec_isSome (table : List CRecord) (k : Word) (d : Direction) :
    (findRec table k d).isSome = true ↔ (k, d) ∈ recordKeys table := by
  simp [findRec, recordKeys, CRecord.is, List.find?_isSome]

/-- A rewrite that keeps the keys of the records keeps the keys of the table. -/
theorem recordKeys_mapRec (k : Word) (d : Direction) (f : CRecord → CRecord) (table : List CRecord)
    (h : ∀ r, (f r).interval = r.interval ∧ (f r).dir = r.dir) : recordKeys (mapRec k d f table) = recordKeys table := by
  simp only [recordKeys, mapRec, List.map_map]
  refine List.map_congr_left fun r _ => ?_
  by_cases hr : r.is k d <;> simp [hr, h]

/-- The rewritten record is found under its key. -/
theorem findRec_mapRec_self (k : Word) (d : Direction) (f : CRecord → CRecord) (table : List CRecord)
    (h : ∀ r, (f r).interval = r.interval ∧ (f r).dir = r.dir) :
    findRec (mapRec k d f table) k d = (findRec table k d).map f := by
  induction table with
  | nil => rfl
  | cons r rest ih =>
    simp only [findRec, mapRec, List.map_cons, List.find?_cons] at ih ⊢
    by_cases hr : r.is k d = true
    · have : (f r).is k d = true := by simpa [CRecord.is, h] using hr
      simp [hr, this]
    · have hr : r.is k d = false := by simpa using hr
      simp only [hr, Bool.false_eq_true, if_false]
      exact ih

/-- Every other key finds the record it found before. -/
theorem findRec_mapRec_of_ne (k k' : Word) (d d' : Direction) (f : CRecord → CRecord) (table : List CRecord)
    (h : ∀ r, (f r).interval = r.interval ∧ (f r).dir = r.dir) (hne : (k', d') ≠ (k, d)) :
    findRec (mapRec k d f table) k' d' = findRec table k' d' := by
  induction table with
  | nil => rfl
  | cons r rest ih =>
    simp only [findRec, mapRec, List.map_cons, List.find?_cons] at ih ⊢
    by_cases hr : r.is k d = true
    · have h1 : r.is k' d' = false := by
        simp only [CRecord.is, Bool.and_eq_true, beq_iff_eq] at hr
        simp only [CRecord.is, hr.1, hr.2]
        by_cases hk : k = k'
        · by_cases hd : d = d'
          · exact absurd (by rw [hk, hd]) hne
          · simp [hd]
        · simp [hk]
      have h2 : (f r).is k' d' = false := by simpa [CRecord.is, h] using h1
      simp only [hr, h1, h2, if_true]
      exact ih
    · simp only [hr]
      cases hr' : r.is k' d' <;> simp_all

/-- An own take is written; cap, frozen pledge, state, award and key stand. -/
@[simp] theorem withTake_fields (r : CRecord) (t : Nat) :
    (r.withTake t).take = t ∧ (r.withTake t).cap = r.cap ∧ (r.withTake t).frozen = r.frozen ∧
    (r.withTake t).frozenBand = r.frozenBand ∧ (r.withTake t).live = r.live ∧ (r.withTake t).state = r.state ∧
    (r.withTake t).award = r.award ∧ (r.withTake t).hold = r.hold ∧ (r.withTake t).evalPending = r.evalPending ∧
    (r.withTake t).interval = r.interval ∧ (r.withTake t).dir = r.dir ∧ (r.withTake t).withdrawn = r.withdrawn ∧
    (r.withTake t).lastSent = r.lastSent := by
  simp [CRecord.withTake]

/-- A withdrawn record: an OPEN one has live pledge 0, another cap and take 0; both their flag; the rest stands. -/
@[simp] theorem withdraw_fields (r : CRecord) (q : Reason) :
    ((r.withdraw q).state = r.state ∧ (r.withdraw q).frozen = r.frozen ∧ (r.withdraw q).frozenBand = r.frozenBand ∧
    (r.withdraw q).award = r.award ∧ (r.withdraw q).interval = r.interval ∧ (r.withdraw q).dir = r.dir ∧
    (r.withdraw q).hold = r.hold ∧ (r.withdraw q).evalPending = r.evalPending ∧
    (r.withdraw q).lastSent = r.lastSent ∧ (r.withdraw q).withdrawn.isSome = true) ∧
    (r.state = .opened → (r.withdraw q).live = some 0 ∧ (r.withdraw q).cap = r.cap ∧ (r.withdraw q).take = r.take) ∧
    (r.state ≠ .opened → (r.withdraw q).cap = some 0 ∧ (r.withdraw q).take = 0 ∧ (r.withdraw q).live = r.live) := by
  by_cases h : r.state = .opened <;> simp [CRecord.withdraw, h]

/-- A record frozen at a pledge. -/
@[simp] theorem freeze_fields (r : CRecord) (st : RecordState) (p b : Nat) :
    (r.freeze st p b).state = st ∧ (r.freeze st p b).live = none ∧ (r.freeze st p b).frozen = some p ∧
    (r.freeze st p b).cap = some p ∧ (r.freeze st p b).frozenBand = some b ∧ (r.freeze st p b).take = r.take ∧
    (r.freeze st p b).award = r.award ∧ (r.freeze st p b).interval = r.interval ∧ (r.freeze st p b).dir = r.dir := by
  simp [CRecord.freeze]

/-- A lowered cap: the lower of the cap and the pledge; the take is the lower of the take and the new cap. -/
@[simp] theorem lowerCap_fields (r : CRecord) (x : Nat) :
    (r.lowerCap x).cap = some (min (r.cap.getD 0) x) ∧ (r.lowerCap x).take = min r.take (min (r.cap.getD 0) x) ∧
    (r.lowerCap x).state = r.state ∧ (r.lowerCap x).frozen = r.frozen ∧ (r.lowerCap x).frozenBand = r.frozenBand ∧
    (r.lowerCap x).live = r.live ∧ (r.lowerCap x).award = r.award ∧ (r.lowerCap x).interval = r.interval ∧
    (r.lowerCap x).dir = r.dir ∧ (r.lowerCap x).hold = r.hold ∧ (r.lowerCap x).evalPending = r.evalPending := by
  simp only [CRecord.lowerCap]
  split <;> simp <;> omega

/-! ### Events -/

/-- The word of an event has its bit alone. -/
theorem event_word_getLsbD (e : Event) (i : Nat) : e.word.getLsbD i = decide (i = e.bit) := by
  have he : e.bit < 16 := by cases e <;> decide
  simp only [Event.word, BitVec.getLsbD_shiftLeft]
  rcases Nat.lt_trichotomy i e.bit with h | h | h
  · simp [h, Nat.ne_of_lt h]
  · subst h; simp [he]
  · have : i - e.bit ≠ 0 := by omega
    simp [Nat.ne_of_gt h, BitVec.getLsbD_one, this]

/-- A raised event has its flag set. -/
@[simp] theorem flagSet_raiseEvent (e : Event) (s : State) : flagSet e (raiseEvent e s) = true := by
  unfold raiseEvent
  split
  · next h => exact h
  · simp [flagSet, event_word_getLsbD]

/-- A raised event clears no flag. -/
theorem flagSet_raiseEvent_of (e f : Event) (s : State) (h : flagSet f s = true) : flagSet f (raiseEvent e s) = true := by
  unfold raiseEvent
  split <;> simp_all [flagSet]

/-! ### The Settlement Log -/

/-- The log keeps its bound and ends with the record added. -/
theorem addSettlement_log (x : Settlement) (s : State) (h : s.host.log.length ≤ Config.logLimit) :
    (addSettlement x s).host.log.length ≤ Config.logLimit ∧ (addSettlement x s).host.log.getLast? = some x := by
  have hr : ∀ e (u : State), (raiseEvent e u).host.log = u.host.log := by
    intro e u; unfold raiseEvent; split <;> rfl
  have hw : ∀ b e (u : State), (raiseWhen b e u).host.log = u.host.log := by
    intro b e u; unfold raiseWhen; split <;> simp [hr]
  simp only [addSettlement, hr, hw, State.setHost]
  refine ⟨?_, by simp⟩
  simp only [Config.logLimit] at *
  by_cases hf : 32 ≤ s.host.log.length <;> simp [hf] <;> omega

/-! ### Activation -/

/-- A recomputation leaves the level, direction, D and duty that the inputs of the moment give. -/
theorem recompute_activation (s : State) : ActivationLaw (recompute s) := by
  have key : ∀ u : State, u.ctrl = s.ctrl → u.table = s.table → u.act.heldFreq = s.act.heldFreq →
      u.act.heldState = s.act.heldState → u.act.phase = s.act.phase →
      formedLevel u = formedLevel s ∧ formedDelta u = formedDelta s ∧ formedDuty u = formedDuty s := by
    intro u hc ht hf hs hp
    have h1 : formedLevel u = formedLevel s := by simp [formedLevel, isActive, hc, hf, hs, hp]
    have h2 : formedDelta u = formedDelta s := by simp [formedDelta, h1, ht]
    exact ⟨h1, h2, by simp [formedDuty, h2, hc]⟩
  have keep : ∀ x (u : State), (handOverDelta x u).ctrl = u.ctrl ∧ (handOverDelta x u).table = u.table ∧
      (handOverDelta x u).act = u.act := by
    intro x u
    unfold handOverDelta startSettling
    dsimp only
    split <;> simp [State.setMon]
  let u := s.setAct { s.act with
    level := (formedLevel s).1, dir := (formedLevel s).2, delta := formedDelta s, duty := formedDuty s }
  have law : ∀ w : State, w.ctrl = u.ctrl → w.table = u.table → w.act = u.act → ActivationLaw w := by
    intro w hc ht ha
    obtain ⟨h1, h2, h3⟩ := key w hc ht (by rw [ha]; rfl) (by rw [ha]; rfl) (by rw [ha]; rfl)
    unfold ActivationLaw
    rw [h1, h2, h3, ha]
    exact ⟨rfl, rfl, rfl, rfl⟩
  change ActivationLaw (if formedDelta s = s.act.delta then u else handOverDelta (formedDelta s) u)
  split
  · exact law u rfl rfl rfl
  · exact law _ (keep _ u).1 (keep _ u).2.1 (keep _ u).2.2

/-- A direction is withheld exactly where it is RAISE and no energy position has been given (R36). -/
theorem withheld_iff (p : PledgeEngine) (d : Direction) : withheld p d = true ↔ d = .raise ∧ p.positioned = false := by
  cases d <;> simp [withheld]

/-- A withheld direction offers nothing (R36). -/
theorem rawPledge_of_withheld (cfg : StationConfig) (p : PledgeEngine) (c : Computation) (j : Nat) (d : Direction)
    (isOpen : Bool) (h : withheld p d = true) : rawPledge cfg p c j d isOpen = 0 := by
  simp [rawPledge, h]

end Sys2Proof.Machine
end

