-- ==== Sys2Proof/Laws/Line.lean ====
section
/-! SUPPORT. What the operations of the Transmit Queue can do (R62, R70 to R74). -/

namespace Sys2Proof.Machine

/-- The keys of a queue's entries. -/
def queueKeys (q : List QEntry) : List NoticeKey := q.map (·.key)

/-- A new idle run rewrites the draw of the head and nothing else of the queue; the transmitter's state stands. -/
@[simp] theorem beginRun_queue (l : LineInterface) :
    queueKeys (beginRun l).queue = queueKeys l.queue ∧ (beginRun l).queue.map (·.inFlight) = l.queue.map (·.inFlight) ∧
    (beginRun l).queue.tail = l.queue.tail ∧ (beginRun l).queue.length = l.queue.length ∧
    (beginRun l).tx = l.tx := by
  rcases h : l.queue with _ | ⟨e, rest⟩ <;> simp [beginRun, h, queueKeys]

/-- What the transmitter does with a changed queue leaves the entries but for the head's draw. -/
@[simp] theorem settleHead_queue (old : Option NoticeKey) (l : LineInterface) :
    queueKeys (settleHead old l).queue = queueKeys l.queue ∧
    (settleHead old l).queue.map (·.inFlight) = l.queue.map (·.inFlight) ∧
    (settleHead old l).queue.tail = l.queue.tail ∧ (settleHead old l).queue.length = l.queue.length := by
  unfold settleHead
  split <;> (try split) <;> (try split) <;> simp

/-- An entry that joins its group is added, and no other is lost. -/
theorem appendGroup_perm (e : QEntry) (q : List QEntry) : (appendGroup e q).Perm (e :: q) := by
  have hA : ∀ q : List QEntry,
      (q.filter (·.key.groupA) ++ e :: q.filter (!·.key.groupA)).Perm (e :: q) := fun q =>
    List.perm_middle.trans ((List.filter_append_perm (fun x : QEntry => x.key.groupA) q).cons e)
  have hB : ∀ q : List QEntry, (q ++ [e]).Perm (e :: q) := fun q => List.perm_append_singleton e q
  have hp : ∀ q : List QEntry, (if e.key.groupA = true then
      q.filter (·.key.groupA) ++ e :: q.filter (!·.key.groupA) else q ++ [e]).Perm (e :: q) := by
    intro q; split
    · exact hA q
    · exact hB q
  unfold appendGroup
  match q with
  | [] => exact List.Perm.refl _
  | h :: rest =>
    dsimp only
    split
    · exact ((hp rest).cons h).trans (List.Perm.swap e h rest)
    · exact hp (h :: rest)

/-- The entry an insert evicts stands in the queue. -/
theorem victim_mem {k v : NoticeKey} {q : List QEntry} (h : victim k q = some v) : v ∈ queueKeys q := by
  have hf : ∀ e, e ∈ q.filter (fun e => !e.inFlight && !e.key.groupA) → e.key ∈ queueKeys q := fun e he =>
    List.mem_map_of_mem (List.mem_filter.mp he).1
  have hp : ∀ v, ((q.filter fun e => !e.inFlight && !e.key.groupA).find? fun e => e.key == .pledge).map (·.key) = some v →
      v ∈ queueKeys q := by
    intro v hv
    obtain ⟨e, he, rfl⟩ := Option.map_eq_some_iff.mp hv
    exact hf e (List.mem_of_find?_eq_some he)
  have hl : ∀ v, ((q.filter fun e => !e.inFlight && !e.key.groupA).getLast?).map (·.key) = some v →
      v ∈ queueKeys q := by
    intro v hv
    obtain ⟨e, he, rfl⟩ := Option.map_eq_some_iff.mp hv
    exact hf e (List.mem_of_getLast? he)
  have ho : ∀ a b : Option NoticeKey, (a <|> b) = some v → a = some v ∨ b = some v := by
    intro a b h
    cases a with
    | none => exact .inr h
    | some x => exact .inl h
  unfold victim at h
  dsimp only at h
  cases k with
  | pledge => exact absurd h (by simp)
  | take k d => exact hp v h
  | award k d =>
    exact (ho _ _ h).elim (hp v) (hl v)
  | withdraw =>
    exact (ho _ _ h).elim (hp v) (hl v)

/-- Coalescing and renewing keep an entry's key and its in-flight mark. -/
@[simp] theorem coalesce_key (cur : Word) (w : Option WithdrawContent) (e : QEntry) :
    (e.coalesce cur w).key = e.key ∧ (e.coalesce cur w).inFlight = e.inFlight := by simp [QEntry.coalesce]

@[simp] theorem renew_key (cur : Word) (w : Option WithdrawContent) (e : QEntry) :
    (e.renew cur w).key = e.key ∧ (e.renew cur w).inFlight = e.inFlight := by
  unfold QEntry.renew
  split
  · simp
  · split <;> simp

/-- An insert keeps the bound of the queue and its keys distinct. -/
theorem insertQueue_bound (cur : Word) (k : NoticeKey) (w : Option WithdrawContent) (q : List QEntry)
    (hq : q.length ≤ Config.queueLimit) (hn : (queueKeys q).Nodup) :
    (insertQueue cur k w q).1.length ≤ Config.queueLimit ∧ (queueKeys (insertQueue cur k w q).1).Nodup := by
  have fresh : ∀ q' : List QEntry, q'.length < Config.queueLimit → (queueKeys q').Nodup → k ∉ queueKeys q' →
      (appendGroup (newEntry k w) q').length ≤ Config.queueLimit ∧
      (queueKeys (appendGroup (newEntry k w) q')).Nodup := by
    intro q' h1 h2 h3
    have hp := appendGroup_perm (newEntry k w) q'
    refine ⟨by rw [hp.length_eq]; simpa using h1, ?_⟩
    have hm : (queueKeys (appendGroup (newEntry k w) q')).Perm (k :: queueKeys q') := hp.map QEntry.key
    exact hm.nodup_iff.mpr (List.nodup_cons.mpr ⟨h3, h2⟩)
  unfold insertQueue
  split
  · have hk : ∀ (f : QEntry → QEntry), (∀ e, (f e).key = e.key) →
        queueKeys (q.map fun e => if e.key = k then f e else e) = queueKeys q := by
      intro f hf
      simp only [queueKeys, List.map_map]
      refine List.map_congr_left fun e _ => ?_
      by_cases he : e.key = k <;> simp [he, hf]
    split
    · exact ⟨by simpa using hq, by rw [hk _ fun e => (renew_key cur w e).1]; exact hn⟩
    · exact ⟨by simpa using hq, by rw [hk _ fun e => (coalesce_key cur w e).1]; exact hn⟩
  · next hnone =>
    have hk : k ∉ queueKeys q := by
      intro hm
      obtain ⟨e, he, hek⟩ := List.mem_map.mp hm
      have := List.find?_eq_none.mp hnone e he
      simp [hek] at this
    split
    · exact fresh q ‹_› hn hk
    · split
      · next v hv =>
        have hsub : (q.filter fun e => e.key != v).Sublist q := List.filter_sublist
        refine fresh _ (Nat.lt_of_lt_of_le ?_ hq) (hn.sublist (hsub.map _)) fun hm => hk ((hsub.map _).subset hm)
        refine List.length_filter_lt_length_iff_exists.mpr ?_
        obtain ⟨e, he, hev⟩ := List.mem_map.mp (victim_mem hv)
        exact ⟨e, he, by simp [hev]⟩
      · exact ⟨hq, hn⟩

end Sys2Proof.Machine
end

