-- ==== Sys2Proof/Laws/Merit.lean ====
section
/-! SUPPORT. What the merit take and an evaluation can give (R105, R108, R115 to R117). -/

namespace Sys2Proof.Machine

/-- A merit take never exceeds the quantity it is formed from (R105). -/
theorem meritTake_le (p b c q below at' : Nat) : meritTake p b c q below at' ≤ p := by
  unfold meritTake
  split
  · exact Nat.zero_le _
  · split
    · exact Nat.le_refl _
    · split
      · exact Nat.zero_le _
      · split
        · exact Nat.le_refl _
        · rcases Nat.eq_zero_or_pos at' with h | h
          · simp [h]
          · refine Nat.div_le_of_le_mul ?_
            rw [Nat.mul_comm at' p]
            exact Nat.mul_le_mul_left p (by omega)

/-- A used take never exceeds the member's entry quantity (R108). -/
theorem usedTake_le (ms : List Member) (a : Award) (own : Option OwnTerm) (m : Member) :
    usedTake ms a own m ≤ m.qty := by
  have he : estimatedTake ms a own m ≤ m.qty := meritTake_le _ _ _ _ _ _
  unfold usedTake
  split
  · split
    · exact Nat.min_le_right _ _
    · exact he
  · exact he

/-- The own merit take never exceeds the cap (R105, R25). -/
theorem ownMerit_le (ms : List Member) (a : Award) (own : OwnTerm) : ownMerit ms a own ≤ own.qty :=
  meritTake_le _ _ _ _ _ _

/-- A ranking is a reordering. -/
theorem rank_perm (le : Ranked → Ranked → Bool) (xs : List Ranked) : (rank le xs).Perm xs := by
  have hi : ∀ x ys, (insertRanked le x ys).Perm (x :: ys) := by
    intro x ys
    induction ys with
    | nil => exact List.Perm.refl _
    | cons y rest ih =>
      unfold insertRanked
      split
      · exact List.Perm.refl _
      · exact (ih.cons y).trans (List.Perm.swap x y rest)
  induction xs with
  | nil => exact List.Perm.refl _
  | cons x rest ih => exact (hi x (rank le rest)).trans (ih.cons x)

/-- What a walk assigns the own station is bounded by its amount and by what there is to assign (R115, R116). -/
theorem ownAssigned_le (n b : Nat) (xs : List Ranked) (h : ∀ r ∈ xs, r.own = true → r.amount ≤ b) :
    ownAssigned n xs ≤ b ∧ ownAssigned n xs ≤ n := by
  induction xs generalizing n with
  | nil => simp [ownAssigned]
  | cons r rest ih =>
    unfold ownAssigned
    split
    · next hr =>
      have := h r (List.mem_cons_self ..) hr
      omega
    · have := ih (n - min r.amount n) fun q hq => h q (List.mem_cons_of_mem _ hq)
      omega

/-- An evaluation leaves the take within the cap (R117). -/
theorem evaluatedTake_le (id overCover : Nat) (ms : List Member) (a : Award) (own : OwnTerm) (take : Nat)
    (h : take ≤ own.qty) : evaluatedTake id overCover ms a own take ≤ own.qty := by
  unfold evaluatedTake
  dsimp only
  split
  · have : ∀ r ∈ rank Ranked.before (raiseStations id ms a own take), r.own = true → r.amount ≤ own.qty - take := by
      intro r hr ho
      rcases List.mem_cons.mp ((rank_perm _ _).subset hr) with rfl | hm
      · exact Nat.le_refl _
      · obtain ⟨m, _, rfl⟩ := List.mem_map.mp hm
        simp at ho
    have := (ownAssigned_le (a.quantity - coverOf ms a own take) _ _ this).1
    omega
  · split <;> omega

end Sys2Proof.Machine
end

