-- ==== Sys2Proof/Laws/Meter.lean ====
section
/-! SUPPORT. What the periods recorded before a crossing leave unchanged, and what they count. -/

namespace Sys2Proof.Machine

@[simp] theorem invalidPeriods_frame (n : Nat) (s : State) :
    (invalidPeriods n s).ctrl = s.ctrl ∧ (invalidPeriods n s).clock = s.clock ∧ (invalidPeriods n s).table = s.table ∧
    (invalidPeriods n s).pledge = s.pledge ∧ (invalidPeriods n s).line = s.line ∧ (invalidPeriods n s).view = s.view ∧
    (invalidPeriods n s).entryTakesDue = s.entryTakesDue ∧ (invalidPeriods n s).ties = s.ties ∧
    (invalidPeriods n s).pending = s.pending := by
  induction n generalizing s with
  | zero => simp [invalidPeriods]
  | succ n ih => simp [invalidPeriods, ih]

@[simp] theorem recordMisses_frame (count : Nat) (s : State) :
    (recordMisses count s).ctrl = s.ctrl ∧ (recordMisses count s).clock = s.clock ∧
    (recordMisses count s).table = s.table ∧ (recordMisses count s).pledge = s.pledge ∧
    (recordMisses count s).line = s.line ∧ (recordMisses count s).view = s.view ∧
    (recordMisses count s).entryTakesDue = s.entryTakesDue ∧ (recordMisses count s).ties = s.ties ∧
    (recordMisses count s).pending = s.pending := by
  simp only [recordMisses]; split <;> simp

/-- A crossing that comes before the miss timer's end finds no missed period. -/
theorem recordMisses_of_inTime (count : Nat) (s : State) (hb : 0 < missBound s)
    (h : count ≤ s.freq.missStart + missBound s) : recordMisses count s = s := by
  have : missesBefore count s = 0 := Nat.div_eq_of_lt (by omega)
  simp [recordMisses, this]

theorem missBound_pos (s : State) : 0 < missBound s := by
  unfold missBound; cases s.ctrl.config.nominal <;> decide

/-- An invalid period adds 1 to the count of invalid periods, which stays at 3 (R134, R135). -/
theorem invalidPeriod_invalids (s : State) : (invalidPeriod s).freq.invalids = min 3 (s.freq.invalids + 1) := by
  unfold invalidPeriod
  split
  · split
    · simp [handOverInvalid]; omega
    · simp; omega
  · simp

theorem invalidPeriods_invalids (n : Nat) (s : State) (h : s.freq.invalids ≤ 3) :
    (invalidPeriods n s).freq.invalids = min 3 (s.freq.invalids + n) := by
  induction n generalizing s with
  | zero => simp only [invalidPeriods]; omega
  | succ n ih => rw [invalidPeriods, ih _ (by rw [invalidPeriod_invalids]; omega), invalidPeriod_invalids]; omega

/-- The receiver hears nothing while it is idle, and all of a carrier that it has from its beginning (R66). -/
@[simp] theorem hasFrame_idle (held : List Byte) : Receiver.idle.hasFrame held = false := rfl
@[simp] theorem hasFrame_whole (held : List Byte) : Receiver.whole.hasFrame held = true := rfl

/-- With carrier off the line nothing is left of it a millisecond later (R66). -/
@[simp] theorem receiver_tick_off (r : Receiver) : r.tick false = .idle := rfl

end Sys2Proof.Machine
end

