-- ==== Sys2Proof/Laws/PerInstr.lean ====
section
/-! SUPPORT. The per-instruction family `Arises`: a well-formed host command clocks in the whole frame of its body, its
code is one of Table 12-3, and its body fits the length field (R159, R160, R171). -/

namespace Sys2Proof.Laws

/-- The statement about one instruction. A command that is no host command has no bytes, and nothing is asked of it. -/
def Arises.Statement (i : Instr) : Prop :=
  i.wellFormed = true → ∀ code body, commandBytes i = some (code, body) →
    3 + body.length ≤ clockedBytes i ∧ knownCode code = true ∧ body.length < 65536

/-- A transaction whose body stands clocks its size. -/
theorem clocked_of_wellFormed {α : Type} {t : Transaction α} {size : α → Nat} {fits : α → Bool} {b : α}
    (h : t.wellFormed size fits = true) (hb : t.body = some b) : 3 + size b ≤ t.clocked ∧ fits b = true := by
  simpa [Transaction.wellFormed, hb] using h

/-- The bytes of items, each three. -/
theorem items_length (items : List Item) : (items.flatMap encodeItem).length = 3 * items.length := by
  induction items with
  | nil => rfl
  | cons i rest ih => simp [List.flatMap_cons, encodeItem, be16, ih]; omega

/-- The bytes of 32-bit values, each four. -/
theorem values_length (vs : List (BitVec 32)) : (vs.flatMap be32).length = 4 * vs.length := by
  induction vs with
  | nil => rfl
  | cons i rest ih => simp [List.flatMap_cons, be32, ih]; omega

/-- The statement of a host command, from the size its well-formedness asks for. -/
theorem Arises.of_transaction {α : Type} {i : Instr} (t : Transaction α) (size : α → Nat) (fits : α → Bool)
    (code : Byte) (bytes : α → List Byte) (hw : i.wellFormed = t.wellFormed size fits)
    (hc : commandBytes i = t.body.map fun b => (code, bytes b)) (hn : clockedBytes i = t.clocked)
    (hk : knownCode code = true) (hs : ∀ b, fits b = true → (bytes b).length = size b ∧ size b < 65536) :
    Arises.Statement i := by
  intro h c body hb
  rw [hc, Option.map_eq_some_iff] at hb
  obtain ⟨b, hb, hcb⟩ := hb
  obtain ⟨rfl, rfl⟩ := Prod.mk.inj hcb
  obtain ⟨h1, h2⟩ := clocked_of_wellFormed (hw ▸ h) hb
  obtain ⟨h3, h4⟩ := hs b h2
  exact ⟨by omega, hk, by omega⟩

theorem Arises.powerOnReset : Arises.Statement .powerOnReset := nofun

theorem Arises.noCommandTransaction (clocked : Nat) : Arises.Statement (.noCommandTransaction clocked) := nofun

theorem Arises.unknownCommand (clocked : Nat) (code : Byte) : Arises.Statement (.unknownCommand clocked code) := nofun

theorem Arises.configure (t : Transaction (List Item)) : Arises.Statement (.configure t) :=
  Arises.of_transaction t _ _ _ _ rfl rfl rfl rfl <| fun b h => by
    have h : b.length ≤ 32 := by simpa using h
    exact ⟨items_length b, by omega⟩

theorem Arises.join (t : Transaction Unit) : Arises.Statement (.join t) :=
  Arises.of_transaction t _ _ _ _ rfl rfl rfl rfl <| fun _ _ => by simp

theorem Arises.leave (t : Transaction Unit) : Arises.Statement (.leave t) :=
  Arises.of_transaction t _ _ _ _ rfl rfl rfl rfl <| fun _ _ => by simp

theorem Arises.restart (t : Transaction Unit) : Arises.Statement (.restart t) :=
  Arises.of_transaction t _ _ _ _ rfl rfl rfl rfl <| fun _ _ => by simp

theorem Arises.clearSuspend (t : Transaction Unit) : Arises.Statement (.clearSuspend t) :=
  Arises.of_transaction t _ _ _ _ rfl rfl rfl rfl <| fun _ _ => by simp

theorem Arises.intervalMark (t : Transaction MarkBody) : Arises.Statement (.intervalMark t) :=
  Arises.of_transaction t _ _ _ _ rfl rfl rfl rfl <| fun _ _ => by simp [be16, encodeAward]

theorem Arises.setState (t : Transaction StateBody) : Arises.Statement (.setState t) :=
  Arises.of_transaction t _ _ _ _ rfl rfl rfl rfl <| fun _ _ => by simp [be16, encodeAward]

theorem Arises.setBaseline (t : Transaction BaselineBody) : Arises.Statement (.setBaseline t) :=
  Arises.of_transaction t _ _ _ _ rfl rfl rfl rfl <| fun b h => by
    have h : b.values.length ≤ 255 := by simpa using h
    have hv := values_length b.values
    simp [be16, -List.length_flatMap, hv]; omega

theorem Arises.setPrice (t : Transaction PriceBody) : Arises.Statement (.setPrice t) :=
  Arises.of_transaction t _ _ _ _ rfl rfl rfl rfl <| fun _ _ => by simp [be16, encodeAward]

theorem Arises.setAvailability (t : Transaction AvailabilityBody) : Arises.Statement (.setAvailability t) :=
  Arises.of_transaction t _ _ _ _ rfl rfl rfl rfl <| fun b h => by
    have h : b.flags.length ≤ 255 := by simpa using h
    simp [be16]; omega

theorem Arises.injectAward (t : Transaction AwardBody) : Arises.Statement (.injectAward t) :=
  Arises.of_transaction t _ _ _ _ rfl rfl rfl rfl <| fun _ _ => by simp [be16, encodeAward]

theorem Arises.readStatus (t : Transaction Unit) : Arises.Statement (.readStatus t) :=
  Arises.of_transaction t _ _ _ _ rfl rfl rfl rfl <| fun _ _ => by simp

theorem Arises.readHorizon (t : Transaction Unit) : Arises.Statement (.readHorizon t) :=
  Arises.of_transaction t _ _ _ _ rfl rfl rfl rfl <| fun _ _ => by simp

theorem Arises.readView (t : Transaction Byte) : Arises.Statement (.readView t) :=
  Arises.of_transaction t _ _ _ _ rfl rfl rfl rfl <| fun _ _ => by simp [be16, encodeAward]

theorem Arises.readLadder (t : Transaction LadderBody) : Arises.Statement (.readLadder t) :=
  Arises.of_transaction t _ _ _ _ rfl rfl rfl rfl <| fun _ _ => by simp [be16, encodeAward]

theorem Arises.readLog (t : Transaction Unit) : Arises.Statement (.readLog t) :=
  Arises.of_transaction t _ _ _ _ rfl rfl rfl rfl <| fun _ _ => by simp

theorem Arises.readEvents (t : Transaction Unit) : Arises.Statement (.readEvents t) :=
  Arises.of_transaction t _ _ _ _ rfl rfl rfl rfl <| fun _ _ => by simp

theorem Arises.clearEvents (t : Transaction Word) : Arises.Statement (.clearEvents t) :=
  Arises.of_transaction t _ _ _ _ rfl rfl rfl rfl <| fun _ _ => by simp [be16, encodeAward]

theorem Arises.setEventMask (t : Transaction Word) : Arises.Statement (.setEventMask t) :=
  Arises.of_transaction t _ _ _ _ rfl rfl rfl rfl <| fun _ _ => by simp [be16, encodeAward]

theorem Arises.clockSecond : Arises.Statement .clockSecond := nofun

theorem Arises.intervalBoundary : Arises.Statement .intervalBoundary := nofun

theorem Arises.markBoundary : Arises.Statement .markBoundary := nofun

theorem Arises.rebuild : Arises.Statement .rebuild := nofun

theorem Arises.computationEnd : Arises.Statement .computationEnd := nofun

theorem Arises.refreshTimerExpiry : Arises.Statement .refreshTimerExpiry := nofun

theorem Arises.listeningTimerExpiry : Arises.Statement .listeningTimerExpiry := nofun

theorem Arises.leavingTimerExpiry : Arises.Statement .leavingTimerExpiry := nofun

theorem Arises.stateStaleLimit : Arises.Statement .stateStaleLimit := nofun

theorem Arises.supplyWarningActive : Arises.Statement .supplyWarningActive := nofun

theorem Arises.supplyWarningInactive : Arises.Statement .supplyWarningInactive := nofun

theorem Arises.supplyFilterExpiry : Arises.Statement .supplyFilterExpiry := nofun

theorem Arises.crossing (count : Nat) : Arises.Statement (.crossing count) := nofun

theorem Arises.missedPeriod : Arises.Statement .missedPeriod := nofun

theorem Arises.pwmPeriodStart : Arises.Statement .pwmPeriodStart := nofun

theorem Arises.feedbackPeriod (period high falls : Nat) : Arises.Statement (.feedbackPeriod period high falls) := nofun

theorem Arises.feedbackLost : Arises.Statement .feedbackLost := nofun

theorem Arises.measurementPeriodEnd : Arises.Statement .measurementPeriodEnd := nofun

theorem Arises.settlingExpiry : Arises.Statement .settlingExpiry := nofun

theorem Arises.judgePeriodEnd : Arises.Statement .judgePeriodEnd := nofun

theorem Arises.carrierDetectChange (active : Bool) : Arises.Statement (.carrierDetectChange active) := nofun

theorem Arises.lineCarrier : Arises.Statement .lineCarrier := nofun

theorem Arises.idleRunComplete : Arises.Statement .idleRunComplete := nofun

theorem Arises.transmissionEnd : Arises.Statement .transmissionEnd := nofun

theorem Arises.lineJam : Arises.Statement .lineJam := nofun

theorem Arises.jamClear : Arises.Statement .jamClear := nofun

theorem Arises.frameReceived (bytes : List Byte) : Arises.Statement (.frameReceived bytes) := nofun

theorem Arises.receivedPledge : Arises.Statement .receivedPledge := nofun

theorem Arises.receivedTake : Arises.Statement .receivedTake := nofun

theorem Arises.receivedWithdraw : Arises.Statement .receivedWithdraw := nofun

theorem Arises.receivedAward : Arises.Statement .receivedAward := nofun

theorem Arises.peerStale (id : Nat) : Arises.Statement (.peerStale id) := nofun

theorem Arises.peerRemoved (id : Nat) : Arises.Statement (.peerRemoved id) := nofun

theorem Arises.holdExpiry (interval : Word) (dir : Direction) : Arises.Statement (.holdExpiry interval dir) := nofun

end Sys2Proof.Laws
end

