-- ==== Sys2Proof/Laws/Records.lean ====
section
/-! SUPPORT. What the Allocation Unit's operations can do to the commitment records: takes, holds, pending flags and
running fields alone, but for an award met. -/

namespace Sys2Proof.Machine

/-- A record without what the Allocation Unit's own work changes. -/
def CRecord.fixed (r : CRecord) : CRecord :=
  { r with take := 0, hold := none, evalPending := false, run := none, lastSent := none }

/-- What stands in every record through the Allocation Unit's own work. -/
def fixedTable (table : List CRecord) : List CRecord := table.map CRecord.fixed

/-- The keys are among what stands. -/
theorem recordKeys_of_fixed {t u : List CRecord} (h : fixedTable t = fixedTable u) : recordKeys t = recordKeys u := by
  have hk : ∀ t : List CRecord, recordKeys t = recordKeys (fixedTable t) := by
    intro t; simp [recordKeys, fixedTable, CRecord.fixed]
  rw [hk, h, ← hk]

/-- A rewrite of one record that leaves what stands. -/
theorem fixedTable_mapRec (k : Word) (d : Direction) (f : CRecord → CRecord) (table : List CRecord)
    (h : ∀ r, (f r).fixed = r.fixed) : fixedTable (mapRec k d f table) = fixedTable table := by
  simp only [fixedTable, mapRec, List.map_map]
  refine List.map_congr_left fun r _ => ?_
  by_cases hr : r.is k d = true <;> simp [hr, h]

/-- The same of a rewrite in the state. -/
theorem updRec_fixed (s : State) (k : Word) (d : Direction) (f : CRecord → CRecord)
    (h : ∀ r, (f r).fixed = r.fixed) : fixedTable (s.updRec k d f).table = fixedTable s.table :=
  fixedTable_mapRec k d f s.table h

@[simp] theorem withTake_fixed (r : CRecord) (t : Nat) : (r.withTake t).fixed = r.fixed := rfl

@[simp] theorem noteTakeChange_fixed (s : State) (k : Word) (d : Direction) (b : Bool) :
    fixedTable (noteTakeChange k d b s).table = fixedTable s.table := by
  unfold noteTakeChange
  dsimp only
  split <;> simp only [recompute_frame, raiseEvent_frame] <;> exact updRec_fixed s k d _ fun _ => rfl

@[simp] theorem takeTest_fixed (s : State) (k : Word) (d : Direction) : (takeTest k d s).table = s.table := by
  unfold takeTest
  split
  · split <;> simp
  · rfl

@[simp] theorem changeTake_fixed (s : State) (k : Word) (d : Direction) (t : Nat) :
    fixedTable (changeTake k d t s).table = fixedTable s.table := by
  unfold changeTake
  split
  · split
    · rfl
    · rw [noteTakeChange_fixed]
      exact updRec_fixed s k d _ fun _ => rfl
  · rfl

@[simp] theorem evaluate_fixed (s : State) (k : Word) (d : Direction) :
    fixedTable (evaluate k d s).table = fixedTable s.table := by
  unfold evaluate
  split
  · split
    · split
      · dsimp only
        split <;> simp
      · rfl
    · rfl
  · rfl

@[simp] theorem setEvalPending_fixed (s : State) (k : Word) (d : Direction) (b : Bool) :
    fixedTable (setEvalPending k d b s).table = fixedTable s.table :=
  updRec_fixed s k d _ fun _ => rfl

@[simp] theorem triggerEvaluation_fixed (s : State) (kd : Word × Direction) :
    fixedTable (triggerEvaluation s kd).table = fixedTable s.table := by
  unfold triggerEvaluation
  split
  · split
    · split <;> simp
    · rfl
  · rfl

@[simp] theorem actOnReport_fixed (s : State) (pairs : Report) :
    fixedTable (actOnReport pairs s).table = fixedTable s.table :=
  foldl_keeps _ (fun s => fixedTable s.table) triggerEvaluation_fixed pairs s

@[simp] theorem writeMerit_fixed (s : State) (k : Word) (d : Direction) :
    fixedTable (writeMerit k d s).table = fixedTable s.table := by
  unfold writeMerit
  split
  · split <;> simp
  · rfl

@[simp] theorem meritAndTrigger_fixed (s : State) (kd : Word × Direction) :
    fixedTable (meritAndTrigger s kd).table = fixedTable s.table := by
  unfold meritAndTrigger
  split <;> simp

@[simp] theorem entryMerits_fixed (s : State) : fixedTable (entryMerits s).table = fixedTable s.table := by
  unfold entryMerits
  split
  · exact foldl_keeps _ (fun s => fixedTable s.table) meritAndTrigger_fixed _ _
  · rfl

@[simp] theorem runPending_fixed (s : State) (kd : Word × Direction) :
    fixedTable (runPending s kd).table = fixedTable s.table := by
  simp [runPending]

@[simp] theorem lockEnds_fixed (s : State) : fixedTable (lockEnds s).table = fixedTable s.table := by
  unfold lockEnds
  dsimp only
  rw [foldl_keeps _ (fun s => fixedTable s.table) runPending_fixed]
  exact entryMerits_fixed s

@[simp] theorem noteLowered_fixed (s : State) (kd : Word × Direction) :
    fixedTable (noteLowered s kd).table = fixedTable s.table := by
  simp [noteLowered]

/-- Stopping the holds leaves what stands. -/
@[simp] theorem stopHolds_fixed (s : State) : fixedTable (stopHolds s).table = fixedTable s.table := by
  simp [stopHolds, fixedTable, CRecord.fixed]

/-- The withdrawal procedure writes the records it selects and no others. -/
@[simp] theorem withdrawProcedure_table (q : Reason) (sel : CRecord → Bool) (s : State) :
    (withdrawProcedure q sel s).table = s.table.map fun r => if sel r then r.withdraw q else r := by
  simp [withdrawProcedure]

/-- A suspension withdraws every record, its hold stopped and its pending flag clear. -/
@[simp] theorem suspendStation_table (q : SuspendReason) (s : State) :
    (suspendStation q s).table =
      s.table.map fun r => CRecord.withdraw { r with hold := none, evalPending := false } q.toReason := by
  simp [suspendStation, leaveActive, stopHolds]

/-- The keys after a boundary: those of the ended interval are gone, and the two of slot 7 stand last. -/
theorem recordKeys_slideTable (c : Word) (table : List CRecord) :
    recordKeys (slideTable c table) =
      (recordKeys table).filter (fun kd => kd.1 != c - 1) ++ [(atSlot c 7, .raise), (atSlot c 7, .lower)] := by
  have h1 : ∀ r : CRecord, (if r.interval = c then r.toRunning else r).interval = r.interval ∧
      (if r.interval = c then r.toRunning else r).dir = r.dir := by
    intro r; split <;> simp [CRecord.toRunning]
  simp only [recordKeys, slideTable, List.map_append, List.map_map, List.filter_map]
  congr 1
  exact List.map_congr_left fun r _ => by simp [h1]

/-- The keys of a rebuilt table are those of its horizon. -/
theorem recordKeys_rebuiltTable (c : StationConfig) (p : PledgeEngine) (first : Word) :
    recordKeys (rebuiltTable c p first) = horizonPairs first := by
  have h : ∀ j d, (rebuiltRecord c p first j d).interval = atSlot first j ∧ (rebuiltRecord c p first j d).dir = d := by
    intro j d; unfold rebuiltRecord; split <;> simp [zeroRecord, openRecord]
  simp [recordKeys, rebuiltTable, horizonPairs, List.map_flatMap, h]

/-- The single write keeps the keys. -/
theorem recordKeys_writtenTable (s : State) (c : Computation) : recordKeys (writtenTable s c) = recordKeys s.table := by
  simp only [recordKeys, writtenTable, List.map_map]
  refine List.map_congr_left fun r _ => ?_
  have h : ∀ x, (r.lowerCap x).interval = r.interval ∧ (r.lowerCap x).dir = r.dir := by
    intro x; simp
  simp only [Function.comp, writtenRecord]
  split
  · split <;> simp
  · simp [h]

end Sys2Proof.Machine
end

