-- ==== Sys2Proof/Tests/Slice0.lean ====
section
/-! SUPPORT. The model's own tests: ill-formed commands are refused, written-out bytes are read, the worked cases of the
spec come out as printed, and every statement's hypotheses are met by a concrete state. -/

namespace Sys2Proof.Tests

open Sys2Proof Sys2Proof.Machine

/-! ### Ill-formed commands -/

theorem test_refuses_unknown_command_too_short : Instr.wellFormed (.unknownCommand 2 0x30) = false := by decide
theorem test_refuses_unknown_command_code_zero : Instr.wellFormed (.unknownCommand 3 0) = false := by decide
theorem test_refuses_unknown_command_of_the_table :
    Instr.wellFormed (.unknownCommand 3 0x0B) = false ∧ Instr.wellFormed (.unknownCommand 3 0x17) = false ∧
    Instr.wellFormed (.unknownCommand 3 0x0C) = true ∧ Instr.wellFormed (.unknownCommand 3 0x18) = true := by decide

/-- A transaction of two bytes carries no command (R160). -/
theorem test_refuses_two_bytes_with_a_command :
    Instr.wellFormed (.configure ⟨2, none⟩) = false ∧ Instr.wellFormed (.join ⟨2, none⟩) = false ∧
    Instr.wellFormed (.leave ⟨2, none⟩) = false ∧ Instr.wellFormed (.restart ⟨2, none⟩) = false ∧
    Instr.wellFormed (.clearSuspend ⟨2, none⟩) = false ∧ Instr.wellFormed (.intervalMark ⟨2, none⟩) = false ∧
    Instr.wellFormed (.setState ⟨2, none⟩) = false ∧ Instr.wellFormed (.setBaseline ⟨2, none⟩) = false ∧
    Instr.wellFormed (.setPrice ⟨2, none⟩) = false ∧ Instr.wellFormed (.setAvailability ⟨2, none⟩) = false ∧
    Instr.wellFormed (.injectAward ⟨2, none⟩) = false ∧ Instr.wellFormed (.readStatus ⟨2, none⟩) = false ∧
    Instr.wellFormed (.readHorizon ⟨2, none⟩) = false ∧ Instr.wellFormed (.readView ⟨2, none⟩) = false ∧
    Instr.wellFormed (.readLadder ⟨2, none⟩) = false ∧ Instr.wellFormed (.readLog ⟨2, none⟩) = false ∧
    Instr.wellFormed (.readEvents ⟨2, none⟩) = false ∧ Instr.wellFormed (.clearEvents ⟨2, none⟩) = false ∧
    Instr.wellFormed (.setEventMask ⟨2, none⟩) = false := by decide

/-- One byte fewer than code, length and body take (Table 12-3). -/
theorem test_refuses_a_body_cut_short :
    Instr.wellFormed (.configure ⟨5, some [⟨1, 23⟩]⟩) = false ∧ Instr.wellFormed (.join ⟨2, some ()⟩) = false ∧
    Instr.wellFormed (.leave ⟨2, some ()⟩) = false ∧ Instr.wellFormed (.restart ⟨2, some ()⟩) = false ∧
    Instr.wellFormed (.clearSuspend ⟨2, some ()⟩) = false ∧
    Instr.wellFormed (.intervalMark ⟨6, some ⟨1801, 180⟩⟩) = false ∧
    Instr.wellFormed (.setState ⟨8, some ⟨812, 200, 1300⟩⟩) = false ∧
    Instr.wellFormed (.setBaseline ⟨9, some ⟨1801, [150]⟩⟩) = false ∧
    Instr.wellFormed (.setPrice ⟨4, some ⟨5, 5⟩⟩) = false ∧
    Instr.wellFormed (.setAvailability ⟨6, some ⟨1801, [3]⟩⟩) = false ∧
    Instr.wellFormed (.injectAward ⟨13, some ⟨1803, 0, 1, 5, 2000, 0x1200, 0xFF⟩⟩) = false ∧
    Instr.wellFormed (.readStatus ⟨2, some ()⟩) = false ∧ Instr.wellFormed (.readHorizon ⟨2, some ()⟩) = false ∧
    Instr.wellFormed (.readView ⟨3, some 0⟩) = false ∧ Instr.wellFormed (.readLadder ⟨5, some ⟨1803, 0⟩⟩) = false ∧
    Instr.wellFormed (.readLog ⟨2, some ()⟩) = false ∧ Instr.wellFormed (.readEvents ⟨2, some ()⟩) = false ∧
    Instr.wellFormed (.clearEvents ⟨4, some 0xFF⟩) = false ∧ Instr.wellFormed (.setEventMask ⟨4, some 0xFF⟩) = false := by
  decide

/-- Lists longer than their count or length field allows. -/
theorem test_refuses_lists_too_long :
    Instr.wellFormed (.configure ⟨1000, some (List.replicate 33 ⟨1, 23⟩)⟩) = false ∧
    Instr.wellFormed (.configure ⟨1000, some (List.replicate 32 ⟨1, 23⟩)⟩) = true ∧
    Instr.wellFormed (.setBaseline ⟨2000, some ⟨0, List.replicate 256 0⟩⟩) = false ∧
    Instr.wellFormed (.setAvailability ⟨2000, some ⟨0, List.replicate 256 0⟩⟩) = false := by decide +kernel

theorem test_refuses_feedback_period_of_no_length : Instr.wellFormed (.feedbackPeriod 0 0 1) = false := by decide
theorem test_refuses_high_time_beyond_the_period : Instr.wellFormed (.feedbackPeriod 10000 10001 1) = false := by decide
theorem test_refuses_frame_of_50_bytes :
    Instr.wellFormed (.frameReceived (List.replicate 50 0)) = false ∧
    Instr.wellFormed (.frameReceived (List.replicate 49 0)) = true := by decide
theorem test_refuses_peer_ids_out_of_range :
    Instr.wellFormed (.peerStale 0) = false ∧ Instr.wellFormed (.peerStale 251) = false ∧
    Instr.wellFormed (.peerRemoved 0) = false ∧ Instr.wellFormed (.peerRemoved 251) = false := by decide

/-! ### Bytes written out from the tables of chapter 12 -/

theorem test_reads_configure :
    decodeTransaction [0x01, 0x00, 0x06, 0x01, 0x00, 0x17, 0x02, 0x12, 0x04] =
      .configure ⟨9, some [⟨1, 23⟩, ⟨2, 0x1204⟩]⟩ := by decide
theorem test_reads_interval_mark :
    decodeTransaction [0x06, 0x00, 0x04, 0x07, 0x09, 0x00, 0xB4] = .intervalMark ⟨7, some ⟨1801, 180⟩⟩ := by decide
theorem test_reads_set_baseline :
    decodeTransaction [0x08, 0x00, 0x07, 0x07, 0x09, 0x01, 0xFF, 0xFF, 0xFF, 0x38] =
      .setBaseline ⟨10, some ⟨1801, [BitVec.ofInt 32 (-200)]⟩⟩ := by decide
theorem test_reads_inject_award :
    decodeTransaction [0x0B, 0x00, 0x0B, 0x07, 0x0B, 0x01, 0x03, 0x05, 0x07, 0xD0, 0x12, 0x00, 0x00, 0xFF] =
      .injectAward ⟨14, some ⟨1803, 1, 3, 5, 2000, 0x1200, 0x00FF⟩⟩ := by decide
theorem test_reads_read_view : decodeTransaction [0x12, 0x00, 0x01, 0x05] = .readView ⟨4, some 5⟩ := by decide
/-- A length field that does not match the bytes clocked, an unknown code, and no command (R159, R160). -/
theorem test_reads_malformed_transactions :
    decodeTransaction [0x02, 0x00, 0x01] = .join ⟨3, none⟩ ∧ decodeTransaction [0x30, 0x00, 0x00] = .unknownCommand 3 0x30 ∧
    decodeTransaction [0x00, 0x00, 0x00, 0x00] = .noCommandTransaction 4 := by decide
/-- The table gives no row any bits, so no word spells a command. -/
theorem test_no_word_spells_a_command : decodeTableWord 16 0x0117 = none := by decide

/-- The check value of R170. -/
theorem test_crc_check_value : crc16 [0x31, 0x32, 0x33, 0x34, 0x35, 0x36, 0x37, 0x38, 0x39] = 0x29B1#16 := by
  decide +kernel
theorem test_reads_take_frame :
    parseCovered [0x20, 0x17, 0x12, 0x04, 0x07, 0x09, 0x00, 0x01, 0x01, 0x2B, 0x00] =
      some ⟨23, 0x1204, .take 1801 .raise 1 299⟩ := by decide +kernel
theorem test_reads_withdraw_frame :
    parseCovered [0x40, 0x17, 0x12, 0x04, 0x02, 0x07, 0x0A, 0xFF, 0x00, 0x00, 0x00] =
      some ⟨23, 0x1204, .withdraw .delivery 1802 0xFF⟩ := by decide +kernel

/-! ### Scope section 4: slots and zones -/

theorem test_slots_across_the_wrap : slotOf 65533 2 = 5 ∧ slotOf 65533 65532 = 65535 := by decide
theorem test_zone_match_table_0_4 :
    zoneMatch 0x12FF 0x1200 0x00FF = true ∧ zoneMatch 0x1310 0x1200 0x00FF = false ∧
    zoneMatch 0x1234 0x1234 0 = true ∧ zoneMatch 0x1235 0x1234 0 = false ∧ zoneMatch 0x9999 0 0xFFFF = true := by decide

/-! ### The states the tests start from -/

def cfg : StationConfig :=
  { StationConfig.default with stationId := 23, zone := 0x1204, uplink := true, dischargeMax := 500, chargeMax := 500 }

/-- UNJOINED, configured, the clock set at 1801. -/
def unjoined : State :=
  { State.reset with ctrl := { Controller.reset with config := cfg }, clock := ⟨1801, 180, true, 0, none, none⟩ }

/-- Joined in a station state, with the records of a rebuild and feedback present. -/
def joinedIn (st : StationState) : State :=
  { unjoined with
    ctrl := { unjoined.ctrl with station := st }
    table := rebuiltTable cfg PledgeEngine.reset 1801
    pledge := { PledgeEngine.reset with refresh := some 30000 }
    mon := { DeliveryMonitor.reset with fb := .present, lossMs := 0 } }

def listening : State := { joinedIn .listening with ctrl := { (joinedIn .listening).ctrl with listening := some 90000 } }
def active : State := joinedIn .active
def suspended (r : SuspendReason) : State :=
  { joinedIn .suspended with ctrl := { (joinedIn .suspended).ctrl with suspendReason := some r } }
def leaving : State := { joinedIn .leaving with ctrl := { (joinedIn .leaving).ctrl with leaving := some 5000 } }

/-- A computation in flight. -/
def withComputation (boundary : Bool) (s : State) : State := startComputation boundary false false s

/-! ### Worked case of section 3.8 -/

def workedPledge (eHost : Nat) : PledgeEngine :=
  { PledgeEngine.reset with positioned := true, eHost := eHost, eFloor := 200, eCeil := 1300, acc := 43500 }

def workedComputation (estimate : Nat) : Computation :=
  ⟨estimate, 120, [150, 100, -200, 50, 0, 300, -100, 400], List.replicate 8 (true, true), 5, 5, 2, false, [], false,
    false, false, 20⟩

theorem test_energy_estimate_800 : energyEstimate (workedPledge 812) = 800 := by decide
theorem test_projected_energy_table_3_5 :
    (List.range 8).map (projectedEnergy (workedComputation 800)) =
      [2880000, 2862000, 2832000, 2892000, 2877000, 2877000, 2787000, 2817000] := by decide +kernel
theorem test_raise_pledges_table_3_6 :
    ((List.range 8).map fun j => freshPledge cfg (workedPledge 812) (workedComputation 800) j .raise true) =
      [300, 350, 610, 390, 430, 170, 520, 80] := by decide +kernel
theorem test_lower_pledges_table_3_7 :
    ((List.range 8).map fun j => freshPledge cfg (workedPledge 812) (workedComputation 800) j .lower true) =
      [560, 520, 260, 480, 430, 700, 350, 780] := by decide +kernel
theorem test_low_energy_table_3_9 :
    ([250, 220, 210].map fun e => freshPledge cfg (workedPledge 812) (workedComputation e) 3 .raise true) =
      [180, 80, 0] := by decide +kernel

/-- R36: planned charging raises X_1 above 0, yet no RAISE pledge before an energy position is given. -/
theorem test_no_raise_pledge_without_a_position :
    let c : Computation := { workedComputation 0 with baselines := [-400] ++ List.replicate 7 0, errors := 0, remaining := 300 }
    freshPledge cfg PledgeEngine.reset c 1 .raise true = 0 ∧
    freshPledge cfg { PledgeEngine.reset with positioned := true } c 1 .raise true = 130 := by decide +kernel

/-! ### Worked cases of sections 6.7, 7.7 and 7.8 -/

def offering (id : Nat) (zone : Word) (status : PeerStatus) (band : BitVec 4) (quantity : Word) (heard : Option Nat) : Peer :=
  ⟨id, zone, status, 0, [⟨1803, ⟨band, 0, quantity, 0⟩⟩], (heard.map fun h => ⟨1803, .raise, h, 1⟩).toList⟩

/-- Table 6-8, for 1803 RAISE in place of 1804. -/
def table68 : List Peer :=
  [offering 5 0x1210 .fresh 2 480 none, offering 9 0x1207 .fresh 4 600 none, offering 12 0x12A0 .stale 3 400 none,
   offering 17 0x1233 .fresh 5 500 none, offering 31 0x1209 .fresh 5 310 none, offering 40 0x12F1 .fresh 7 700 none,
   offering 44 0x1310 .fresh 4 250 none]

def issue1 (quantity : Nat) : Award := ⟨1, 5, quantity, 0x1200, 0x00FF, false⟩

def members68 : List Member := membersOf table68 1803 .raise 0x1200 0x00FF

theorem test_members_of_table_6_8 : members68.map (·.id) = [5, 9, 17, 31, 40] := by decide
theorem test_merit_takes_table_6_9 :
    ownMerit members68 (issue1 2000) ⟨390, 5⟩ = 299 ∧
    members68.map (estimatedTake members68 (issue1 2000) (some ⟨390, 5⟩)) = [480, 600, 383, 237, 0] := by decide
theorem test_own_merit_table_6_10 :
    ([0, 1000, 1500, 2000, 2280, 2500].map fun q => ownMerit members68 (issue1 q) ⟨390, 5⟩) =
      [0, 0, 136, 299, 390, 390] ∧
    ownMerit members68 (issue1 2000) ⟨390, 4⟩ = 390 ∧ ownMerit members68 (issue1 2000) ⟨390, 7⟩ = 0 := by decide

/-- Station 23 with its 1803 RAISE record CLOSED at 390 in band 5, and the view of Table 6-8. -/
def closed390 : State :=
  { active with view := table68 }.updRec 1803 .raise fun r =>
    { r with frozen := some 390, cap := some 390, frozenBand := some 5 }

def heardAward : Notice := ⟨9, 0x1207, .award 1803 .raise 1 5 2000 0x1200 0x00FF⟩

/-- The AWARD of section 6.7 at the front of the buffer. -/
def awardWaits : State := { closed390 with line := { closed390.line with rx := [heardAward] } }

/-- Section 7.7's start: AWARDED at 299, heard takes from A, B, C and D. -/
def awarded299 : State :=
  { active with view :=
    [offering 5 0x1210 .fresh 2 480 (some 480), offering 9 0x1207 .fresh 4 600 (some 600),
     offering 12 0x12A0 .stale 3 400 none, offering 17 0x1233 .fresh 5 500 (some 383),
     offering 31 0x1209 .fresh 5 310 (some 237), offering 40 0x12F1 .fresh 7 700 none,
     offering 44 0x1310 .fresh 4 250 none] }.updRec 1803 .raise fun r =>
    { r with
      state := .awarded, frozen := some 390, cap := some 390, frozenBand := some 5, award := some (issue1 2000)
      take := 299, lastSent := some 299 }

def withdrawOfC : Notice := ⟨17, 0x1233, .withdraw .delivery 1801 0xFF⟩

/-- The state a step answers, for the tests: the state itself where it answers none. -/
def after (i : Instr) (s : State) : State :=
  match exec i s with
  | .next t => t
  | .fault _ => s
  | .refused _ => s

theorem test_award_gives_take_299 :
    (findRec (after .receivedAward awardWaits).table 1803 .raise).map (fun r => (r.state, r.take)) =
      some (.awarded, 299) ∧
    (after .receivedAward awardWaits).line.queue.map (·.key) = [.take 1803 .raise] := by decide +kernel

theorem test_withdraw_raises_take_to_390 :
    (findRec (after .receivedWithdraw { awarded299 with line := { awarded299.line with rx := [withdrawOfC] } }).table
      1803 .raise).map (fun r => (r.take, r.hold)) = some (390, some 3750) := by decide +kernel

/-- Table 7-10, at station E. -/
theorem test_walk_of_table_7_10 :
    evaluatedTake 40 4
      [⟨5, 2, 480, some ⟨1803, .raise, 480, 1⟩⟩, ⟨9, 4, 600, some ⟨1803, .raise, 600, 1⟩⟩,
       ⟨17, 5, 0, some ⟨1803, .raise, 0, 1⟩⟩, ⟨23, 5, 390, some ⟨1803, .raise, 390, 1⟩⟩,
       ⟨31, 5, 310, some ⟨1803, .raise, 310, 1⟩⟩] (issue1 2000) ⟨700, 7⟩ 700 = 345 := by decide

/-! ### Worked cases of chapters 8, 9 and 10 -/

theorem test_frequency_values_tables_8_3_and_8_4 :
    frequencyOf 4 [200100, 200300, 200200, 200400] = 49938 ∧ frequencyOf 1 [180000] = 55556 ∧
    frequencyOf 1 [220000] = 45455 ∧ frequencyOf 1 [150000] = 66000 ∧ frequencyOf 1 [166667] = 60000 ∧
    frequencyOf 1 [183334] = 54545 := by decide

/-- Table 8-5, step 0: the last crossing was at count 1,000,000. -/
def metering : State :=
  { active with freq :=
    ⟨1000000, some 1000000, 1000000, [200100, 200300, 200200, 200400], 0, some 49938, .valid⟩ }

def meterOf (s : State) : List Nat × Nat × FreqState × Option Nat := (s.freq.ring, s.freq.invalids, s.freq.state, s.freq.measured)

theorem test_meter_table_8_5_steps_1_to_5 :
    let s1 := after (.crossing 1200600) metering
    let s2 := after (.crossing 1235600) s1
    let s3 := after (.crossing 1401400) s2
    let s4 := after (.crossing 1551400) s3
    let s5 := after (.crossing 1791400) s4
    meterOf s1 = ([200300, 200200, 200400, 200600], 0, .valid, some 49906) ∧ meterOf s2 = meterOf s1 ∧
    meterOf s3 = ([200200, 200400, 200600, 200800], 0, .valid, some 49875) ∧
    meterOf s4 = ([200200, 200400, 200600, 200800], 1, .valid, some 49875) ∧
    meterOf s5 = ([200200, 200400, 200600, 200800], 2, .valid, some 49875) := by decide +kernel

theorem test_meter_table_8_5_steps_7_to_9 :
    let s7 := after .missedPeriod metering
    let s9 := after .missedPeriod (after .missedPeriod s7)
    meterOf s7 = ([200100, 200300, 200200, 200400], 1, .valid, some 49938) ∧ s7.freq.reference = none ∧
    meterOf s9 = ([], 3, .invalid, some 49938) ∧ flagSet .freqInvalid s9 = true := by decide +kernel

/-- R131: a crossing 20 missed periods after the last finds the meter INVALID; at 300,000 the timer has not run out before
it, one count later one period is missed. -/
theorem test_crossing_after_missed_periods :
    (let t := after (.crossing 7000001) metering
     meterOf t = ([], 3, .invalid, some 49938) ∧ t.freq.reference = some 7000001 ∧ flagSet .freqInvalid t = true) ∧
    (after (.crossing 1300000) metering).freq.invalids = 1 ∧
    (let t := after (.crossing 1300001) metering
     t.freq.invalids = 1 ∧ t.freq.reference = some 1300001) := by decide +kernel

theorem test_phases_table_9_2 :
    [1840, 1844, 1848, 1852].map (ditherPhase cfg) = [7, 10, 13, 0] := by decide
theorem test_levels_tables_9_8_and_9_9 :
    ([49938, 49906, 49800, 49600, 49450, 49880, 50010, 50100].map (levelAndDir cfg 7)) =
      [(1, some .raise), (2, some .raise), (6, some .raise), (13, some .raise), (16, some .raise), (3, some .raise),
       (0, none), (3, some .lower)] ∧
    levelAndDir cfg 15 49938 = (2, some .raise) ∧ levelAndDir cfg 0 49938 = (1, some .raise) := by decide
theorem test_setpoint_deltas_table_9_9 :
    setpointDelta (some .raise) 299 1 = 18 ∧ setpointDelta (some .raise) 299 13 = 242 ∧
    setpointDelta (some .raise) 390 3 = 73 ∧ setpointDelta (some .lower) 200 3 = -37 ∧
    setpointDelta (some .lower) 150 3 = -28 := by decide
theorem test_duties_table_9_6 :
    [0, 18, -37, 1, -1, 1000, -1000].map (dutyFor 1000) = [512, 521, 493, 513, 511, 1024, 0] := by decide

theorem test_feedback_table_10_2 :
    ([(10000, 6210), (10020, 5900), (10000, 5000), (7600, 3800)].map fun p =>
      let t := after (.feedbackPeriod p.1 p.2 1) active
      (t.mon.fbDuty, t.mon.f)) = [(636, 242), (603, 178), (512, 0), (512, 0)] := by decide +kernel

/-- A judge period's sums for a mean D and a mean F over 1000 ms. -/
def judging (d f : Int) : State :=
  { active with mon :=
    { active.mon with window := .judging, judgeMs := some 1000, dSum := 1000 * d, fSum := 1000 * f } }

theorem test_verdicts_table_10_4 :
    ([(0, 14), (242, 215), (390, 368), (-640, -585)].map fun p => (after .judgePeriodEnd (judging p.1 p.2)).mon.errors) =
      [0, 1, 0, 1] := by decide +kernel

/-! ### Reception (R66) -/

/-- Station 23 beside a receiver that has what is given of the carrier on the line. -/
def hearing (r : Receiver) (s : State) : State := { s with line := { s.line with cdet := true, receiver := r } }

def heardTake : List Byte := frameBytes ⟨31, 0x1209, .take 1803 .raise 1 310⟩

/-- A TAKE takes 19 bytes, 95/3 ms, of line: in carrier that stood before the receiver listened it is heard from 32 ms on. -/
theorem test_frame_begun_before_listening_is_not_heard :
    ([Receiver.idle, .since 31, .since 32, .whole].map fun r =>
      ((after (.frameReceived heardTake) (hearing r active)).line.rx.length,
        (after (.frameReceived (List.replicate 49 0)) (hearing r active)).line.rxBad)) =
      [(0, 0), (0, 0), (1, 0), (1, 1)] := by decide +kernel

theorem test_no_frame_after_one_closed_by_its_length :
    let t := after (.frameReceived (List.replicate 49 0)) (hearing .whole active)
    t.line.receiver = .idle ∧ (after (.frameReceived heardTake) t).line.rx = [] := by decide +kernel

/-! ### Witnesses: for every statement with hypotheses, a state and operands that meet them, clause by clause -/

def pledgeFrame : Notice := ⟨5, 0x1210, .pledge 1801 [⟨2, 3, 480, 0⟩]⟩
def eightEntries : Notice := ⟨250, 0x1210, .pledge 65533 (List.replicate 8 ⟨2, 3, 480, 65535⟩)⟩
def takeFrame : Notice := ⟨31, 0x1209, .take 1803 .raise 1 310⟩
def receiving (n : Notice) (s : State) : State := { s with line := { s.line with rx := [n] } }
def settled1800 : Settlement := ⟨1800, .raise, none, 390, 0, 0, 0, 0, 0, 0, none⟩
def logged : State := { active with host := { HostLink.reset with log := [settled1800] } }
def entry (k : NoticeKey) (w : Option WithdrawContent) : QEntry := ⟨k, w, initialSends k w, 0, false, .absent⟩

/-- Twelve entries: three awards and nine takes, none in flight. -/
def fullQueue : List QEntry :=
  ([1801, 1802, 1803].map fun k => entry (.award k .raise) none) ++
    ([1801, 1802, 1803, 1804, 1805, 1806, 1807, 1808].map fun k => entry (.take k .raise) none) ++
    [entry (.take 1801 .lower) none]

/-- A line that waits with a queue, the first entry with a run of 34 thirds of a millisecond. -/
def queued (q : List QEntry) (s : State) : State :=
  { s with line := { s.line with tx := .waiting, run := some 34, queue := q } }

/-- A take at 1801 RAISE and a frequency of full activation, of which no D is formed yet; the window judges against a
reference of 0. -/
def stepped (take : Nat) (s : State) : State :=
  { (s.updRec 1801 .raise fun r => { r with take := take }) with
    act := { s.act with heldFreq := some 49000, heldState := .valid }
    mon := { s.mon with window := .judging, judgeMs := some 400, dSum := 5, fSum := 7 } }

theorem witness_StepRunsFrontCommand :
    dueSteps unjoined = [] ∧ unjoined.pending = [] ∧
    dueSteps { unjoined with act := { unjoined.act with pwmDue := true } } ≠ [] ∧
    (SupplyFilter.timing 20).isTiming = true ∧ unjoined.ctrl.filter.isTiming = false ∧
    unjoined.ctrl.station = .unjoined ∧ active.ctrl.station ≠ .unjoined ∧
    (hearing (.since 7) active).line.cdet = true ∧ active.line.cdet = false := by decide +kernel

theorem witness_EveryCommandCompletes :
    ∃ t, exec (.clearEvents ⟨5, some 0xFF⟩) active = .next t ∧ t.ctrl.config = cfg := ⟨_, rfl, rfl⟩

theorem witness_TransactionsReadBack :
    Instr.wellFormed (.setBaseline ⟨10, some ⟨65535, [BitVec.ofInt 32 (-1)]⟩⟩) = true ∧
    (commandBytes (.setBaseline ⟨10, some ⟨65535, [BitVec.ofInt 32 (-1)]⟩⟩)).isSome = true ∧
    Instr.wellFormed (.join ⟨3, some ()⟩) = true ∧ (commandBytes (.join ⟨3, some ()⟩)).isSome = true := by decide

theorem witness_FramesReadBack :
    checkFrame (frameBytes { pledgeFrame with sender := 1 }) = some { pledgeFrame with sender := 1 } ∧
    checkFrame (frameBytes eightEntries) = some eightEntries := by decide +kernel

theorem witness_TransactionsShiftAnswers : (0 : Nat) < 3 := by decide

/-- Table 12-4: the answer's code, the length of the body in 2 bytes, and the body. -/
theorem test_bytes_of_answers :
    (plain .busy).bytes = [2, 0, 0] ∧
    (⟨.done, .events 0x1204 0x0004 0x3FFF⟩ : Answer).bytes = [1, 0, 6, 0x12, 0x04, 0x00, 0x04, 0x3F, 0xFF] ∧
    (⟨.done, .settled ⟨1800, .lower, some ⟨1, 5, 2000, true⟩, 390, 299, 390, 299, -2, 3, 1, none⟩ 4⟩ : Answer).bytes =
      [1, 0, 27, 0x07, 0x08, 1, 1, 1, 5, 0x07, 0xD0, 1, 0x01, 0x86, 0x01, 0x2B, 0x01, 0x86, 0x01, 0x2B,
       0xFF, 0xFF, 0xFF, 0xFE, 0, 3, 0, 1, 0, 4] := by decide +kernel

theorem witness_HostLinkRefusals : leaving.ctrl.station = .leaving := rfl

theorem witness_HorizonAndViewReturned :
    HorizonLaw active ∧ HorizonLaw unjoined ∧ (awarded299.view[(6 : Byte).toNat]?).isSome = true ∧
    awarded299.view.length ≤ (7 : Byte).toNat := by decide +kernel

theorem witness_LogAndEventsServed :
    active.host.log = [] ∧ logged.host.log = [settled1800] ∧ (0x3FFF : Word) &&& 0xC000#16 = 0 ∧
    (0x4000 : Word) &&& 0xC000#16 ≠ 0 ∧ Event.award ≠ Event.take := by decide

theorem witness_ConfigureTakenWhole :
    active.ctrl.station ≠ .unjoined ∧ unjoined.ctrl.station = .unjoined ∧
    (∃ i ∈ ([⟨7, 5⟩] : List Item), itemAllowed i = false) ∧
    (∀ i ∈ ([⟨7, 4⟩, ⟨15, 8⟩, ⟨11, 2⟩] : List Item), itemAllowed i = true) ∧
    (∀ i ∈ ([⟨6, 60⟩] : List Item), itemAllowed i = true) ∧
    ([⟨7, 4⟩] : List Item).foldl storeItem cfg ≠ cfg ∧
    (([⟨6, 60⟩] : List Item).foldl storeItem cfg).nominal ≠ cfg.nominal := by decide

theorem witness_JoinChecks :
    active.ctrl.station ≠ .unjoined ∧ State.reset.clock.isSet = false ∧ unjoined.clock.isSet = true ∧
    cfg.stationId ≠ 0 ∧ ¬ cfg.dischargeMax + cfg.chargeMax < 10 ∧ cfg.deadband < cfg.fullDeviation := by decide

theorem witness_JoinEntersListening :
    unjoined.ctrl.station = .unjoined ∧ unjoined.clock.isSet = true ∧ unjoined.ctrl.config.stationId ≠ 0 ∧
    10 ≤ pScale unjoined.ctrl.config ∧ unjoined.ctrl.config.deadband < unjoined.ctrl.config.fullDeviation ∧
    unjoined.pledge.boundaryPending = false ∧ unjoined.ctrl.filter ≠ .active ∧
    ({ unjoined.ctrl with filter := .active, swarn := true } : Controller).filter = .active := by decide

theorem witness_LeaveByState :
    unjoined.ctrl.station = .unjoined ∧ listening.ctrl.station = .listening ∧
    (suspended .delivery).ctrl.station = .suspended ∧ active.ctrl.station = .active ∧
    leaving.ctrl.station = .leaving ∧ leaving.ctrl.leaving.isSome = true ∧ HorizonLaw active ∧
    (active.line.queue.find? fun e => e.key == .withdraw) = none ∧ active.line.queue.length < 12 := by decide +kernel

/-- The two clauses of a WITHDRAW that meets one of its kind, waiting and in flight, and of one at a full queue. -/
theorem witness_WithdrawnWhole :
    let w : QEntry := ⟨.withdraw, some ⟨.owner, 1803, 1⟩, 3, 0, false, .absent⟩
    ([w].find? fun e => e.key == .withdraw) = some w ∧ w.inFlight = false ∧ w.content.isSome = true ∧
    ({ w with inFlight := true } : QEntry).inFlight = true ∧
    ((fullQueue.find? fun e => e.key == .withdraw) = none ∧ 12 ≤ fullQueue.length) := by decide +kernel

theorem witness_ClearSuspendByCause :
    (let s := suspended .inverter
     s.ctrl.station = .suspended ∧
       ¬ (s.ctrl.suspendReason = some .inverter ∧ s.mon.fb = .lost ∨
          s.ctrl.suspendReason = some .supply ∧ s.ctrl.filter = .active) ∧ s.ctrl.filter ≠ .active) ∧
    (let s := { suspended .inverter with mon := DeliveryMonitor.reset }
     s.ctrl.suspendReason = some .inverter ∧ s.mon.fb = .lost) ∧
    (let s := { suspended .delivery with ctrl := { (suspended .delivery).ctrl with filter := .active } }
     s.ctrl.station = .suspended ∧ ¬ (s.ctrl.suspendReason = some .supply) ∧ s.ctrl.filter = .active) := by decide +kernel

theorem witness_SupplyWarningFiltered :
    active.ctrl.swarn = false ∧ (SupplyFilter.timing 0).isTiming = true ∧
    (suspended .delivery).ctrl.station ≠ .active ∧ listening.ctrl.station = .listening := by decide +kernel

theorem witness_ListeningPeriodEnds :
    listening.ctrl.station = .listening ∧ listening.ctrl.listening.isSome = true ∧ listening.ctrl.filter ≠ .active ∧
    listening.mon.fb = .present ∧ ({ listening with mon := .reset } : State).mon.fb = .lost ∧
    listening.ctrl.staleMs < listening.ctrl.config.staleLimit * 1000 ∧ listening.pledge.comp = none ∧
    (withComputation false listening).pledge.comp.isSome = true := by decide +kernel

/-- R15: an entry into ACTIVE with the state-stale timer at its limit, with nothing and with a computation in flight. -/
theorem witness_ListeningPeriodEnds_state_stale :
    (let s := { listening with ctrl := { listening.ctrl with staleMs := listening.ctrl.config.staleLimit * 1000 } }
     s.ctrl.stale = false ∧
     ([s, withComputation false s].map fun s =>
      let t := after .listeningTimerExpiry s
      (t.ctrl.stale, flagSet .stateStale t, t.pledge.comp.map (·.stale), t.pledge.rerun)) =
      [(true, true, some true, some false), (true, true, some false, some false)]) := by decide +kernel

theorem witness_IntervalMarkChecks :
    leaving.ctrl.station = .leaving ∧ 299 < (300 : Word).toNat ∧
    ({ active.clock with mark := some ⟨1, 0⟩ } : IntervalClock).mark.isSome = true ∧
    (active.clock.isSet = true ∧ active.ctrl.station = .active ∧
      ∀ d ∈ List.range 8, (1809 : Word) ≠ active.clock.current + BitVec.ofNat 16 d) ∧
    ¬ (∀ d ∈ List.range 8, (1808 : Word) ≠ active.clock.current + BitVec.ofNat 16 d) := by decide +kernel

theorem witness_IntervalMarkAccepted :
    (299 : Word).toNat ≤ 299 ∧ active.clock.mark = none ∧ active.clock.rebuild = none ∧
    unjoined.ctrl.station = .unjoined ∧ listening.ctrl.station = .listening ∧ active.ctrl.station = .active ∧
    active.clock.isSet = true ∧ (1801 : Word) = active.clock.current ∧
    (1808 : Word) = active.clock.current + BitVec.ofNat 16 7 := by decide +kernel

/-- Second 299 stands, and a computation may be in flight. -/
def atEnd (s : State) : State := { s with clock := { s.clock with second := 299 } }

theorem witness_SecondsAndBoundaries :
    active.clock.second < 299 ∧ active.clock.mark = none ∧ active.clock.rebuild = none ∧
    ({ active.clock with mark := some ⟨1, 0⟩ } : IntervalClock).mark.isSome = true ∧
    (atEnd active).clock.second = 299 ∧ (atEnd active).pledge.boundaryPending = false ∧
    (atEnd State.reset).clock.isSet = false ∧ LogLaw active ∧ (atEnd active).pledge.comp = none ∧
    recordKeys (atEnd active).table = horizonPairs (atEnd active).clock.current ∧
    (atEnd (withComputation false active)).pledge.comp.isSome = true ∧
    (atEnd (withComputation false active)).pledge.boundaryPending = false := by decide +kernel

/-- R74: of the entries of the interval that ends the one in flight stays, and so do those of later intervals. -/
theorem test_boundary_purges_the_ended_interval :
    let q := [entry (.award 1801 .raise) none, entry (.award 1802 .raise) none, entry (.take 1801 .lower) none,
      entry (.take 1802 .lower) none, entry .pledge none]
    ((after .intervalBoundary (atEnd (queued q active))).line.queue.map (·.key)).take 3 =
      [.award 1802 .raise, .take 1802 .lower, .pledge] ∧
    ((after .intervalBoundary (atEnd { queued ({ entry (.award 1801 .raise) none with inFlight := true } :: q.drop 1) active with
      line := { (queued ({ entry (.award 1801 .raise) none with inFlight := true } :: q.drop 1) active).line with
        tx := .sending } })).line.queue.map (·.key)).take 2 = [.award 1801 .raise, .award 1802 .raise] := by decide +kernel

/-- Lines whose purged queue keeps its head, gets a new one, and is empty; and a D that is unchanged, and one that moves from
the running take of 1801 to that of 1802 by 9 and by 10 beside a reference delta of 0. -/
theorem witness_BoundaryIssued :
    isBefore 1801 (active.clock.current + 1) = true ∧ isBefore 1802 (active.clock.current + 1) = false ∧
    (queued [entry .pledge none] active).line.tx = .waiting ∧
    (after .intervalBoundary (atEnd active)).act.delta = active.act.delta ∧
    ([9, 10].map fun take =>
      let s := (atEnd (stepped 0 active)).updRec 1802 .raise fun r => { r with take := take }
      let t := after .intervalBoundary s
      (s.mon.window != .stopped, t.act.delta - s.mon.reference, t.mon.window, t.mon.judgeMs)) =
      [(true, 9, .judging, some 400), (true, 10, .settling, none)] := by decide +kernel

def marking (left : Nat) (s : State) : State := { s with clock := { s.clock with mark := some ⟨left, 180⟩ } }

theorem witness_MarkBoundariesIssued :
    (marking 2 active).clock.mark = some ⟨2, 180⟩ ∧ (marking 1 active).clock.mark = some ⟨1, 180⟩ ∧
    active.pledge.comp = none ∧ active.pledge.boundaryPending = false ∧ active.ctrl.station ≠ .unjoined ∧
    recordKeys active.table = horizonPairs active.clock.current ∧ (marking 1 unjoined).clock.mark.isSome = true := by
  decide +kernel

theorem witness_RebuildPerformed :
    ({ listening.clock with rebuild := some ⟨1900, 0⟩ } : IntervalClock).rebuild = some ⟨1900, 0⟩ ∧
    listening.pledge.comp = none ∧ listening.pledge.boundaryPending = false ∧ listening.ctrl.station ≠ .unjoined ∧
    0 < cfg.gateLead ∧ cfg.gateLead < 7 ∧
    (let s := { stepped 10 active with clock := { active.clock with rebuild := some ⟨1900, 0⟩ } }
     (recompute s).act.delta = 10 ∧ (after .rebuild (recompute s)).act.delta = 0) ∧
    unjoined.ctrl.station = .unjoined := by decide +kernel

theorem witness_SettingChecks :
    leaving.ctrl.station = .leaving ∧ active.ctrl.station ≠ .leaving ∧
    (withComputation false active).pledge.comp.isSome = true ∧ active.pledge.comp = none ∧
    active.pledge.boundaryPending = false ∧ (1300 : Word).toNat < (1301 : Word).toNat ∧
    10000 < (10001 : Word).toNat ∧ ¬ 10000 < (10000 : Word).toNat ∧ 15 < (16 : Byte).toNat ∧
    unjoined.ctrl.station = .unjoined ∧ ({ active.ctrl with stale := true } : Controller).stale = true ∧
    (after (.setState ⟨9, some ⟨812, 200, 1300⟩⟩) active).host.held = some (plain .done) := by decide +kernel

theorem witness_SetStateStores :
    active.ctrl.station ≠ .leaving ∧ active.pledge.comp = none ∧ active.pledge.boundaryPending = false ∧
    (200 : Word).toNat ≤ (200 : Word).toNat ∧ (10000 : Word).toNat ≤ 10000 ∧ (1300 : Word).toNat < (1301 : Word).toNat ∧
    (after (.setState ⟨9, some ⟨812, 1301, 1300⟩⟩) active).host.held ≠ some (plain .done) := by decide +kernel

theorem witness_PriceAndBaselineStored :
    unjoined.ctrl.station ≠ .leaving ∧ active.pledge.comp = none ∧ active.pledge.boundaryPending = false ∧
    (15 : Byte).toNat ≤ 15 ∧ active.ctrl.station ≠ .unjoined ∧
    1 ≤ ([600] : List (BitVec 32)).length ∧ (List.replicate 8 (600 : BitVec 32)).length ≤ 8 ∧
    inHorizon active.clock.current (1801 + BitVec.ofNat 16 7) = true ∧
    inHorizon active.clock.current 1802 = true ∧ (1802 : Word) ≠ 1801 + BitVec.ofNat 16 0 := by decide +kernel

theorem witness_AvailabilityStored :
    awarded299.ctrl.station ≠ .leaving ∧ awarded299.pledge.comp = none ∧ awarded299.pledge.boundaryPending = false ∧
    HorizonLaw awarded299 ∧ 1 ≤ ([0] : List Byte).length ∧ inHorizon awarded299.clock.current 1803 = true ∧
    ((findRec awarded299.table 1803 .raise).any fun r => r.state == .awarded) = true ∧
    flagFor (availOf awarded299.pledge 1803) .raise = true ∧ flagFor (availabilityFlags 0) .raise = false ∧
    (suspended .delivery).ctrl.station ≠ .active ∧ awarded299.ctrl.station = .active ∧ QueueLaw awarded299 := by
  decide +kernel

theorem witness_FreshPledgeForm :
    flagFor (false, true) .raise = false ∧ ({ workedComputation 800 with stale := true } : Computation).stale = true ∧
    -(cfg.chargeMax : Int) ≤ ({ workedComputation 800 with baselines := [-500, 500] } : Computation).baselines.getD 0 0 ∧
    ({ workedComputation 800 with baselines := [-500, 500] } : Computation).baselines.getD 1 0 ≤ cfg.dischargeMax ∧
    PledgeEngine.reset.positioned = false ∧
    (let t := after (.setState ⟨9, some ⟨812, 200, 1300⟩⟩) active
     active.pledge.positioned = false ∧ t.host.held = some (plain .done) ∧ t.pledge.positioned = true ∧
       (after (.restart ⟨3, some ()⟩) t).pledge.positioned = false) := by decide +kernel

theorem witness_ComputationWrites :
    (let s := withComputation true awarded299
     s.pledge.comp.isSome = true ∧ s.pledge.boundaryPending = false ∧ s.pledge.rerun = none ∧ s.entryTakesDue = false ∧
       (∀ q ∈ s.table, q.evalPending = false) ∧
       ((findRec s.table 1803 .raise).any fun r => decide (r.take = 299)) = true ∧
       ((findRec s.table 1804 .raise).any fun r => r.state == .opened) = true) ∧
    (let s := withComputation false active
     let held := { s with clock := { s.clock with current := 1802 }, pledge := { s.pledge with boundaryPending := true } }
     held.pledge.boundaryPending = true ∧ HorizonLaw held ∧ held.ctrl.station ≠ .unjoined) ∧
    (let s := withComputation false active
     ({ s.pledge with rerun := some true } : PledgeEngine).rerun = some true) := by decide +kernel

/-- A lock that ends over an awarded record of take 0, one whose hold is stopped and whose pending flag is set, or one with
the merit take of the entry into ACTIVE due. Offers of 390 and a wide rating keep the cap. -/
def lockEnding (entryDue pending : Bool) : State :=
  withComputation false { (awarded299.updRec 1803 .raise fun r => { r with take := 0, evalPending := pending }) with
    entryTakesDue := entryDue
    pledge := { workedPledge 1000 with refresh := some 30000 } }

theorem witness_ComputationWrites_at_the_end_of_the_lock :
    (lockEnding true false).entryTakesDue = true ∧ (lockEnding true false).pledge.rerun = none ∧
    HorizonLaw (lockEnding true false) ∧ (lockEnding true false).ctrl.station = .active ∧
    (let t := after .computationEnd (lockEnding true false)
     ((findRec t.table 1803 .raise).map fun r => (r.cap, r.take, r.hold)) = some (some 390, 299, some 3750) ∧
       t.entryTakesDue = false ∧ flagSet .take t = true ∧ t.line.queue.map (·.key) = [.pledge, .take 1803 .raise]) ∧
    ((findRec (lockEnding false true).table 1803 .raise).any fun r => r.evalPending && r.hold.isNone) = true ∧
    (let t := after .computationEnd (lockEnding false true)
     ((findRec t.table 1803 .raise).map fun r => (r.take != 0, r.hold, r.evalPending)) =
       some (true, some 3750, false)) := by decide +kernel

/-- A boundary computation that finds a record OPEN at the gate, at slot G = 2. -/
def openAtGate : State :=
  withComputation true (active.updRec 1803 .raise fun _ => openRecord 1803 .raise)

theorem witness_ComputationWrites_at_the_gate :
    (openAtGate.pledge.comp.map (·.boundary)) = some true ∧ slotOf openAtGate.clock.current 1803 = cfg.gateLead ∧
    ((findRec openAtGate.table 1803 .raise).any fun r => r.state == .opened) = true ∧
    openAtGate.ctrl.config.uplink = true ∧ HorizonLaw openAtGate ∧ openAtGate.pledge.boundaryPending = false ∧
    ({ openAtGate.ctrl.config with uplink := false } : StationConfig).uplink = false ∧
    openAtGate.ctrl.station = .active ∧
    ((after .computationEnd openAtGate).pledge.ladders.map fun l => (l.interval, l.dir)) = [(1803, .raise)] ∧
    (after .computationEnd openAtGate).line.queue.map (·.key) = [.pledge] := by decide +kernel

theorem witness_TimersTriggerComputations :
    (let s := { active with ctrl := { active.ctrl with staleMs := 120000 } }
     s.ctrl.staleMs ≤ s.ctrl.config.staleLimit * 1000 ∧ s.ctrl.station = .active ∧ s.ctrl.stale = false ∧
       s.pledge.comp = none) ∧
    listening.ctrl.station ≠ .active ∧ active.pledge.refresh.isSome = true ∧
    (withComputation false active).pledge.comp.isSome = true ∧
    ({ unjoined.pledge with refresh := some 0 } : PledgeEngine).refresh.isSome = true := by decide +kernel

theorem witness_InjectAwardChecks :
    HorizonLaw awarded299 ∧ awarded299.ctrl.config.uplink = true ∧ awarded299.ctrl.station = .active ∧
    awarded299.pledge.comp = none ∧ 15 < (16 : Byte).toNat ∧ 8 ≤ ((1809 : Word) - tableFirst awarded299).toNat ∧
    ¬ 8 ≤ ((1808 : Word) - tableFirst awarded299).toNat ∧ (cfg.zone ^^^ 0x1300) &&& ~~~(0x00FF : Word) ≠ 0 ∧
    (((findRec awarded299.table 1803 .raise).bind (·.award)).any fun h => decide ((0 : Byte).toNat < h.issue)) = true := by
  decide +kernel

theorem witness_ReceivedAwardMeetsRecord :
    HorizonLaw awardWaits ∧ FrontFrame awardWaits heardAward [] ∧ awardWaits.ctrl.station ≠ .leaving ∧
    zoneMatch awardWaits.ctrl.config.zone 0x1200 0x00FF = true ∧
    (findRec awardWaits.table 1803 .raise).isSome = true ∧
    HorizonLaw (receiving heardAward leaving) ∧ FrontFrame (receiving heardAward leaving) heardAward [] ∧
    HasRoom awardWaits heardAward ∧ inHorizon (tableFirst awardWaits) 1803 = true := by decide +kernel

/-- The award of section 6.7 for interval 1809, beyond the horizon, and with a pattern of another zone: ignored (Table 6-2). -/
theorem witness_ReceivedAwardMeetsRecord_ignored :
    ([({ heardAward with body := .award 1809 .raise 1 5 2000 0x1200 0x00FF } : Notice),
      { heardAward with body := .award 1803 .raise 1 5 2000 0x1300 0x00FF }].map fun n =>
      decide (FrontFrame (receiving n closed390) n []) &&
        decide ((after .receivedAward (receiving n closed390)).table = closed390.table)) = [true, true] ∧
    inHorizon (tableFirst closed390) 1809 = false ∧ inHorizon (tableFirst closed390) 1808 = true ∧
    (closed390.ctrl.config.zone ^^^ 0x1300) &&& ~~~(0x00FF : Word) ≠ 0 := by decide +kernel

theorem witness_InjectedAwardMeetsRecord :
    HorizonLaw closed390 ∧ QueueLaw closed390 ∧ closed390.ctrl.config.uplink = true ∧ closed390.ctrl.station = .active ∧
    closed390.pledge.comp = none ∧ (15 : Byte).toNat ≤ 15 ∧ (findRec closed390.table 1803 .raise).isSome = true ∧
    zoneMatch closed390.ctrl.config.zone 0x1200 0x00FF = true ∧
    ((findRec closed390.table 1803 .raise).bind (·.award)) = none ∧
    (HorizonLaw awarded299 ∧ ((findRec awarded299.table 1803 .raise).bind (·.award)) = some (issue1 2000)) ∧
    listening.ctrl.station = .listening ∧ ownMerit members68 (issue1 2000) ⟨390, 5⟩ ≠ 0 := by decide +kernel

theorem witness_ConflictOrderIndependent :
    (issue1 2000 :: [issue1 2280]).Perm (issue1 2280 :: [issue1 2000]) ∧ (issue1 2280).greater (issue1 2000) = true := by
  decide

theorem witness_MeritTakesWithinQuantity :
    sumBelow 5 members68 (some ⟨390, 5⟩) ≤ (issue1 1080).quantity ∧
    (issue1 2280).quantity ≤ sumBelow 5 members68 (some ⟨390, 5⟩) + sumAt 5 members68 (some ⟨390, 5⟩) := by decide

theorem witness_EvaluationByRank :
    (299 : Nat) ≤ 390 ∧ (∀ m ∈ members68, m.id ≠ 23) ∧
    (let cover := coverOf members68 (issue1 2000) ⟨390, 5⟩ 299
     (issue1 2000).quantity ≤ cover + 20 ∧ cover ≤ 2000 + 2000 * 4 / 64 + 20) ∧
    (let cover := coverOf members68 (issue1 2000) ⟨390, 5⟩ 279
     (279 : Nat) ≤ 390 ∧ cover + 20 < 2000) ∧
    (let ms := [(⟨9, 4, 2125, some ⟨1803, .raise, 2125, 1⟩⟩ : Member)]
     (∀ m ∈ ms, m.id ≠ 23) ∧ 2000 + 2000 * 4 / 64 + 20 < coverOf ms (issue1 2000) ⟨390, 5⟩ 21) := by decide

def holding (pending : Bool) : State := awarded299.updRec 1803 .raise fun r => { r with hold := some 0, evalPending := pending }

theorem witness_HoldExpires :
    ((findRec (holding false).table 1803 .raise).any fun r => r.hold.isSome && !r.evalPending) = true ∧
    ((findRec (holding true).table 1803 .raise).any fun r => r.hold.isSome && r.evalPending && r.award.isSome) = true ∧
    (withComputation false (holding true)).pledge.comp.isSome = true ∧ (holding true).pledge.comp = none ∧
    (holding true).ctrl.station = .active ∧ (suspended .delivery).ctrl.station ≠ .active ∧
    (after (.holdExpiry 1803 .raise) (holding true)).line.queue = [] := by decide +kernel

/-- A short record that runs at its award: its pending evaluation lifts the running take, and with it D and max take. -/
theorem witness_HoldExpires_of_a_running_record :
    let s := { ((stepped 0 active).updRec 1801 .raise fun r =>
      { r with
        frozen := some 390, cap := some 390, frozenBand := some 5, award := some (issue1 2000), hold := some 0
        evalPending := true, run := some ⟨0, 0, 0, 0, 0⟩ }) with pledge := active.pledge }
    let t := after (.holdExpiry 1801 .raise) s
    ((findRec t.table 1801 .raise).map fun r => (r.take, r.hold, r.run.map (·.maxTake), r.run.map (·.minTake))) =
      some (390, some 3750, some 390, some 0) ∧
    t.act.delta = 390 ∧ t.mon.window = .settling ∧ t.mon.reference = 390 ∧
    t.line.queue.map (·.key) = [.take 1801 .raise] := by decide +kernel

/-- R83, R118: C's withdrawal, ageing or removal is a trigger for the record of 1803: evaluated at once, or pending under a
hold or a lock. -/
theorem test_report_acts_on_the_awarded_record :
    ([receiving withdrawOfC awarded299,
      receiving withdrawOfC (awarded299.updRec 1803 .raise fun r => { r with hold := some 100 })].map fun s =>
      (findRec (after .receivedWithdraw s).table 1803 .raise).map fun r => (r.take, r.hold, r.evalPending)) =
      [some (390, some 3750, false), some (299, some 100, true)] ∧
    ([awarded299, withComputation false awarded299].map fun s => [Instr.peerStale 17, .peerRemoved 17].map fun i =>
      (findRec (after i s).table 1803 .raise).map fun r => (r.take, r.evalPending)) =
      [[some (390, false), some (390, false)], [some (299, true), some (299, true)]] := by decide +kernel

/-- R82 makes FRESH C WITHDRAWN by its full withdrawal; R78 lets STALE C stay STALE, its age 0 and its heard take zeroed. -/
theorem test_stale_record_stays_stale_at_a_withdraw :
    (let staleC := { awarded299 with view := awarded299.view.map fun p =>
      if p.id = 17 then { p with status := .stale, ageMs := 95000 } else p }
     [awarded299, staleC].map fun s =>
      (findPeer (after .receivedWithdraw (receiving withdrawOfC s)).view 17).map fun p =>
        (p.status, p.ageMs, (p.heardAt 1803 .raise).map (·.amount))) =
      [some (.withdrawn, 0, some 0), some (.stale, 0, some 0)] := by decide +kernel

theorem witness_PledgeNoticeTaken :
    FrontFrame (receiving pledgeFrame active) pledgeFrame [] ∧ HasRoom (receiving pledgeFrame active) pledgeFrame ∧
    ([⟨2, 3, 480, 0⟩] : List SlotEntry).length ≤ 8 ∧ FrontFrame (receiving eightEntries active) eightEntries [] ∧
    HasRoom (receiving eightEntries awarded299) eightEntries ∧ inHorizon active.clock.current 1801 = true ∧
    inHorizon active.clock.current 1808 = true ∧ (1808 : Word) ≠ 1801 + BitVec.ofNat 16 0 := by decide +kernel

theorem witness_TakeAndWithdrawNoticesTaken :
    FrontFrame (receiving takeFrame awarded299) takeFrame [] ∧ HasRoom (receiving takeFrame awarded299) takeFrame ∧
    FrontFrame (receiving withdrawOfC awarded299) withdrawOfC [] ∧
    HasRoom (receiving withdrawOfC awarded299) withdrawOfC ∧
    (inHorizon awarded299.clock.current 1808 = true ∧ (0xFF : Byte).getLsbD 7 = true ∧ (1808 : Word) = 1801 + BitVec.ofNat 16 7) ∧
    ¬ inHorizon awarded299.clock.current 1809 = true := by decide +kernel

/-- A view of 47 records, the first of them in a status. -/
def fullView (first : PeerStatus) : List Peer :=
  (List.range 47).map fun i => ⟨i + 101, 0, if i = 0 then first else .fresh, 90000, [], []⟩

def crowded (first : PeerStatus) : State := receiving takeFrame { active with view := fullView first }

theorem witness_FullViewMakesRoom :
    FrontFrame (crowded .fresh) takeFrame [] ∧ dueDispatch (crowded .fresh) = [.receivedTake] ∧
    (crowded .fresh).view.length = 47 ∧ findPeer (crowded .fresh).view takeFrame.sender.toNat = none ∧
    (∀ p ∈ (crowded .fresh).view, p.status ≠ .stale) ∧
    FrontFrame (crowded .stale) takeFrame [] ∧ dueDispatch (crowded .stale) = [.receivedTake] ∧
    ((crowded .stale).view.map (·.id)).Nodup ∧
    (⟨101, 0, .stale, 90000, [], []⟩ : Peer) ∈ (crowded .stale).view ∧
    (∀ p ∈ (crowded .stale).view, p.status = .stale → p.ageMs < 90000 ∨ (p.ageMs = 90000 ∧ 101 ≤ p.id)) := by
  decide +kernel

/-- An AWARD at a view of 47 records, none of them STALE, and one of them STALE. -/
theorem witness_ReceivedAwardMeetsRecord_without_room :
    (let s := receiving heardAward { closed390 with view := fullView .fresh }
     HorizonLaw s ∧ FrontFrame s heardAward [] ∧ ¬ HasRoom s heardAward ∧ (∀ p ∈ s.view, p.status ≠ .stale) ∧
       flagSet .viewFull (after .receivedAward s) = true ∧
       ((findRec (after .receivedAward s).table 1803 .raise).map (·.state)) = some .awarded) ∧
    (let s := receiving heardAward { closed390 with view := fullView .stale }
     ¬ HasRoom s heardAward ∧ (∃ p ∈ s.view, p.status = .stale) ∧ dueDispatch s = [.receivedAward] ∧
       findPeer (after .receivedAward s).view 101 = none) := by decide +kernel

theorem witness_PeersAge :
    (findPeer awarded299.view 44).isSome = true ∧ findPeer awarded299.view 45 = none ∧ (5 : Nat) ≠ 44 ∧
    ((findRec awarded299.table 1803 .raise).bind (·.award)).isSome = true ∧ awarded299.ctrl.station = .active := by
  decide +kernel

theorem witness_CrossingsAndMisses :
    active.freq.reference = none ∧ 300000 ≤ active.freq.missStart + 300000 ∧ metering.freq.reference = some 1000000 ∧
    1220001 ≤ metering.freq.missStart + 300000 ∧ ¬ 1300001 ≤ metering.freq.missStart + 300000 ∧
    0 + (1600001 - metering.freq.missStart - 1) / 300000 < 3 ∧ 3 ≤ 0 + (1900001 - metering.freq.missStart - 1) / 300000 ∧
    1079999 - 1000000 < 80000 ∧
    80000 ≤ 1080000 - 1000000 ∧ 1179999 - 1000000 < 180000 ∧ 220000 < 1220001 - 1000000 ∧
    180000 ≤ 1180000 - 1000000 ∧ 1220000 - 1000000 ≤ 220000 ∧ metering.freq.state = .valid ∧
    metering.freq.invalids < 2 ∧ 2 ≤ ({ metering.freq with invalids := 2 } : FrequencyMeter).invalids ∧
    active.freq.state = .invalid ∧
    (let t := after (.crossing 1200000) metering
     t.freq.measured = some 49944) ∧
    (let s := { metering with freq := { metering.freq with state := .invalid, ring := [200000] } }
     (s.freq.ring ++ [200000]).length ≠ s.ctrl.config.averaging) := by decide +kernel

theorem witness_SetpointFollowsDeviation :
    cfg.deadband < cfg.fullDeviation ∧ (15 : Nat) < 16 ∧
    (let x : Int := |(49979 : Int) - 50000| - cfg.deadband
     0 < x ∧ x ≤ (cfg.fullDeviation : Int) - cfg.deadband) ∧
    |(50020 : Int) - 50000| - (cfg.deadband : Int) ≤ 0 ∧
    (cfg.fullDeviation : Int) - cfg.deadband ≤ |(49500 : Int) - 50000| - cfg.deadband ∧
    (16 : Nat) ≤ 16 ∧ 0 < 1000 ∧ (-1000 : Int).natAbs ≤ 1000 := by decide

/-- R154: against a reference of 0 a new D of 9 leaves the window, one of 10 starts settling afresh with D as reference; a
crossing that finds the frequency INVALID hands over 0. -/
theorem witness_SetpointFollowsDeviation_handed :
    ([9, 10].map fun take =>
      let s := stepped take active
      let t := recompute s
      (t.act.delta != s.act.delta, t.mon.heldD, t.mon.window, t.mon.judgeMs, t.mon.reference)) =
      [(true, 9, .judging, some 400, 0), (true, 10, .settling, none, 10)] ∧
    (stepped 9 active).mon.window ≠ .stopped ∧
    (let s := { recompute (stepped 10 active) with freq := metering.freq }
     (after (.crossing 1300001) s).act.delta = 10 ∧ (after (.crossing 1900001) s).act.delta = 0) := by decide +kernel

theorem witness_FeedbackMeasuredAndLost :
    (8000 : Nat) ≤ 8000 ∧ (12500 : Nat) ≤ 12500 ∧ (4000 : Nat) ≤ 8000 ∧ (7999 : Nat) < 8000 ∧ 12500 < 12501 ∧
    State.reset.mon.fb = .lost ∧ active.mon.fb = .present ∧ active.ctrl.station = .active ∧
    listening.mon.fb = .present ∧ listening.ctrl.station ≠ .active := by decide

theorem witness_MeasurementPeriodEnds :
    (active.table.any fun r => r.state == .running) = true ∧
    (active.table.any fun r => r.state != .running) = true := by decide +kernel

theorem witness_VerdictsReachTheCounter :
    ({ active.mon with window := .settling } : DeliveryMonitor).window = .settling ∧
    (judging 242 222).mon.window = .judging ∧ |((222 : Int) - 242)| ≤ max 20 (|(242 : Int)| / 16) ∧
    ¬ |((221 : Int) - 242)| ≤ max 20 (|(242 : Int)| / 16) ∧
    (after .judgePeriodEnd (judging 242 221)).mon.errors ≠ (judging 242 221).mon.errors ∧
    (judging 242 221).ctrl.config.suspendAt ≤ 5 + 1 ∧ ¬ (judging 242 221).ctrl.config.suspendAt ≤ 4 + 1 ∧
    ((judging 242 221).table.any fun r => r.state == .running && r.run.isSome) = true ∧
    (judging 242 221).ctrl.station = .active := by decide +kernel

/-- The line with a TAKE entry at the head. -/
def waiting (k : NoticeKey) (w : Option WithdrawContent) : State :=
  { awarded299 with line := { awarded299.line with tx := .waiting, run := some 34, queue := [entry k w] } }

theorem witness_CarrierSensed :
    ({ active.line with cdet := true } : LineInterface).cdet = true ∧ active.line.cdet = false ∧
    active.ctrl.station ≠ .unjoined ∧ active.line.tx ≠ .sending ∧
    ({ active.line with cdet := true, carrier := true } : LineInterface).carrier = true ∧
    (waiting .pledge none).line.tx = .waiting ∧ (waiting .pledge none).line.queue ≠ [] ∧
    unjoined.ctrl.station = .unjoined ∧ ({ active.line with burst := some 2 } : LineInterface).burst.isSome = true ∧
    (after .lineCarrier { active with line := { active.line with burst := some 2 } }).line.receiver = .whole ∧
    active.line.tx = .idle ∧ ({ active.line with tx := .jammed } : LineInterface).tx = .jammed ∧
    active.line.queue = [] := by decide +kernel

theorem witness_HeadPutInFlight :
    (let s := waiting (.take 1803 .raise) none
     s.ctrl.station ≠ .unjoined ∧ s.line.tx = .waiting ∧ s.line.run.isSome = true ∧ s.line.carrier = false ∧
       s.line.queue = [entry (.take 1803 .raise) none] ∧
       ((findRec s.table 1803 .raise).bind (·.award)) = some (issue1 2000) ∧
       ((findRec s.table 1804 .raise).bind (·.award)) = none) ∧
    (waiting (.award 1803 .raise) none).line.queue = [entry (.award 1803 .raise) none] ∧
    (waiting .withdraw (some ⟨.owner, 1801, 1⟩)).line.queue = [entry .withdraw (some ⟨.owner, 1801, 1⟩)] ∧
    (waiting .pledge none).line.queue = [entry .pledge none] ∧
    (findRec (waiting .pledge none).table (tableFirst (waiting .pledge none) + BitVec.ofNat 16 2) .raise).isSome = true := by
  decide +kernel

def sending (e : QEntry) (rest : List QEntry) (s : State) : State :=
  { s with line := { s.line with tx := .sending, sending := some ⟨[], 0⟩, queue := { e with inFlight := true } :: rest } }

theorem witness_TransmissionEnds :
    (let s := sending (entry .withdraw (some ⟨.leave, 1801, 0xFF⟩)) [] leaving
     s.ctrl.station ≠ .unjoined ∧ s.line.tx = .sending ∧ s.ctrl.station = .leaving) ∧
    (let s := sending (entry (.take 1803 .raise) none) [entry .pledge none] awarded299
     s.line.tx = .sending ∧ (∀ x ∈ s.line.queue.drop 1, x.inFlight = false) ∧
       ¬ isBefore 1803 s.clock.current = true ∧ (NoticeKey.take 1803 .raise).interval = some 1803 ∧
       ¬ (entry (.take 1803 .raise) none).sends ≤ 1) ∧
    isBefore 1800 awarded299.clock.current = true ∧
    ({ entry (.take 1803 .raise) none with sends := 1 } : QEntry).sends ≤ 1 ∧
    (let w := { entry .withdraw (some ⟨.owner, 1803, 3⟩) with renewal := .withdraw ⟨.delivery, 1802, 0xFF⟩ }
     w.key = .withdraw ∧ w.content = some ⟨.owner, 1803, 3⟩ ∧
       mergeWithdraw 1802 ⟨.owner, 1803, 3⟩ ⟨.delivery, 1802, 0xFF⟩ = ⟨.delivery, 1802, 0xFF⟩) := by decide +kernel

/-- The queue of section 4.7 in kind: twelve entries wait, the last of group B a TAKE. -/
theorem witness_TransmissionEnds_inserts :
    (let s := { active with line := { active.line with tx := .jammed, queue := fullQueue } }
     QueueLaw s ∧ 12 ≤ s.line.queue.length ∧ (s.line.queue.find? fun e => e.key == .withdraw) = none ∧
       (s.line.queue.find? fun e => e.key == .take 1803 .raise) = some (entry (.take 1803 .raise) none) ∧
       (s.line.queue.filter fun e => e.key == .pledge) = []) ∧
    (let s := { active with line := { active.line with tx := .jammed, queue := entry .pledge none :: fullQueue.drop 4 } }
     s.line.queue.length = 9 ∧ QueueLaw s ∧ (s.line.queue.any fun e => e.key == .pledge) = true) ∧
    QueueLaw (sending (entry (.take 1803 .raise) none) [entry .pledge none] awarded299) ∧
    ((some ⟨.owner, 1803, 3⟩ : Option WithdrawContent).isSome = true ↔ NoticeKey.withdraw = .withdraw) := by decide +kernel

theorem witness_FramesClosed :
    (frameBytes eightEntries).length = 49 ∧ unjoined.ctrl.station = .unjoined ∧ active.ctrl.station ≠ .unjoined ∧
    active.line.tx ≠ .sending ∧ (hearing .whole active).line.receiver = .whole ∧
    ((hearing (.since 32) active).line.receiver = .since 32 ∧ 5 * (6 + heardTake.length) ≤ 3 * 32 ∧
      ¬ 5 * (6 + heardTake.length) ≤ 3 * 31) ∧
    active.line.receiver = .idle ∧ checkFrame (List.replicate 49 0) = none ∧
    checkFrame (frameBytes takeFrame) = some takeFrame ∧ takeFrame.sender.toNat ≠ active.ctrl.config.stationId ∧
    checkFrame (frameBytes { takeFrame with sender := 23 }) = some { takeFrame with sender := 23 } ∧
    (receiving takeFrame active).line.rx.length < 4 ∧
    4 ≤ ({ active.line with rx := List.replicate 4 takeFrame } : LineInterface).rx.length := by decide +kernel

/-! ### The laws hold together, with a command that completes -/

/-- A state that keeps every law, with a command in front. -/
def lawful : State := { awarded299 with pending := [.clockSecond] }

/-- Whether a step answers a next state. -/
def goesOn (s : State) : Bool :=
  match step s with
  | .next _ => true
  | .fault _ => false
  | .refused _ => false

theorem witness_StationKept :
    ConfigLaw lawful ∧ ClockLaw lawful ∧ StationLaw lawful ∧ UnjoinedLaw lawful ∧
    goesOn lawful = true := by
  decide +kernel
theorem lawful_table : ConfigLaw lawful ∧ TableLaw lawful := ⟨by decide +kernel, by decide +kernel⟩
theorem witness_HorizonKept : (ConfigLaw lawful ∧ TableLaw lawful) ∧ goesOn lawful = true :=
  ⟨lawful_table, by decide +kernel⟩
theorem witness_TakesKeptWithinCaps : (ConfigLaw lawful ∧ TableLaw lawful) ∧ TakeLaw lawful ∧ goesOn lawful = true :=
  ⟨lawful_table, by decide +kernel⟩
/-- A state outside ACTIVE that keeps every law of the table, with a command in front. -/
def lawfulSuspended : State := { suspended .delivery with pending := [.clockSecond] }
theorem lawful_suspended_table : ConfigLaw lawfulSuspended ∧ TableLaw lawfulSuspended :=
  ⟨by decide +kernel, by decide +kernel⟩
theorem witness_NothingHeldOutsideActive :
    (ConfigLaw lawfulSuspended ∧ TableLaw lawfulSuspended) ∧ TakeLaw lawfulSuspended ∧ InactiveLaw lawfulSuspended ∧
    lawfulSuspended.ctrl.station ≠ .active ∧ goesOn lawfulSuspended = true ∧ InactiveLaw lawful :=
  ⟨lawful_suspended_table, by decide +kernel⟩
theorem witness_PledgesKeptInForm :
    UnjoinedLaw lawful ∧ PledgeLaw lawful ∧ EnergyLaw lawful ∧ BandLaw lawful ∧ goesOn lawful = true := by decide +kernel
theorem witness_QueueKept :
    QueueLaw { sending (entry (.take 1803 .raise) none) [entry .pledge none] awarded299 with pending := [.clockSecond] } ∧
    goesOn { sending (entry (.take 1803 .raise) none) [entry .pledge none] awarded299 with
      pending := [.clockSecond] } = true := by decide +kernel
theorem witness_StoresKeptWithinBounds :
    ViewLaw lawful ∧ BufferLaw lawful ∧ EventLaw lawful ∧ LogLaw lawful ∧ goesOn lawful = true := by decide +kernel
theorem witness_SetpointKept :
    HorizonLaw lawful ∧ ActivationLaw lawful ∧ HeldDeltaLaw lawful ∧ goesOn lawful = true := by decide +kernel
theorem witness_MonitorKept :
    ConfigLaw lawful ∧ WindowLaw lawful ∧ CounterLaw lawful ∧ MeterLaw lawful ∧ goesOn lawful = true := by decide +kernel

end Sys2Proof.Tests
end

/-! PROOFS. JOIN is checked in the order of Table 1-4 (R5): its refusals, its acceptance, and the station it leaves. -/

namespace Sys2Proof.Machine

/-! ### The station after an entry into LISTENING -/

/-- A supply request leaves a joined station joined: it either changes nothing or suspends (Table 1-6). -/
theorem supplyWhenFiltered_joined (s : State) (h : s.ctrl.station ≠ .unjoined) :
    (supplyWhenFiltered s).ctrl.station ≠ .unjoined := by
  unfold supplyWhenFiltered requestSupply
  split
  · split
    · simp [suspendStation]
    · exact h
  · exact h

theorem enterListening_joined (s : State) : (enterListening s).ctrl.station ≠ .unjoined :=
  supplyWhenFiltered_joined _ (by simp)

/-- The trigger of a changed C, after the entry into LISTENING, leaves the station as the entry put it (R6, R156). -/
theorem joinStation_joined (s : State) : (joinStation s).ctrl.station ≠ .unjoined := by
  simp only [joinStation]
  split
  · rw [(triggerComputation_frame _ _).1]
    exact enterListening_joined _
  · exact enterListening_joined _

/-! ### The command by the result of its checks -/

theorem exec_join_eq (n : Nat) (s : State) :
    exec (.join ⟨n, some ()⟩) s = .next (hostCommand ⟨n, some ()⟩ false serveJoin s) := rfl

/-- Handing out the held answer changes nothing that the checks of Table 1-4 look at. -/
@[simp] theorem joinRefusal_clockOut (n : Nat) (s : State) : joinRefusal (clockOut n s) = joinRefusal s := by
  simp [joinRefusal]

/-- Outside UNJOINED the first check of Table 1-4 fails. -/
theorem joinRefusal_of_joined {s : State} (h : s.ctrl.station ≠ .unjoined) :
    joinRefusal s = some .refusedState := by
  simp [joinRefusal, h]

theorem serveJoin_of_refused {s : State} {code : AnswerCode} (h : joinRefusal s = some code) :
    serveJoin () s = (s, plain code) := by
  simp [serveJoin, h]

theorem serveJoin_of_accepted {s : State} (h : joinRefusal s = none) :
    serveJoin () s = (joinStation s, plain .done) := by
  simp [serveJoin, h]

/-- A failed check is the answer, and nothing else changes. In LEAVING the rule of R9 answers before the table's first
check does, with the same code. -/
theorem exec_join_of_refused (n : Nat) {s : State} {code : AnswerCode} (h : joinRefusal s = some code) :
    exec (.join ⟨n, some ()⟩) s = .next (answeredOnly n (plain code) s) := by
  rw [exec_join_eq]
  by_cases hleaving : s.ctrl.station = .leaving
  · have hcode : code = .refusedState := by
      have hfirst := joinRefusal_of_joined (s := s) (by simp [hleaving])
      exact Option.some.inj (h.symm.trans hfirst)
    rw [hostCommand_leaving _ _ _ _ hleaving, hcode]
  · rw [hostCommand_served _ _ _ _ _ (.inl hleaving),
      serveJoin_of_refused ((joinRefusal_clockOut n s).trans h), holdAnswer_clockOut]

theorem exec_join_of_accepted (n : Nat) {s : State} (h : joinRefusal s = none) :
    exec (.join ⟨n, some ()⟩) s = .next (holdAnswer (plain .done) (joinStation (clockOut n s))) := by
  have hserved : s.ctrl.station ≠ .leaving := by
    intro hleaving
    simp [joinRefusal_of_joined (s := s) (by simp [hleaving])] at h
  rw [exec_join_eq, hostCommand_served _ _ _ _ _ (.inl hserved),
    serveJoin_of_accepted ((joinRefusal_clockOut n s).trans h)]

/-- Settles O14: each row of Table 1-4 gives the value of `joinRefusal`, which decides between the two forms of the
command. -/
theorem joinChecks : Obligations.JoinChecks := by
  intro n s
  dsimp only
  split_ifs with hjoined hclock hid hscale hdeadband
  · exact exec_join_of_refused n (joinRefusal_of_joined hjoined)
  · exact exec_join_of_refused n (by simp [joinRefusal, hjoined, hclock])
  · exact exec_join_of_refused n (by simp [joinRefusal, hjoined, hclock, hid])
  · exact exec_join_of_refused n (by simp [joinRefusal, pScale, hjoined, hclock, hid, hscale])
  · have hpass : joinRefusal s = none := by
      simp [joinRefusal, pScale, hjoined, hclock, hid, hscale, hdeadband]
    exact ⟨_, exec_join_of_accepted n hpass, by simp, by simpa using joinStation_joined (clockOut n s)⟩
  · exact exec_join_of_refused n (by simp [joinRefusal, pScale, hjoined, hclock, hid, hscale, not_lt.mp hdeadband])

end Sys2Proof.Machine

/-! PROOFS. INTERVAL_MARK is checked in the order of Table 2-2 (R18): its refusals, and the answer of an accepted mark. -/

namespace Sys2Proof.Machine

/-! ### The horizon by its slots -/

/-- The intervals of a horizon are those of its eight slots. -/
theorem inHorizon_iff_atSlot (first k : Word) :
    inHorizon first k = true ↔ ∃ d ∈ List.range 8, k = atSlot first d := by
  simp only [inHorizon, decide_eq_true_eq, List.mem_range]
  constructor
  · intro hslot
    exact ⟨slotOf first k, hslot, (atSlot_slotOf first k).symm⟩
  · rintro ⟨d, hd, rfl⟩
    rwa [slotOf_atSlot first d (by omega)]

/-- The offset that check 4 of Table 2-2 looks at is above 7 exactly outside the horizon. -/
theorem seven_lt_offset_iff (first k : Word) :
    7 < (k - first).toNat ↔ ∀ d ∈ List.range 8, k ≠ first + BitVec.ofNat 16 d := by
  have hslot : inHorizon first k = true ↔ (k - first).toNat < 8 := decide_eq_true_iff
  calc 7 < (k - first).toNat
      ↔ ¬ inHorizon first k = true := by rw [hslot]; omega
    _ ↔ ∀ d ∈ List.range 8, k ≠ first + BitVec.ofNat 16 d := by simp [inHorizon_iff_atSlot, atSlot]

/-! ### What the checks look at -/

theorem markInProgress_iff (s : State) :
    markInProgress s = true ↔ s.clock.mark.isSome = true ∨ s.clock.rebuild.isSome = true := by
  simp [markInProgress]

theorem marksForward_iff (s : State) :
    marksForward s = true ↔
      s.clock.isSet = true ∧ (s.ctrl.station = .active ∨ s.ctrl.station = .suspended) := by
  simp [marksForward]

/-- Handing out the held answer changes nothing that the checks of Table 2-2 look at. -/
@[simp] theorem markInProgress_clockOut (n : Nat) (s : State) :
    markInProgress (clockOut n s) = markInProgress s := by
  simp [markInProgress]

@[simp] theorem marksForward_clockOut (n : Nat) (s : State) :
    marksForward (clockOut n s) = marksForward s := by
  simp [marksForward]

/-! ### Checks 2 to 4 and the acceptance, one lemma for each row -/

theorem serveMark_of_second {b : MarkBody} {s : State} (hsecond : 299 < b.second.toNat) :
    serveMark b s = (s, plain .refusedRange) := by
  simp [serveMark, hsecond]

theorem serveMark_of_inProgress {b : MarkBody} {s : State} (hsecond : ¬ 299 < b.second.toNat)
    (hbusy : markInProgress s = true) : serveMark b s = (s, plain .busy) := by
  simp [serveMark, hsecond, hbusy]

theorem serveMark_of_outside {b : MarkBody} {s : State} (hsecond : ¬ 299 < b.second.toNat)
    (hbusy : ¬ markInProgress s = true)
    (houtside : marksForward s = true ∧ 7 < (b.interval - s.clock.current).toNat) :
    serveMark b s = (s, plain .refusedRange) := by
  simp only [serveMark, Bool.and_eq_true, decide_eq_true_eq]
  rw [if_neg hsecond, if_neg hbusy, if_pos houtside]

theorem serveMark_of_accepted {b : MarkBody} {s : State} (hsecond : ¬ 299 < b.second.toNat)
    (hbusy : ¬ markInProgress s = true)
    (hwithin : ¬ (marksForward s = true ∧ 7 < (b.interval - s.clock.current).toNat)) :
    serveMark b s = (acceptMark b s, plain .done) := by
  simp only [serveMark, Bool.and_eq_true, decide_eq_true_eq]
  rw [if_neg hsecond, if_neg hbusy, if_neg hwithin]

/-! ### The command by the result of its checks -/

theorem exec_intervalMark_eq (n : Nat) (b : MarkBody) (s : State) :
    exec (.intervalMark ⟨n, some b⟩) s = .next (hostCommand ⟨n, some b⟩ false serveMark s) := rfl

/-- Check 1: in LEAVING the mark is refused by the rule of R9, whatever it says. -/
theorem exec_intervalMark_of_leaving (n : Nat) (b : MarkBody) {s : State} (hleaving : s.ctrl.station = .leaving) :
    exec (.intervalMark ⟨n, some b⟩) s = .next (answeredOnly n (plain .refusedState) s) := by
  rw [exec_intervalMark_eq, hostCommand_leaving n b serveMark s hleaving]

/-- A mark served without an effect changes nothing but the answers. -/
theorem exec_intervalMark_of_refused {n : Nat} {b : MarkBody} {s : State} {code : AnswerCode}
    (hleaving : s.ctrl.station ≠ .leaving) (hrefused : serveMark b (clockOut n s) = (clockOut n s, plain code)) :
    exec (.intervalMark ⟨n, some b⟩) s = .next (answeredOnly n (plain code) s) := by
  rw [exec_intervalMark_eq, hostCommand_served _ _ _ _ _ (.inl hleaving), hrefused, holdAnswer_clockOut]

theorem exec_intervalMark_of_accepted {n : Nat} {b : MarkBody} {s : State} (hleaving : s.ctrl.station ≠ .leaving)
    (haccepted : serveMark b (clockOut n s) = (acceptMark b (clockOut n s), plain .done)) :
    exec (.intervalMark ⟨n, some b⟩) s = .next (holdAnswer (plain .done) (acceptMark b (clockOut n s))) := by
  rw [exec_intervalMark_eq, hostCommand_served _ _ _ _ _ (.inl hleaving), haccepted]

/-- Settles O20: a check of Table 2-2 decides the same before and after the transaction, so each row of the table is one
of the cases of `serveMark`. -/
theorem intervalMarkChecks : Obligations.IntervalMarkChecks := by
  intro n b s
  simp only [← seven_lt_offset_iff, ← and_assoc, ← marksForward_iff, ← markInProgress_iff]
  split_ifs with hleaving hsecond hbusy houtside
  · exact exec_intervalMark_of_leaving n b hleaving
  · exact exec_intervalMark_of_refused hleaving (serveMark_of_second hsecond)
  · exact exec_intervalMark_of_refused hleaving (serveMark_of_inProgress hsecond (by simpa using hbusy))
  · exact exec_intervalMark_of_refused hleaving
      (serveMark_of_outside hsecond (by simpa using hbusy) (by simpa using houtside))
  · have haccepted := serveMark_of_accepted (s := clockOut n s) hsecond (by simpa using hbusy) (by simpa using houtside)
    exact ⟨_, exec_intervalMark_of_accepted hleaving haccepted, by simp⟩

end Sys2Proof.Machine

/-! PROOFS. SET_STATE, SET_BASELINE, SET_PRICE and SET_AVAILABILITY are checked in the order of Table 3-2 (R37), and what
SET_STATE stores (R38). -/

namespace Sys2Proof.Machine

/-! ### What a start and a trigger change in the Pledge Engine -/

/-- A start keeps the energy figures, the bands, the refresh timer, the ladders and what waits (R49). -/
@[simp] theorem startComputation_pledge (boundary refresh price : Bool) (s : State) :
    let p := (startComputation boundary refresh price s).pledge
    p.eHost = s.pledge.eHost ∧ p.eFloor = s.pledge.eFloor ∧ p.eCeil = s.pledge.eCeil ∧ p.acc = s.pledge.acc ∧
    p.raiseBand = s.pledge.raiseBand ∧ p.lowerBand = s.pledge.lowerBand ∧ p.refresh = s.pledge.refresh ∧
    p.ladders = s.pledge.ladders ∧ p.comp.isSome = true := by
  simp [startComputation, pruneEntries]

/-- While a computation is in flight, a trigger in a joined state is a rerun request and nothing else (R51). -/
theorem triggerComputation_of_busy {s : State} (refresh : Bool) (hjoined : s.ctrl.station ≠ .unjoined)
    (hbusy : s.pledge.comp.isSome = true) :
    triggerComputation refresh s =
      s.setPledge { s.pledge with rerun := some (refresh || s.pledge.rerun.getD false) } := by
  simp [triggerComputation, joined, busy, hjoined, hbusy]

theorem triggerComputation_of_unjoined {s : State} (refresh : Bool) (hunjoined : s.ctrl.station = .unjoined) :
    triggerComputation refresh s = s := by
  simp [triggerComputation, joined, hunjoined]

/-! ### What follows an acceptance -/

/-- The state after a setting was taken: its effect, and in a joined state a computation that starts (R37, R48). -/
def takenSetting (price : Bool) (effect : State → State) (s : State) : State :=
  if joined s then startComputation false false price (effect s) else effect s

/-- The state after SET_STATE was taken: where it ended a state-stale condition, that end is a trigger after the start of
its own computation (R37, R53). -/
def takenState (b : StateBody) (s : State) : State :=
  if s.ctrl.stale then triggerComputation false (takenSetting false (storeState b) s)
  else takenSetting false (storeState b) s

theorem takenSetting_of_unjoined {s : State} (price : Bool) (effect : State → State)
    (hunjoined : s.ctrl.station = .unjoined) : takenSetting price effect s = effect s := by
  simp [takenSetting, joined, hunjoined]

theorem takenSetting_of_joined {s : State} (price : Bool) (effect : State → State)
    (hjoined : s.ctrl.station ≠ .unjoined) :
    takenSetting price effect s = startComputation false false price (effect s) := by
  simp [takenSetting, joined, hjoined]

@[simp] theorem storeState_ctrl (b : StateBody) (s : State) :
    (storeState b s).ctrl = { s.ctrl with staleMs := 0, stale := false } := rfl

@[simp] theorem takenSetting_ctrl (price : Bool) (effect : State → State) (s : State) :
    (takenSetting price effect s).ctrl = (effect s).ctrl := by
  unfold takenSetting
  split <;> simp

theorem takenState_of_unjoined {s : State} (b : StateBody) (hunjoined : s.ctrl.station = .unjoined) :
    takenState b s = storeState b s := by
  have htaken := takenSetting_of_unjoined false (storeState b) hunjoined
  rw [takenState, htaken, triggerComputation_of_unjoined false (by simpa using hunjoined), ite_self]

/-- In a joined state SET_STATE's computation has started before the condition's end is looked at, so the end can only be a
rerun request. -/
theorem takenState_of_joined {s : State} (b : StateBody) (hjoined : s.ctrl.station ≠ .unjoined) :
    let started := startComputation false false false (storeState b s)
    takenState b s = if s.ctrl.stale then
      started.setPledge { started.pledge with rerun := some (started.pledge.rerun.getD false) } else started := by
  have hbusy := triggerComputation_of_busy (s := startComputation false false false (storeState b s)) false
    (by simpa using hjoined) (by simp)
  dsimp only
  rw [takenState, takenSetting_of_joined _ _ hjoined, hbusy, Bool.false_or]

/-- What SET_STATE stores, and what it leaves alone (R38). -/
theorem takenState_stores (b : StateBody) (s : State) :
    let t := takenState b s
    t.pledge.eHost = min b.eNow.toNat b.eCeil.toNat ∧ t.pledge.eFloor = b.eFloor.toNat ∧
    t.pledge.eCeil = b.eCeil.toNat ∧ t.pledge.acc = 0 ∧ t.ctrl = { s.ctrl with staleMs := 0, stale := false } ∧
    t.pledge.raiseBand = s.pledge.raiseBand ∧ t.pledge.lowerBand = s.pledge.lowerBand ∧
    t.pledge.refresh = s.pledge.refresh ∧ t.pledge.ladders = s.pledge.ladders ∧ t.clock = s.clock ∧
    t.table = s.table ∧ t.line = s.line ∧ t.view = s.view ∧ t.freq = s.freq ∧ t.act = s.act ∧ t.mon = s.mon ∧
    t.host = s.host ∧ t.pending = s.pending := by
  dsimp only
  by_cases hunjoined : s.ctrl.station = .unjoined
  · rw [takenState_of_unjoined b hunjoined]
    simp [storeState]
  · rw [takenState_of_joined b hunjoined]
    split <;> simp [storeState]

/-- The end of a state-stale condition sets the rerun request (R37, R51). -/
theorem takenState_rerun {s : State} (b : StateBody) (hjoined : s.ctrl.station ≠ .unjoined)
    (hstale : s.ctrl.stale = true) : (takenState b s).pledge.rerun.isSome = true := by
  simp [takenState_of_joined b hjoined, hstale]

/-! ### A computation after each acceptance -/

/-- No computation starts in UNJOINED; in a joined state one does (R37, R48). -/
def StartsIfJoined (taken : State → State) : Prop :=
  ∀ s : State, (s.ctrl.station = .unjoined → (taken s).pledge.comp = s.pledge.comp) ∧
    (s.ctrl.station ≠ .unjoined → (taken s).pledge.comp.isSome = true)

theorem startsIfJoined_takenSetting {price : Bool} {effect : State → State}
    (heffect : ∀ s : State, s.ctrl.station = .unjoined → (effect s).pledge.comp = s.pledge.comp) :
    StartsIfJoined (takenSetting price effect) := by
  refine fun s => ⟨fun hunjoined => ?_, fun hjoined => ?_⟩
  · rw [takenSetting_of_unjoined price effect hunjoined, heffect s hunjoined]
  · simp [takenSetting_of_joined price effect hjoined]

theorem startsIfJoined_takenState (b : StateBody) : StartsIfJoined (takenState b) := by
  refine fun s => ⟨fun hunjoined => ?_, fun hjoined => ?_⟩
  · simp [takenState_of_unjoined b hunjoined, storeState]
  · rw [takenState_of_joined b hjoined]
    split <;> simp

/-- Outside ACTIVE SET_AVAILABILITY only stores its flags, and storing them starts nothing (R42). -/
theorem storeAvailability_comp_of_unjoined (b : AvailabilityBody) {s : State}
    (hunjoined : s.ctrl.station = .unjoined) : (storeAvailability b s).pledge.comp = s.pledge.comp := by
  simp [storeAvailability, isActive, hunjoined, storeAvails, pruneEntries]

/-! ### Table 3-2 for one command -/

/-- A computation is in flight or a boundary is held: check 2 of Table 3-2 fails. -/
def EngineBusy (s : State) : Prop := s.pledge.comp.isSome = true ∨ s.pledge.boundaryPending = true

theorem engineBusy_iff (s : State) : EngineBusy s ↔ (busy s || s.pledge.boundaryPending) = true := by
  simp [EngineBusy, busy]

@[simp] theorem engineBusy_clockOut (n : Nat) (s : State) : EngineBusy (clockOut n s) ↔ EngineBusy s := by
  simp [EngineBusy]

theorem not_engineBusy {s : State} (hcomp : s.pledge.comp = none) (hboundary : s.pledge.boundaryPending = false) :
    ¬ EngineBusy s := by
  simp [EngineBusy, hcomp, hboundary]

/-- A command, at one body, makes checks 2 and 3 of Table 3-2 in that order and, where both pass, its own change. -/
structure ChecksSetting (serve : State → State × Answer) (outOfRange : Prop) (taken : State → State) : Prop where
  whenBusy : ∀ s, EngineBusy s → serve s = (s, plain .busy)
  whenOutOfRange : ∀ s, ¬ EngineBusy s → outOfRange → serve s = (s, plain .refusedRange)
  whenAccepted : ∀ s, ¬ EngineBusy s → ¬ outOfRange → serve s = (taken s, plain .done)

theorem checksSetting_serveSetting {α : Type} {inRange : α → Bool} {b : α} {outOfRange : Prop} (price : Bool)
    (effect : α → State → State) (hrange : inRange b = true ↔ ¬ outOfRange) :
    ChecksSetting (serveSetting inRange price effect b) outOfRange (takenSetting price (effect b)) where
  whenBusy s hbusy := if_pos ((engineBusy_iff s).mp hbusy)
  whenOutOfRange s hfree hout := by
    rw [serveSetting, if_neg (mt (engineBusy_iff s).mpr hfree), if_neg (fun hin => hrange.mp hin hout)]
  whenAccepted s hfree hin := by
    rw [serveSetting, if_neg (mt (engineBusy_iff s).mpr hfree), if_pos (hrange.mpr hin)]
    rfl

/-- A refused SET_STATE leaves a state-stale condition as it is, so only a taken one makes the trigger of its end. -/
theorem checksSetting_serveState (b : StateBody) :
    ChecksSetting (serveState b) (b.eCeil.toNat < b.eFloor.toNat ∨ 10000 < b.eCeil.toNat) (takenState b) := by
  have hchecks := checksSetting_serveSetting (inRange := stateInRange) (b := b)
    (outOfRange := b.eCeil.toNat < b.eFloor.toNat ∨ 10000 < b.eCeil.toNat) false storeState (by simp [stateInRange])
  refine ⟨fun s hbusy => ?_, fun s hfree hout => ?_, fun s hfree hin => ?_⟩
  · simp [serveState, hchecks.whenBusy s hbusy]
  · simp [serveState, hchecks.whenOutOfRange s hfree hout]
  · cases hstale : s.ctrl.stale <;> simp [serveState, takenState, hchecks.whenAccepted s hfree hin, hstale]

/-! ### The transaction by the result of its checks -/

section

variable {α : Type} {n : Nat} {b : α} {s : State} {serve : α → State → State × Answer} {outOfRange : Prop}
  {taken : State → State}

theorem hostCommand_of_engineBusy (hchecks : ChecksSetting (serve b) outOfRange taken)
    (hstays : s.ctrl.station ≠ .leaving) (hbusy : EngineBusy s) :
    hostCommand ⟨n, some b⟩ false serve s = answeredOnly n (plain .busy) s := by
  rw [hostCommand_served _ _ _ _ _ (.inl hstays), hchecks.whenBusy _ (by simpa using hbusy), holdAnswer_clockOut]

theorem hostCommand_of_outOfRange (hchecks : ChecksSetting (serve b) outOfRange taken)
    (hstays : s.ctrl.station ≠ .leaving) (hfree : ¬ EngineBusy s) (hout : outOfRange) :
    hostCommand ⟨n, some b⟩ false serve s = answeredOnly n (plain .refusedRange) s := by
  rw [hostCommand_served _ _ _ _ _ (.inl hstays), hchecks.whenOutOfRange _ (by simpa using hfree) hout, holdAnswer_clockOut]

theorem hostCommand_of_accepted (hchecks : ChecksSetting (serve b) outOfRange taken)
    (hstays : s.ctrl.station ≠ .leaving) (hfree : ¬ EngineBusy s) (hin : ¬ outOfRange) :
    hostCommand ⟨n, some b⟩ false serve s = holdAnswer (plain .done) (taken (clockOut n s)) := by
  rw [hostCommand_served _ _ _ _ _ (.inl hstays), hchecks.whenAccepted _ (by simpa using hfree) hin]

/-- A command of Table 3-2 changes only the answers and does not answer DONE, or it is taken. -/
theorem hostCommand_setting_cases (n : Nat) (s : State) (hchecks : ChecksSetting (serve b) outOfRange taken) :
    (∃ code, code ≠ .done ∧ hostCommand ⟨n, some b⟩ false serve s = answeredOnly n (plain code) s) ∨
    hostCommand ⟨n, some b⟩ false serve s = holdAnswer (plain .done) (taken (clockOut n s)) := by
  by_cases hleaving : s.ctrl.station = .leaving
  · exact .inl ⟨.refusedState, nofun, hostCommand_leaving n b serve s hleaving⟩
  · by_cases hbusy : EngineBusy s
    · exact .inl ⟨.busy, nofun, hostCommand_of_engineBusy hchecks hleaving hbusy⟩
    · by_cases hout : outOfRange
      · exact .inl ⟨.refusedRange, nofun, hostCommand_of_outOfRange hchecks hleaving hbusy hout⟩
      · exact .inr (hostCommand_of_accepted hchecks hleaving hbusy hout)

end

/-- The rows of Table 3-2 for what a command answers (R37). -/
def SettingRows (n : Nat) (s : State) (outOfRange : Prop) (r : Result) : Prop :=
  (s.ctrl.station = .leaving → r = .next (answeredOnly n (plain .refusedState) s)) ∧
  (s.ctrl.station ≠ .leaving → EngineBusy s → r = .next (answeredOnly n (plain .busy) s)) ∧
  (s.ctrl.station ≠ .leaving → s.pledge.comp = none → s.pledge.boundaryPending = false →
    (outOfRange → r = .next (answeredOnly n (plain .refusedRange) s)) ∧
    (¬ outOfRange → ∃ t, r = .next t ∧ t.host.held = some (plain .done) ∧
      (s.ctrl.station = .unjoined → t.pledge.comp = none) ∧
      (s.ctrl.station ≠ .unjoined → t.pledge.comp.isSome = true)))

theorem settingRows_of_checks {α : Type} {b : α} {serve : α → State → State × Answer} {outOfRange : Prop}
    {taken : State → State} (n : Nat) (s : State) (hchecks : ChecksSetting (serve b) outOfRange taken)
    (hstarts : StartsIfJoined taken) :
    SettingRows n s outOfRange (.next (hostCommand ⟨n, some b⟩ false serve s)) := by
  refine ⟨fun hleaving => ?_, fun hstays hbusy => ?_, fun hstays hcomp hboundary =>
    ⟨fun hout => ?_, fun hin => ?_⟩⟩
  · rw [hostCommand_leaving n b serve s hleaving]
  · rw [hostCommand_of_engineBusy hchecks hstays hbusy]
  · rw [hostCommand_of_outOfRange hchecks hstays (not_engineBusy hcomp hboundary) hout]
  · have haccepted := hostCommand_of_accepted (n := n) hchecks hstays (not_engineBusy hcomp hboundary) hin
    obtain ⟨hkept, hstarted⟩ := hstarts (clockOut n s)
    refine ⟨_, congrArg Host.Outcome.next haccepted, by simp, fun hunjoined => ?_, fun hjoined => ?_⟩
    · simpa [hcomp] using hkept (by simpa using hunjoined)
    · simpa using hstarted (by simpa using hjoined)

/-! ### The four commands -/

/-- Check 3 of SET_BASELINE and SET_AVAILABILITY: the number of values is 1 to 8. -/
theorem countAllowed_iff (n : Nat) : countAllowed n = true ↔ ¬ (n = 0 ∨ 8 < n) := by
  simp only [countAllowed, Bool.and_eq_true, decide_eq_true_eq]
  omega

theorem exec_setState_eq (n : Nat) (b : StateBody) (s : State) :
    exec (.setState ⟨n, some b⟩) s = .next (hostCommand ⟨n, some b⟩ false serveState s) := rfl

/-- What a SET_STATE that was not taken, and one that was, leave as the next state. -/
theorem exec_setState_cases {n : Nat} {b : StateBody} {s t : State}
    (hexec : exec (.setState ⟨n, some b⟩) s = .next t) :
    (∃ code, code ≠ .done ∧ t = answeredOnly n (plain code) s) ∨
    t = holdAnswer (plain .done) (takenState b (clockOut n s)) := by
  obtain rfl := Host.Outcome.next.inj hexec
  exact hostCommand_setting_cases n s (checksSetting_serveState b)

theorem settingRows_setState (n : Nat) (b : StateBody) (s : State) :
    SettingRows n s (b.eCeil.toNat < b.eFloor.toNat ∨ 10000 < b.eCeil.toNat)
      (exec (.setState ⟨n, some b⟩) s) :=
  settingRows_of_checks n s (checksSetting_serveState b) (startsIfJoined_takenState b)

theorem settingRows_setBaseline (n : Nat) (b : BaselineBody) (s : State) :
    SettingRows n s (b.values.length = 0 ∨ 8 < b.values.length) (exec (.setBaseline ⟨n, some b⟩) s) :=
  settingRows_of_checks n s
    (checksSetting_serveSetting false storeBaseline (countAllowed_iff _))
    (startsIfJoined_takenSetting fun _ _ => rfl)

theorem settingRows_setPrice (n : Nat) (b : PriceBody) (s : State) :
    SettingRows n s (15 < b.raiseBand.toNat ∨ 15 < b.lowerBand.toNat) (exec (.setPrice ⟨n, some b⟩) s) :=
  settingRows_of_checks n s (checksSetting_serveSetting true storePrice (by simp [priceInRange]))
    (startsIfJoined_takenSetting fun _ _ => rfl)

theorem settingRows_setAvailability (n : Nat) (b : AvailabilityBody) (s : State) :
    SettingRows n s (b.flags.length = 0 ∨ 8 < b.flags.length) (exec (.setAvailability ⟨n, some b⟩) s) :=
  settingRows_of_checks n s
    (checksSetting_serveSetting false storeAvailability (countAllowed_iff _))
    (startsIfJoined_takenSetting fun _ => storeAvailability_comp_of_unjoined b)

/-- Settles O25: each command makes the checks of `ChecksSetting`, and a SET_STATE answered DONE is the taken one, whose
trigger finds its own computation in flight. -/
theorem settingChecks : Obligations.SettingChecks := by
  refine fun n a b p v s => ⟨settingRows_setState n a s, settingRows_setBaseline n b s, settingRows_setPrice n p s,
    settingRows_setAvailability n v s, fun t hexec hdone hjoined hstale => ?_⟩
  obtain ⟨code, hcode, rfl⟩ | rfl := exec_setState_cases hexec
  · exact absurd (by simpa [answeredOnly, plain] using hdone) hcode
  · simpa using takenState_rerun (s := clockOut n s) a (by simpa using hjoined) (by simpa using hstale)

/-- Settles O26: the taken command's stores are those of `takenState_stores`, and any other answer than DONE leaves all but
the answers. -/
theorem setStateStores : Obligations.SetStateStores := by
  refine fun n a s => ⟨fun hstays hcomp hboundary hfloor hceil => ?_, fun hout hstays hcomp hboundary => ?_,
    fun t hexec hheld => ?_⟩
  · have haccepted := hostCommand_of_accepted (n := n) (checksSetting_serveState a) hstays
      (not_engineBusy hcomp hboundary) (by omega)
    exact ⟨_, congrArg Host.Outcome.next haccepted, by simp [takenState_stores]⟩
  · rw [exec_setState_eq, hostCommand_of_outOfRange (checksSetting_serveState a) hstays
      (not_engineBusy hcomp hboundary) hout]
  · obtain ⟨code, -, rfl⟩ | rfl := exec_setState_cases hexec
    · simp
    · simp at hheld

end Sys2Proof.Machine

/-! PROOFS. READ_LADDER is checked in the order of Table 5-6, and only the answers change (R93). -/

namespace Sys2Proof.Machine

/-! ### What the checks look at -/

/-- A direction byte codes no direction exactly where it is neither 0 nor 1 (Table 12-2, NOTE 1). -/
theorem directionOf_eq_none_iff (b : Byte) : directionOf b = none ↔ b ≠ 0 ∧ b ≠ 1 := by
  unfold directionOf
  split_ifs with hraise hlower
  · simp [hraise]
  · simp [hlower]
  · exact iff_of_true rfl ⟨hraise, hlower⟩

/-- A direction byte that codes a direction codes RAISE at 0 and LOWER otherwise. -/
theorem directionOf_eq_of_ne_none {b : Byte} (hcoded : directionOf b ≠ none) :
    directionOf b = some (if b = 0 then .raise else .lower) := by
  revert hcoded
  unfold directionOf
  split_ifs <;> simp

/-- Outside the horizon an interval stands at offset 8 or above. -/
theorem inHorizon_eq_false_iff (first k : Word) : inHorizon first k = false ↔ 8 ≤ (k - first).toNat :=
  decide_eq_false_iff_not.trans not_lt

/-- READ_LADDER only reads. -/
@[simp] theorem serveLadder_state (b : LadderBody) (s : State) : (serveLadder b s).1 = s := by
  simp only [serveLadder]
  (repeat' split) <;> rfl

/-- Handing out the held answer changes nothing that the checks of Table 5-6 look at. -/
@[simp] theorem serveLadder_clockOut (n : Nat) (b : LadderBody) (s : State) :
    (serveLadder b (clockOut n s)).2 = (serveLadder b s).2 := by
  simp only [serveLadder, tableFirst, clockOut_frame]
  (repeat' split) <;> rfl

/-! ### The answer, one lemma for each row -/

section

variable {b : LadderBody} {s : State} {d : Direction}

theorem serveLadder_of_noUplink (hrole : s.ctrl.config.uplink = false) :
    (serveLadder b s).2 = plain .refusedRole := by
  simp [serveLadder, hrole]

theorem serveLadder_of_unjoined (hrole : s.ctrl.config.uplink ≠ false) (hunjoined : s.ctrl.station = .unjoined) :
    (serveLadder b s).2 = plain .refusedState := by
  simp [serveLadder, hrole, hunjoined]

theorem serveLadder_of_noDirection (hrole : s.ctrl.config.uplink ≠ false) (hjoined : s.ctrl.station ≠ .unjoined)
    (hdir : directionOf b.direction = none) : (serveLadder b s).2 = plain .refusedRange := by
  simp [serveLadder, hrole, hjoined, hdir]

theorem serveLadder_of_outside (hrole : s.ctrl.config.uplink ≠ false) (hjoined : s.ctrl.station ≠ .unjoined)
    (hdir : directionOf b.direction = some d) (houtside : inHorizon (tableFirst s) b.interval = false) :
    (serveLadder b s).2 = plain .refusedRange := by
  simp [serveLadder, hrole, hjoined, hdir, houtside]

theorem serveLadder_of_absent (hrole : s.ctrl.config.uplink ≠ false) (hjoined : s.ctrl.station ≠ .unjoined)
    (hdir : directionOf b.direction = some d) (hinside : inHorizon (tableFirst s) b.interval ≠ false)
    (habsent : findLadder s.pledge b.interval d = none) : (serveLadder b s).2 = plain .refusedState := by
  simp [serveLadder, hrole, hjoined, hdir, hinside, habsent]

theorem serveLadder_of_held {l : Ladder} (hrole : s.ctrl.config.uplink ≠ false)
    (hjoined : s.ctrl.station ≠ .unjoined) (hdir : directionOf b.direction = some d)
    (hinside : inHorizon (tableFirst s) b.interval ≠ false) (hheld : findLadder s.pledge b.interval d = some l) :
    (serveLadder b s).2 = ⟨.done, .ladder l⟩ := by
  simp [serveLadder, hrole, hjoined, hdir, hinside, hheld]

end

/-! ### The command by its answer -/

/-- READ_LADDER is in the set of R9, so it is served in every station state, and it changes nothing but the answers. -/
theorem exec_readLadder_eq (n : Nat) (b : LadderBody) (s : State) :
    exec (.readLadder ⟨n, some b⟩) s = .next (answeredOnly n (serveLadder b s).2 s) := by
  have hserved := hostCommand_served n b true serveLadder s (.inr rfl)
  rw [serveLadder_state, serveLadder_clockOut, holdAnswer_clockOut] at hserved
  exact congrArg Host.Outcome.next hserved

/-- Settles O11: the command holds what `serveLadder` answers, and each row of Table 5-6 is one of its cases. -/
theorem readLadderChecks : Obligations.ReadLadderChecks := by
  intro n b s
  rw [exec_readLadder_eq]
  congr 2
  simp only [← directionOf_eq_none_iff, ← inHorizon_eq_false_iff]
  have hcoded := directionOf_eq_of_ne_none (b := b.direction)
  generalize (if b.direction = 0 then Direction.raise else .lower) = d at hcoded ⊢
  split_ifs with hrole hunjoined hdir houtside
  · exact serveLadder_of_noUplink hrole
  · exact serveLadder_of_unjoined hrole hunjoined
  · exact serveLadder_of_noDirection hrole hunjoined hdir
  · exact serveLadder_of_outside hrole hunjoined (hcoded hdir) houtside
  · split
    next habsent => exact serveLadder_of_absent hrole hunjoined (hcoded hdir) houtside habsent
    next l hheld => exact serveLadder_of_held hrole hunjoined (hcoded hdir) houtside hheld

end Sys2Proof.Machine

/-! PROOFS. INJECT_AWARD is checked in the order of Table 6-6 (R101), and what a passing one answers (R102). -/

namespace Sys2Proof.Machine

/-! ### The award a record holds -/

/-- The award held by the record of (k, d), none where the record holds none. -/
abbrev awardHeld (s : State) (k : Word) (d : Direction) : Option Award := (findRec s.table k d).bind (·.award)

/-- A held award is among what the Allocation Unit's own work leaves standing. -/
theorem awardHeld_of_fixed {s t : State} (h : fixedTable s.table = fixedTable t.table) (k : Word) (d : Direction) :
    awardHeld s k d = awardHeld t k d := by
  have hread : ∀ u : State, awardHeld u k d = (findRec (fixedTable u.table) k d).bind (·.award) := by
    intro u
    simp only [awardHeld, findRec, fixedTable, List.find?_map, Option.bind_map]
    rfl
  rw [hread, hread, h]

/-- After a rewrite that keeps the keys, the record of (k, d) holds the rewritten one's award. -/
theorem awardHeld_updRec {s : State} {k : Word} {d : Direction} {r : CRecord} {f : CRecord → CRecord}
    (hfound : findRec s.table k d = some r) (hkeys : ∀ r, (f r).interval = r.interval ∧ (f r).dir = r.dir) :
    awardHeld (s.updRec k d f) k d = (f r).award := by
  simp [awardHeld, State.updRec, findRec_mapRec_self k d f s.table hkeys, hfound]

theorem withApplied_fields (r : CRecord) (band : Nat) (a : Award) :
    (r.withApplied band a).award = some a ∧ (r.withApplied band a).interval = r.interval ∧
    (r.withApplied band a).dir = r.dir := by
  unfold CRecord.withApplied
  split <;> simp

/-- A joined state holds a record for every interval of its horizon, in both directions. -/
theorem HorizonLaw.findRec_eq_some {s : State} (h : HorizonLaw s) (hjoined : s.ctrl.station ≠ .unjoined) {k : Word}
    (hinside : inHorizon (tableFirst s) k = true) (d : Direction) : ∃ r, findRec s.table k d = some r := by
  have hkeys : recordKeys s.table = horizonPairs (tableFirst s) := by simpa [HorizonLaw, hjoined] using h
  rw [← Option.isSome_iff_exists, findRec_isSome, hkeys, mem_horizonPairs]
  exact hinside

/-! ### The award held after the acceptance procedure (R96, R97) -/

section

variable {s : State} {k : Word} {d : Direction} {r : CRecord} {a : Award}

theorem awardHeld_applyAward (hfound : findRec s.table k d = some r) :
    awardHeld (applyAward k d a s) k d = some { a with conflict := false } := by
  have hstored := awardHeld_updRec hfound fun r =>
    (withApplied_fields r (bandOf s.pledge d) { a with conflict := false }).2
  exact (awardHeld_of_fixed (by simp [applyAward]) k d).trans (hstored.trans (withApplied_fields r _ _).1)

theorem awardHeld_conflictAward {held : Award} (hfound : findRec s.table k d = some r) :
    awardHeld (conflictAward k d a held s) k d =
      some (if a.greater held then { a with conflict := true } else { held with conflict := true }) := by
  refine (awardHeld_of_fixed ?_ k d).trans
    (awardHeld_updRec (f := fun r => { r with award := some _ }) hfound fun _ => ⟨rfl, rfl⟩)
  simp only [conflictAward]
  split <;> simp

/-- An award whose issue is not below the held one's has an outcome, and the record holds an award after it
(Table 6-3). -/
theorem compareAward_outcome (hfound : findRec s.table k d = some r)
    (hissue : ∀ held, r.award = some held → ¬ a.issue < held.issue) :
    ∃ outcome kept, (compareAward k d a r s).2 = some outcome ∧
      awardHeld (compareAward k d a r s).1 k d = some kept := by
  unfold compareAward
  split
  next => exact ⟨_, _, rfl, awardHeld_applyAward hfound⟩
  next held hheld =>
    rw [if_neg (hissue held hheld)]
    split_ifs
    · exact ⟨_, _, rfl, awardHeld_applyAward hfound⟩
    · exact ⟨_, held, rfl, by simp [awardHeld, hfound, hheld]⟩
    · exact ⟨_, _, rfl, awardHeld_conflictAward hfound⟩

end

/-! ### Checks 2 to 7 -/

/-- Handing out the held answer changes nothing that the checks of Table 6-6 look at. -/
@[simp] theorem injectRefusal_clockOut (n : Nat) (b : AwardBody) (s : State) :
    injectRefusal b (clockOut n s) = injectRefusal b s := rfl

theorem zoneMatch_eq_false_iff (zone compare mask : Word) :
    zoneMatch zone compare mask = false ↔ (zone ^^^ compare) &&& ~~~mask ≠ 0 := by
  simp [zoneMatch]

section

variable {b : AwardBody} {s : State} {d : Direction}

theorem injectRefusal_of_noUplink (hrole : s.ctrl.config.uplink = false) :
    injectRefusal b s = some .refusedRole := by
  simp [injectRefusal, hrole]

theorem injectRefusal_of_station (hrole : s.ctrl.config.uplink ≠ false)
    (hstation : s.ctrl.station ≠ .active ∧ s.ctrl.station ≠ .listening) :
    injectRefusal b s = some .refusedState := by
  simp [injectRefusal, hrole, hstation]

section

variable (hrole : s.ctrl.config.uplink ≠ false)
  (hstation : ¬ (s.ctrl.station ≠ .active ∧ s.ctrl.station ≠ .listening))

include hrole hstation

theorem injectRefusal_of_busy (hbusy : busy s = true) : injectRefusal b s = some .busy := by
  simp only [injectRefusal, if_neg hrole, if_neg hstation, if_pos hbusy]

variable (hfree : ¬ busy s = true)

include hfree

theorem injectRefusal_of_operands
    (hout : 15 < b.band.toNat ∨ directionOf b.direction = none ∨ inHorizon (tableFirst s) b.interval = false) :
    injectRefusal b s = some .refusedRange := by
  simp only [injectRefusal, if_neg hrole, if_neg hstation, if_neg hfree]
  split
  next => rfl
  next hdir =>
    rcases hout with hband | hnone | houtside
    · rw [if_pos hband]
    · simp [hdir] at hnone
    · rw [if_pos houtside, ite_self]

/-- Operands that pass check 5 leave the answer to checks 6 and 7. -/
theorem injectRefusal_of_inRange
    (hin : ¬ (15 < b.band.toNat ∨ directionOf b.direction = none ∨ inHorizon (tableFirst s) b.interval = false))
    (hdir : directionOf b.direction = some d) :
    injectRefusal b s =
      if zoneMatch s.ctrl.config.zone b.compare b.mask = false then some .refusedRange
      else if issueBelowHeld s b.interval d b.issue.toNat then some .refusedRange
      else none := by
  obtain ⟨hband, -, hinside⟩ : ¬ 15 < b.band.toNat ∧ directionOf b.direction ≠ none ∧
    inHorizon (tableFirst s) b.interval ≠ false := by simpa only [not_or] using hin
  simp only [injectRefusal, if_neg hrole, if_neg hstation, if_neg hfree, hdir, if_neg hband, if_neg hinside]

end

/-! ### The command by the result of its checks -/

theorem exec_injectAward_eq (n : Nat) (b : AwardBody) (s : State) :
    exec (.injectAward ⟨n, some b⟩) s = .next (hostCommand ⟨n, some b⟩ false serveInject s) := rfl

/-- Check 1: in LEAVING the injection is refused by the rule of R9, whatever it says. -/
theorem exec_injectAward_of_leaving (n : Nat) (hleaving : s.ctrl.station = .leaving) :
    exec (.injectAward ⟨n, some b⟩) s = .next (answeredOnly n (plain .refusedState) s) := by
  rw [exec_injectAward_eq, hostCommand_leaving n b serveInject s hleaving]

/-- A failed check is the answer, and nothing else changes. -/
theorem exec_injectAward_of_refused (n : Nat) {code : AnswerCode} (hleaving : s.ctrl.station ≠ .leaving)
    (hrefused : injectRefusal b s = some code) :
    exec (.injectAward ⟨n, some b⟩) s = .next (answeredOnly n (plain code) s) := by
  have hserve : serveInject b (clockOut n s) = (clockOut n s, plain code) := by simp [serveInject, hrefused]
  rw [exec_injectAward_eq, hostCommand_served _ _ _ _ _ (.inl hleaving), hserve, holdAnswer_clockOut]

theorem exec_injectAward_of_accepted (n : Nat) (hleaving : s.ctrl.station ≠ .leaving)
    (hpass : injectRefusal b s = none) (hdir : directionOf b.direction = some d) :
    exec (.injectAward ⟨n, some b⟩) s =
      .next (holdAnswer (injectAward b d (clockOut n s)).2 (injectAward b d (clockOut n s)).1) := by
  have hserve : serveInject b (clockOut n s) = injectAward b d (clockOut n s) := by simp [serveInject, hpass, hdir]
  rw [exec_injectAward_eq, hostCommand_served _ _ _ _ _ (.inl hleaving), hserve]

/-- An injection that the acceptance procedure gives an outcome inserts an AWARD entry and is answered DONE, with the
outcome and the award the record then holds (R102). -/
theorem injectAward_of_outcome {outcome : AwardOutcome} {kept : Award}
    (houtcome : (acceptAward b.interval d (awardOfBody b) s).2 = some outcome)
    (hkept : awardHeld (acceptAward b.interval d (awardOfBody b) s).1 b.interval d = some kept) :
    injectAward b d s = (enqueue (.award b.interval d) none (acceptAward b.interval d (awardOfBody b) s).1,
      ⟨.done, .injected outcome kept⟩) := by
  simp [injectAward, houtcome, hkept]

/-- An injected award that concerns the station and is not below the held issue is answered DONE. -/
theorem injectAward_answer (hlaw : HorizonLaw s) (hstation : s.ctrl.station = .active ∨ s.ctrl.station = .listening)
    (hinside : inHorizon (tableFirst s) b.interval = true)
    (hzone : zoneMatch s.ctrl.config.zone b.compare b.mask = true)
    (hissue : ¬ issueBelowHeld s b.interval d b.issue.toNat = true) :
    ∃ outcome kept, (injectAward b d s).2 = ⟨.done, .injected outcome kept⟩ ∧
      awardHeld (injectAward b d s).1 b.interval d = some kept := by
  have hjoined : s.ctrl.station ≠ .unjoined := by rintro h; simp [h] at hstation
  obtain ⟨r, hfound⟩ := hlaw.findRec_eq_some hjoined hinside d
  have haccept : acceptAward b.interval d (awardOfBody b) s = compareAward b.interval d (awardOfBody b) r s := by
    have hconcerns : awardConcerns b.interval (awardOfBody b) s = true := by
      rcases hstation with h | h <;> simp [awardConcerns, awardOfBody, h, hinside, hzone]
    simp [acceptAward, hconcerns, hfound]
  have hnotBelow : ∀ held, r.award = some held → ¬ (awardOfBody b).issue < held.issue := by
    intro held hheld
    simpa [issueBelowHeld, hfound, hheld, awardOfBody] using hissue
  obtain ⟨outcome, kept, houtcome, hkept⟩ := compareAward_outcome hfound hnotBelow
  rw [← haccept] at houtcome hkept
  rw [injectAward_of_outcome houtcome hkept]
  exact ⟨outcome, kept, rfl, (awardHeld_of_fixed (by simp) _ _).trans hkept⟩

end

/-- Settles O32: each row of Table 6-6 gives the value of `injectRefusal`; where it refuses nothing, the horizon holds
the record that the award meets. The checks and `HorizonLaw` read the same before and after the transaction. -/
theorem injectAwardChecks : Obligations.InjectAwardChecks := by
  intro n b s hlaw
  simp only [← directionOf_eq_none_iff, ← inHorizon_eq_false_iff, ← zoneMatch_eq_false_iff]
  have hcoded := directionOf_eq_of_ne_none (b := b.direction)
  generalize (if b.direction = 0 then Direction.raise else .lower) = d at hcoded ⊢
  split_ifs with hleaving hrole hstation hbusy hout hzone hissue
  · exact exec_injectAward_of_leaving n hleaving
  · exact exec_injectAward_of_refused n hleaving (injectRefusal_of_noUplink hrole)
  · exact exec_injectAward_of_refused n hleaving (injectRefusal_of_station hrole hstation)
  · exact exec_injectAward_of_refused n hleaving (injectRefusal_of_busy hrole hstation hbusy)
  · exact exec_injectAward_of_refused n hleaving (injectRefusal_of_operands hrole hstation hbusy hout)
  all_goals
    have hdir := hcoded fun hnone => hout (.inr (.inl hnone))
    have hlast := injectRefusal_of_inRange hrole hstation hbusy hout hdir
  · exact exec_injectAward_of_refused n hleaving (hlast.trans (if_pos hzone))
  · exact exec_injectAward_of_refused n hleaving (hlast.trans ((if_neg hzone).trans (if_pos hissue)))
  · have hpass : injectRefusal b s = none := hlast.trans ((if_neg hzone).trans (if_neg hissue))
    obtain ⟨outcome, kept, hanswer, hkept⟩ := injectAward_answer (b := b) (d := d) (s := clockOut n s) hlaw
      (or_iff_not_and_not.mpr hstation)
      (Bool.eq_true_of_not_eq_false fun houtside => hout (.inr (.inr houtside)))
      (Bool.eq_true_of_not_eq_false hzone) hissue
    exact ⟨_, outcome, kept, exec_injectAward_of_accepted n hleaving hpass hdir, by simp [hanswer],
      by simpa using hkept⟩

end Sys2Proof.Machine

/-! PROOFS. READ_STATUS is served in every station state and only reads (R161). -/

namespace Sys2Proof.Machine

/-- Handing out the held answer changes none of the values that READ_STATUS returns. -/
@[simp] theorem statusReport_clockOut (n : Nat) (s : State) : statusReport (clockOut n s) = statusReport s := by
  simp only [statusReport, clockOut_frame, clockOut_host]

/-- READ_STATUS is in the set of R9, so it is served in LEAVING too, and it changes nothing but the answers. -/
theorem exec_readStatus_eq (n : Nat) (s : State) :
    exec (.readStatus ⟨n, some ()⟩) s = .next (answeredOnly n ⟨.done, .status (statusReport s)⟩ s) := by
  have hserved := hostCommand_served n () true serveStatus s (.inr rfl)
  rw [serveStatus, statusReport_clockOut, holdAnswer_clockOut] at hserved
  exact congrArg Host.Outcome.next hserved

/-- Settles O9: what the command answers is `statusReport`, whose fields are the sixteen values of R161. -/
theorem readStatusReturns : Obligations.ReadStatusReturns := fun n s => exec_readStatus_eq n s

end Sys2Proof.Machine

/-! PROOFS. What a step is: the command at the front, a step that has fallen due, or a millisecond; every command answers a
next state, and CONFIGURE and power-on reset alone write the configuration. -/

namespace Sys2Proof.Machine

/-! ### The step by the queue -/

theorem step_of_pending {s : State} {c : Instr} {rest : List Instr} (h : s.pending = c :: rest) :
    step s = exec c (s.setPending rest) := by
  simp [step, h]

theorem step_of_idle {s : State} (h : s.pending = []) : step s = idleStep s := by
  simp [step, h]

theorem idleStep_of_none {s : State} (h : dueSteps s = []) : idleStep s = .next (tick s) := by
  simp [idleStep, h]

/-- One of the steps that have fallen due is run; a choice among several counts a draw. -/
theorem idleStep_of_due {s : State} (h : dueSteps s ≠ []) :
    ∃ i ∈ dueSteps s, ∃ n, idleStep s = exec i (s.setTies n) := by
  unfold idleStep
  match hdue : dueSteps s with
  | [] => exact absurd hdue h
  | [i] => exact ⟨i, by simp, s.ties, rfl⟩
  | i :: j :: rest =>
    have hdraw : (drawTie (i :: j :: rest).length s).1 < (i :: j :: rest).length := Nat.mod_lt _ (by simp)
    refine ⟨_, List.getElem_mem hdraw, s.ties + 1, ?_⟩
    dsimp only
    rw [List.getD_eq_getElem _ _ hdraw]
    rfl

/-- What every next state of a step is. -/
theorem step_cases {s t : State} (h : step s = .next t) :
    (∃ c rest, exec c (s.setPending rest) = .next t) ∨ t = tick s ∨ ∃ i n, exec i (s.setTies n) = .next t := by
  match hp : s.pending with
  | c :: rest => exact .inl ⟨c, rest, (step_of_pending hp).symm.trans h⟩
  | [] =>
    rw [step_of_idle hp] at h
    by_cases hdue : dueSteps s = []
    · rw [idleStep_of_none hdue] at h
      exact .inr (.inl (Host.Outcome.next.inj h).symm)
    · obtain ⟨i, -, n, hi⟩ := idleStep_of_due hdue
      exact .inr (.inr ⟨i, n, hi.symm.trans h⟩)

/-- A law that does not look at the queue of commands or the draws is kept by every step where every command and every
millisecond keeps it. -/
theorem step_keeps {P Q : State → Prop} (hpending : ∀ s x, P s → P (s.setPending x))
    (hties : ∀ s n, P s → P (s.setTies n)) (htick : ∀ s, P s → Q (tick s))
    (hexec : ∀ i s t, P s → exec i s = .next t → Q t) {s t : State} (hs : P s) (h : step s = .next t) : Q t := by
  rcases step_cases h with ⟨c, rest, hc⟩ | rfl | ⟨i, n, hi⟩
  · exact hexec c _ t (hpending s rest hs) hc
  · exact htick s hs
  · exact hexec i _ t (hties s n hs) hi

/-! ### The millisecond and what falls due -/

theorem millisecond_tick (s : State) : Millisecond s (tick s) := by
  refine ⟨rfl, ⟨rfl, ?_, ?_⟩, ?_, rfl, rfl, ?_, ?_, rfl, ?_⟩
  · intro n hn
    simp [tick, Controller.tick, hn]
  · intro hidle
    cases hf : s.ctrl.filter <;> simp_all [tick, Controller.tick, SupplyFilter.isTiming]
  · simp [tick, tickClock, clockCounts]
  · intro hunjoined
    simp [tick, joined, hunjoined]
  · intro hjoined
    have hline : (tick s).line = s.line.tick := by simp [tick, joined, hjoined]
    rw [hline]
    refine ⟨rfl, ?_, ?_, ?_⟩
    · intro hc
      simp [LineInterface.tick, Receiver.tick, hc]
    · intro hc ms hms
      simp [LineInterface.tick, Receiver.tick, hc, hms]
    · intro hc hms
      cases hr : s.line.receiver <;> simp_all [LineInterface.tick, Receiver.tick]
  · simp [tick, DeliveryMonitor.tick, countDown, Config.feedbackLossMs]

@[simp] theorem mem_dueWhen (b : Bool) (i j : Instr) : i ∈ dueWhen b j ↔ b = true ∧ i = j := by
  cases b <;> simp [dueWhen]

theorem mayDispatch_iff (s : State) (n : Notice) : mayDispatch s n = true ↔
    s.pledge.comp = none ∨ ∀ k ∈ n.body.intervals, inHorizon (tableFirst s) k = false := by
  cases hc : s.pledge.comp <;> simp [mayDispatch, busy, hc]

theorem dispatchable_eq_some (s : State) (n : Notice) : dispatchable s = some n ↔ ∃ rest, FrontFrame s n rest := by
  unfold dispatchable FrontFrame
  simp only [← mayDispatch_iff]
  match hrx : s.line.rx with
  | [] => simp
  | m :: rest =>
    by_cases hj : s.ctrl.station = .unjoined
    · simp [joined, hj]
    · by_cases hm : mayDispatch s m = true
      · simp only [joined, hj, hm, bne_iff_ne, ne_eq, not_false_eq_true, if_true, Option.some.injEq, List.cons.injEq,
          true_and]
        exact ⟨by rintro rfl; exact ⟨rest, ⟨rfl, rfl⟩, hm⟩, by rintro ⟨_, ⟨h, -⟩, -⟩; exact h⟩
      · simp only [joined, hj, hm, bne_iff_ne, ne_eq, not_false_eq_true, if_true, List.cons.injEq, true_and]
        exact ⟨nofun, by rintro ⟨_, ⟨rfl, -⟩, h⟩; exact absurd h hm⟩

/-- The row of the table that dispatches a frame, by the kind of its notice. -/
def dispatchRow : NoticeBody → Instr
  | .pledge _ _ => .receivedPledge
  | .take _ _ _ _ => .receivedTake
  | .withdraw _ _ _ => .receivedWithdraw
  | .award _ _ _ _ _ _ _ => .receivedAward

theorem mem_dueDispatch (s : State) (i : Instr) :
    i ∈ dueDispatch s ↔ ∃ n rest, FrontFrame s n rest ∧ i = dispatchRow n.body := by
  have hrow : ∀ n, dispatchable s = some n → dueDispatch s = [dispatchRow n.body] := by
    intro n hn
    unfold dueDispatch dispatchRow
    rw [hn]
    cases hb : n.body <;> simp [hb]
  constructor
  · intro h
    cases hn : dispatchable s with
    | none => simp [dueDispatch, hn] at h
    | some n =>
      obtain ⟨rest, hf⟩ := (dispatchable_eq_some s n).mp hn
      exact ⟨n, rest, hf, by simpa [hrow n hn] using h⟩
  · rintro ⟨n, rest, hf, rfl⟩
    simp [hrow n ((dispatchable_eq_some s n).mpr ⟨rest, hf⟩)]

theorem missBound_eq (s : State) :
    missBound s = if s.ctrl.config.nominal = .hz50 then 300000 else 250001 := by
  unfold missBound
  cases s.ctrl.config.nominal <;> rfl

theorem target_eq_runLength (e : QEntry) : e.target = runLength e := by
  unfold QEntry.target runLength
  cases e.key <;> rfl

theorem mem_dueClock (s : State) (i : Instr) : i ∈ dueClock s ↔
    (FallsDue s .clockSecond ∧ i = .clockSecond) ∨ (FallsDue s .intervalBoundary ∧ i = .intervalBoundary) ∨
    (FallsDue s .markBoundary ∧ i = .markBoundary) ∨ (FallsDue s .rebuild ∧ i = .rebuild) := by
  delta dueClock Config.msPerSecond
  simp only [List.mem_append, mem_dueWhen, FallsDue, or_assoc]
  refine or_congr (and_congr_left fun _ => ?_) (or_congr (and_congr_left fun _ => ?_)
    (or_congr (and_congr_left fun _ => ?_) (and_congr_left fun _ => ?_)))
  · simp [clockCounts, and_assoc]
  · simp [boundaryCanOccur, clockCounts]; tauto
  · simp [engineFree, busy]
  · simp [engineFree, busy]

theorem mem_dueTimers (s : State) (i : Instr) : i ∈ dueTimers s ↔
    (FallsDue s .listeningTimerExpiry ∧ i = .listeningTimerExpiry) ∨
    (FallsDue s .leavingTimerExpiry ∧ i = .leavingTimerExpiry) ∨ (FallsDue s .stateStaleLimit ∧ i = .stateStaleLimit) ∨
    (FallsDue s .supplyFilterExpiry ∧ i = .supplyFilterExpiry) ∨ (FallsDue s .computationEnd ∧ i = .computationEnd) ∨
    (FallsDue s .refreshTimerExpiry ∧ i = .refreshTimerExpiry) := by
  delta dueTimers staleDue Config.msPerSecond
  simp only [List.mem_append, mem_dueWhen, FallsDue, or_assoc]
  refine or_congr (and_congr_left fun _ => ?_) (or_congr (and_congr_left fun _ => ?_)
    (or_congr (and_congr_left fun _ => ?_) (or_congr (and_congr_left fun _ => ?_)
    (or_congr (and_congr_left fun _ => ?_) (and_congr_left fun _ => ?_)))))
  · simp
  · simp
  · simp [isActive]; tauto
  · simp
  · simp
  · simp

theorem mem_dueHolds (s : State) (i : Instr) : i ∈ dueHolds s ↔ ∃ k d, FallsDue s (.holdExpiry k d) ∧ i = .holdExpiry k d := by
  simp only [dueHolds, List.mem_map, List.mem_filter, FallsDue, beq_iff_eq]
  constructor
  · rintro ⟨r, ⟨hr, hhold⟩, rfl⟩
    exact ⟨r.interval, r.dir, ⟨r, hr, rfl, rfl, hhold⟩, rfl⟩
  · rintro ⟨k, d, ⟨r, hr, rfl, rfl, hhold⟩, rfl⟩
    exact ⟨r, ⟨hr, hhold⟩, rfl⟩

theorem mem_duePeers (s : State) (i : Instr) : i ∈ duePeers s ↔
    ∃ id, (FallsDue s (.peerStale id) ∧ i = .peerStale id) ∨ (FallsDue s (.peerRemoved id) ∧ i = .peerRemoved id) := by
  delta duePeers staleAgeMs removalAgeMs Config.msPerSecond
  simp only [List.mem_flatMap, List.mem_append, mem_dueWhen, FallsDue, Bool.and_eq_true, bne_iff_ne, decide_eq_true_eq]
  constructor
  · rintro ⟨p, hp, ⟨⟨hstatus, hage⟩, rfl⟩ | ⟨hage, rfl⟩⟩
    · exact ⟨p.id, .inl ⟨⟨p, hp, rfl, hstatus, hage⟩, rfl⟩⟩
    · exact ⟨p.id, .inr ⟨⟨p, hp, rfl, hage⟩, rfl⟩⟩
  · rintro ⟨id, ⟨⟨p, hp, rfl, hstatus, hage⟩, rfl⟩ | ⟨⟨p, hp, rfl, hage⟩, rfl⟩⟩
    · exact ⟨p, hp, .inl ⟨⟨hstatus, hage⟩, rfl⟩⟩
    · exact ⟨p, hp, .inr ⟨hage, rfl⟩⟩

theorem option_any_iff {α : Type} (o : Option α) (p : α → Bool) : o.any p = true ↔ ∃ a ∈ o, p a = true := by
  cases o <;> simp

theorem mem_dueLine (s : State) (i : Instr) : i ∈ dueLine s ↔
    (FallsDue s .lineCarrier ∧ i = .lineCarrier) ∨ (FallsDue s .lineJam ∧ i = .lineJam) ∨
    (FallsDue s .jamClear ∧ i = .jamClear) ∨ (FallsDue s .idleRunComplete ∧ i = .idleRunComplete) ∨
    (FallsDue s .transmissionEnd ∧ i = .transmissionEnd) := by
  delta dueLine Config.carrierMs Config.jamMs Config.jamClearMs
  simp only [List.mem_append, mem_dueWhen, FallsDue, or_assoc]
  refine or_congr (and_congr_left fun _ => ?_) (or_congr (and_congr_left fun _ => ?_)
    (or_congr (and_congr_left fun _ => ?_) (or_congr (and_congr_left fun _ => ?_) (and_congr_left fun _ => ?_))))
  · simp [carrierWatched, joined, option_any_iff, and_assoc]
  · simp [joined, option_any_iff]; tauto
  · simp [joined, and_assoc]
  · simp [joined, option_any_iff, target_eq_runLength, and_assoc]
  · simp [joined, and_assoc]

theorem mem_dueMeasures (s : State) (i : Instr) : i ∈ dueMeasures s ↔
    (FallsDue s .missedPeriod ∧ i = .missedPeriod) ∨ (FallsDue s .pwmPeriodStart ∧ i = .pwmPeriodStart) ∨
    (FallsDue s .feedbackLost ∧ i = .feedbackLost) ∨ (FallsDue s .measurementPeriodEnd ∧ i = .measurementPeriodEnd) ∨
    (FallsDue s .settlingExpiry ∧ i = .settlingExpiry) ∨ (FallsDue s .judgePeriodEnd ∧ i = .judgePeriodEnd) := by
  delta dueMeasures Config.feedbackLossMs Config.msPerSecond
  simp only [List.mem_append, mem_dueWhen, FallsDue, or_assoc]
  refine or_congr (and_congr_left fun _ => ?_) (or_congr (and_congr_left fun _ => ?_)
    (or_congr (and_congr_left fun _ => ?_) (or_congr (and_congr_left fun _ => ?_)
    (or_congr (and_congr_left fun _ => ?_) (and_congr_left fun _ => ?_)))))
  · rw [missBound_eq]; simp
  · simp
  · simp
  · simp
  · simp
  · simp [option_any_iff]

theorem fallsDue_dispatchRow {s : State} {n : Notice} {rest : List Notice} (h : FrontFrame s n rest) :
    FallsDue s (dispatchRow n.body) := by
  cases hb : n.body with
  | pledge first entries => exact ⟨n, rest, first, entries, h, hb⟩
  | take k d issue amount => exact ⟨n, rest, k, d, issue, amount, h, hb⟩
  | award k d issue band q c m => exact ⟨n, rest, k, d, issue, band, q, c, m, h, hb⟩
  | withdraw reason first set => exact ⟨n, rest, reason, first, set, h, hb⟩

/-- A listed step has fallen due by the rule that times it. -/
theorem fallsDue_of_mem {s : State} {i : Instr} (h : i ∈ dueSteps s) : FallsDue s i := by
  simp only [dueSteps, List.mem_append, mem_dueDispatch, mem_dueClock, mem_dueTimers, mem_dueHolds, mem_duePeers,
    mem_dueLine, mem_dueMeasures, or_assoc] at h
  rcases h with ⟨n, rest, hf, rfl⟩ | h
  · exact fallsDue_dispatchRow hf
  · aesop

theorem mem_dueSteps_of_front {s : State} {n : Notice} {rest : List Notice} (h : FrontFrame s n rest) :
    dispatchRow n.body ∈ dueSteps s := by
  simp only [dueSteps, List.mem_append, mem_dueDispatch]
  exact .inl (.inl (.inl (.inl (.inl (.inl ⟨n, rest, h, rfl⟩)))))

/-- What has fallen due is listed. -/
theorem mem_of_fallsDue {s : State} {i : Instr} (h : FallsDue s i) : i ∈ dueSteps s := by
  cases i
  case receivedPledge =>
    obtain ⟨n, rest, first, entries, hf, hb⟩ := h
    simpa [hb, dispatchRow] using mem_dueSteps_of_front hf
  case receivedTake =>
    obtain ⟨n, rest, k, d, issue, amount, hf, hb⟩ := h
    simpa [hb, dispatchRow] using mem_dueSteps_of_front hf
  case receivedWithdraw =>
    obtain ⟨n, rest, reason, first, set, hf, hb⟩ := h
    simpa [hb, dispatchRow] using mem_dueSteps_of_front hf
  case receivedAward =>
    obtain ⟨n, rest, k, d, issue, band, q, c, m, hf, hb⟩ := h
    simpa [hb, dispatchRow] using mem_dueSteps_of_front hf
  all_goals
    simp_all [dueSteps, mem_dueClock, mem_dueTimers, mem_dueHolds, mem_duePeers, mem_dueLine, mem_dueMeasures, FallsDue]

/-- Settles O1: the step by its queue, and each list of due steps by the rule that times its steps. -/
theorem stepRunsFrontCommand : Obligations.StepRunsFrontCommand := by
  refine ⟨fun c rest s h => step_of_pending h, fun s hidle => ⟨fun hnone => ?_, fun hdue => ?_⟩, millisecond_tick,
    fun i s => ⟨fallsDue_of_mem, mem_of_fallsDue⟩⟩
  · rw [step_of_idle hidle, idleStep_of_none hnone]
  · rw [step_of_idle hidle]
    exact idleStep_of_due hdue

end Sys2Proof.Machine

/-! PROOFS. Every command completes and leaves the queue of commands and, but for two, the configuration; the resets; and
what the Host Link answers and shifts out. -/

namespace Sys2Proof.Machine

/-! ### What changes of station state leave in the Station Controller -/

@[simp] theorem suspendStation_ctrl (s : State) (q : SuspendReason) :
    (suspendStation q s).ctrl =
      { s.ctrl with station := .suspended, suspendReason := some q, listening := none } := by
  simp [suspendStation]

@[simp] theorem beginLeaving_ctrl (s : State) :
    (beginLeaving s).ctrl = { s.ctrl with station := .leaving, leaving := some Config.leavingMs } := by
  simp [beginLeaving]

@[simp] theorem returnToUnjoined_ctrl (s : State) :
    (returnToUnjoined s).ctrl = { s.ctrl with
      station := .unjoined, suspendReason := none, listening := none, leaving := none, stale := false } := by
  simp [returnToUnjoined]

@[simp] theorem beginStale_ctrl (s : State) :
    (beginStale s).ctrl = { s.ctrl with stale := s.ctrl.stale || staleDue s } := by
  unfold beginStale
  split
  next h =>
    rw [Bool.and_eq_true_iff] at h
    simp [h.1]
  next h =>
    have hstands : (s.ctrl.stale || staleDue s) = s.ctrl.stale := by
      cases hdue : staleDue s <;> simp_all
    rw [hstands]

@[simp] theorem requestInActive_config (s : State) (q : SuspendReason) :
    (requestInActive q s).ctrl.config = s.ctrl.config := by
  unfold requestInActive; split <;> simp

@[simp] theorem requestSupply_config (s : State) : (requestSupply s).ctrl.config = s.ctrl.config := by
  unfold requestSupply; split <;> simp

@[simp] theorem supplyWhenFiltered_config (s : State) : (supplyWhenFiltered s).ctrl.config = s.ctrl.config := by
  unfold supplyWhenFiltered; split <;> simp

@[simp] theorem enterListening_config (s : State) : (enterListening s).ctrl.config = s.ctrl.config := by
  simp [enterListening]

@[simp] theorem entryRequests_config (s : State) : (entryRequests s).ctrl.config = s.ctrl.config := by
  unfold entryRequests
  split
  · split
    · dsimp only
      split <;> simp
    · simp
  · simp

@[simp] theorem enterActive_config (s : State) : (enterActive s).ctrl.config = s.ctrl.config := by
  unfold enterActive
  dsimp only
  split <;> simp

@[simp] theorem reachStaleLimit_config (s : State) : (reachStaleLimit s).ctrl.config = s.ctrl.config := by
  unfold reachStaleLimit
  dsimp only
  split <;> simp

@[simp] theorem joinStation_config (s : State) : (joinStation s).ctrl.config = s.ctrl.config := by
  unfold joinStation
  dsimp only
  split <;> simp

@[simp] theorem clearSuspension_config (s : State) : (clearSuspension s).ctrl.config = s.ctrl.config := by
  unfold clearSuspension
  dsimp only
  split <;> simp

@[simp] theorem badVerdict_config (s : State) : (badVerdict s).ctrl.config = s.ctrl.config := by
  unfold badVerdict
  dsimp only
  split <;> simp

@[simp] theorem endJudgePeriod_config (s : State) : (endJudgePeriod s).ctrl.config = s.ctrl.config := by
  unfold endJudgePeriod
  dsimp only
  split <;> simp

@[simp] theorem endTransmission_config (s : State) : (endTransmission s).ctrl.config = s.ctrl.config := by
  unfold endTransmission
  split
  · simp
  · dsimp only
    split <;> simp

@[simp] theorem loseFeedback_config (s : State) : (loseFeedback s).ctrl.config = s.ctrl.config := by
  simp [loseFeedback]

/-! ### What a command can do -/

/-- What a command makes of a state, its answers apart: one constructor for each effect, with what the command has
checked. -/
inductive Effect (i : Instr) (s : State) : State → Prop
  | nothing : Effect i s s
  | powerOn (hi : i = .powerOnReset) : Effect i s (powerOnState s)
  | restart (x : Transaction Unit) (hi : i = .restart x) : Effect i s (restartState s)
  | configure (x : Transaction (List Item)) (hi : i = .configure x) (items : List Item)
      (hstation : s.ctrl.station = .unjoined) (hitems : ∀ j ∈ items, itemAllowed j = true) :
      Effect i s (storeConfiguration items s)
  | join (haccepted : joinRefusal s = none) : Effect i s (joinStation s)
  | leave (hstation : s.ctrl.station = .listening ∨ s.ctrl.station = .leaving) : Effect i s (returnToUnjoined s)
  | leaveSuspended (hstation : s.ctrl.station = .suspended) : Effect i s (clearErrors (returnToUnjoined s))
  | beginLeaving (hstation : s.ctrl.station = .active) : Effect i s (beginLeaving s)
  | clearSuspend (hstation : s.ctrl.station = .suspended) : Effect i s (clearSuspension s)
  | replaceSecond (n : Nat) (hn : n ≤ 299) : Effect i s (replaceSecond n s)
  | beginMark (d n : Nat) (hd : 1 ≤ d ∧ d ≤ 7) (hn : n ≤ 299) : Effect i s (beginMark d n s)
  | beginRebuild (b : MarkBody) (hn : b.second.toNat ≤ 299) : Effect i s (beginRebuild b s)
  | setClock (k : Word) (n : Nat) (hn : n ≤ 299) (hstation : s.ctrl.station = .unjoined) : Effect i s (performRebuild k n s)
  | setState (x : Transaction StateBody) (hi : i = .setState x) (b : StateBody) (hfree : ¬ EngineBusy s)
      (hrange : stateInRange b = true) : Effect i s (takenState b s)
  | setBaseline (b : BaselineBody) (hfree : ¬ EngineBusy s) : Effect i s (takenSetting false (storeBaseline b) s)
  | setPrice (b : PriceBody) (hfree : ¬ EngineBusy s) (hrange : priceInRange b = true) :
      Effect i s (takenSetting true (storePrice b) s)
  | setAvailability (b : AvailabilityBody) (hfree : ¬ EngineBusy s) :
      Effect i s (takenSetting false (storeAvailability b) s)
  | inject (k : Word) (d : Direction) (a : Award) (hstation : s.ctrl.station = .active ∨ s.ctrl.station = .listening) :
      Effect i s (enqueue (.award k d) none (acceptAward k d a s).1)
  | takeLog (r : Settlement) (rest : List Settlement) (hlog : s.host.log = r :: rest) :
      Effect i s (s.setHost { s.host with log := rest })
  | clearEvents (m : Word) : Effect i s (clearFlags m s)
  | eventMask (m : Word) (hm : eventMaskAllowed m = true) : Effect i s (storeMask m s)
  | nextSecond (hsecond : s.clock.second < 299) : Effect i s (nextSecond s)
  | boundary (hoccurs : boundaryCanOccur s = true) : Effect i s (naturalBoundary s)
  | markBoundary (m : ForwardMark) (hmark : s.clock.mark = some m) (hfree : engineFree s = true) :
      Effect i s (performMarkBoundary m s)
  | rebuild (w : WaitingRebuild) (hwaits : s.clock.rebuild = some w) (hfree : engineFree s = true) :
      Effect i s (performRebuild w.interval w.second s)
  | endComputation (c : Computation) (hcomp : s.pledge.comp = some c) : Effect i s (endComputation c s)
  | refresh (hruns : s.pledge.refresh.isSome = true) : Effect i s (triggerComputation true (restartRefresh s))
  | enterActive (hstation : s.ctrl.station = .listening) : Effect i s (enterActive s)
  | staleLimit : Effect i s (reachStaleLimit s)
  | warn : Effect i s (s.setCtrl { s.ctrl with swarn := true, filter := .timing Config.supplyFilterMs })
  | unwarn : Effect i s (s.setCtrl { s.ctrl with swarn := false, filter := .idle })
  | filtered : Effect i s (requestSupply (s.setCtrl { s.ctrl with filter := .active }))
  | crossing (count : Nat) : Effect i s (takeCrossing count (reachCount count (recordMisses count s)))
  | missedPeriod : Effect i s (invalidPeriod (reachCount (s.freq.missStart + missBound s)
      (s.setFreq { s.freq with reference := none, missStart := s.freq.missStart + missBound s })))
  | pwmPeriod : Effect i s (s.setAct { s.act with lineDuty := s.act.duty, pwmDue := false })
  | feedback (duty : Nat) (f : Int) : Effect i s (s.setMon { s.mon with fbDuty := duty, f := f, fb := .present, lossMs := 0 })
  | loseFeedback : Effect i s (loseFeedback s)
  | endMeasurement : Effect i s (endMeasurement s)
  | startJudging (hwindow : s.mon.window = .settling) : Effect i s (startJudging s)
  | endJudgePeriod (hwindow : s.mon.window = .judging) : Effect i s (endJudgePeriod s)
  | carrierRises : Effect i s (s.setLine (carrierRises (carrierWatched s) s.line))
  | carrierFalls : Effect i s (s.setLine (carrierFalls (carrierWatched s) s.line))
  | lineCarrier : Effect i s (s.setLine (abandonRun { s.line with
      carrier := true, idleMs := 0, receiver := s.line.receiver.onCarrier }))
  | completeRun (htx : s.line.tx = .waiting) : Effect i s (completeRun s)
  | endTransmission (hjoined : joined s = true) (htx : s.line.tx = .sending) : Effect i s (endTransmission s)
  | lineJam (hjoined : joined s = true) (htx : s.line.tx = .idle ∨ s.line.tx = .waiting) :
      Effect i s (raiseEvent .lineJam (s.setLine { s.line with tx := .jammed, run := none }))
  | jamClear (htx : s.line.tx = .jammed) : Effect i s (s.setLine (resumeTx s.line))
  | closeFrame (bytes : List Byte) (hjoined : joined s = true) : Effect i s (closeFrame bytes s)
  | frame (n : Notice) (rest : List Notice) (update : Peer → Peer × Report) (hfront : FrontFrame s n rest)
      (hid : ∀ p, (update p).1.id = p.id) : Effect i s (takeFrame n update (dropFront s))
  | award (n : Notice) (rest : List Notice) (k : Word) (d : Direction) (a : Award) (hfront : FrontFrame s n rest) :
      Effect i s (acceptAward k d a (takeFrame n (fun p => (p, [])) (dropFront s))).1
  | peerStale (id : Nat) (p : Peer) (hp : findPeer s.view id = some p) : Effect i s (makeStale id p s)
  | peerRemoved (id : Nat) (p : Peer) (hp : findPeer s.view id = some p) : Effect i s (removePeer id p s)
  | holdExpiry (k : Word) (d : Direction) (r : CRecord) (hr : findRec s.table k d = some r) (hhold : r.hold.isSome = true) :
      Effect i s (expireHold k d r.evalPending s)

/-- An effect made where a condition holds. -/
theorem Effect.ite {i : Instr} {s t : State} {p : Prop} [Decidable p] (h : p → Effect i s t) : Effect i s (if p then t else s) := by
  split
  · exact h ‹p›
  · exact .nothing

/-- Two states that differ in the answers at most. -/
def SameButAnswers (s t : State) : Prop := ∃ sdo held, t = s.setHost { s.host with sdo := sdo, held := held }

theorem sameButAnswers_refl (s : State) : SameButAnswers s s := ⟨s.host.sdo, s.host.held, rfl⟩

theorem sameButAnswers_clockOut (n : Nat) (s : State) : SameButAnswers s (clockOut n s) := ⟨_, _, rfl⟩

theorem sameButAnswers_holdAnswer (a : Answer) (s : State) : SameButAnswers s (holdAnswer a s) := ⟨s.host.sdo, _, rfl⟩

theorem SameButAnswers.trans {s t u : State} (h : SameButAnswers s t) (h' : SameButAnswers t u) : SameButAnswers s u := by
  obtain ⟨sdo, held, rfl⟩ := h
  obtain ⟨sdo', held', rfl⟩ := h'
  exact ⟨sdo', held', rfl⟩

/-- A command's effect, between the answer it shifts out and the one it holds. -/
def Served (i : Instr) (s t : State) : Prop := ∃ u v, SameButAnswers s u ∧ Effect i u v ∧ SameButAnswers v t

theorem Effect.served {i : Instr} {s t : State} (h : Effect i s t) : Served i s t :=
  ⟨s, t, sameButAnswers_refl s, h, sameButAnswers_refl t⟩

theorem served_hostCommand {α : Type} {i : Instr} {t : Transaction α} {inLeaving : Bool} {serve : α → State → State × Answer} {s : State}
    (hserve : ∀ b u, Effect i u (serve b u).1) : Served i s (hostCommand t inLeaving serve s) := by
  have hout := sameButAnswers_clockOut t.clocked s
  simp only [hostCommand]
  split
  · exact ⟨_, _, hout, .nothing, sameButAnswers_holdAnswer _ _⟩
  · split
    · exact ⟨_, _, hout, .nothing, sameButAnswers_holdAnswer _ _⟩
    · exact ⟨_, _, hout, hserve _ _, sameButAnswers_holdAnswer _ _⟩

/-! ### The effect of each host command -/

theorem effect_serveConfigure (x : Transaction (List Item)) (items : List Item) (s : State) :
    Effect (.configure x) s (serveConfigure items s).1 := by
  unfold serveConfigure
  split_ifs with hstation hitems
  · exact .nothing
  · exact .configure x rfl items (not_not.mp hstation) (List.all_eq_true.mp hitems)
  · exact .nothing

theorem effect_serveJoin {i : Instr} (u : Unit) (s : State) : Effect i s (serveJoin u s).1 := by
  unfold serveJoin
  split
  · exact .nothing
  · exact .join ‹_›

theorem effect_serveLeave {i : Instr} (u : Unit) (s : State) : Effect i s (serveLeave u s).1 := by
  unfold serveLeave
  split
  · exact .nothing
  · exact .leave (.inl ‹_›)
  · exact .beginLeaving ‹_›
  · exact .leaveSuspended ‹_›
  · exact .nothing

/-- CLEAR_SUSPEND is refused outside SUSPENDED, and where the cause stands (Table 1-7). -/
theorem clearSuspendRefused_iff (s : State) : clearSuspendRefused s = true ↔
    s.ctrl.station ≠ .suspended ∨ (s.ctrl.suspendReason = some .inverter ∧ s.mon.fb = .lost ∨
      s.ctrl.suspendReason = some .supply ∧ s.ctrl.filter = .active) := by
  unfold clearSuspendRefused
  split <;> simp_all

theorem effect_serveClearSuspend {i : Instr} (u : Unit) (s : State) : Effect i s (serveClearSuspend u s).1 := by
  unfold serveClearSuspend
  split
  next => exact .nothing
  next hfree =>
    rw [clearSuspendRefused_iff, not_or, not_not] at hfree
    exact .clearSuspend hfree.1

theorem effect_acceptMark {i : Instr} {b : MarkBody} {s : State} (hsecond : b.second.toNat ≤ 299)
    (hwithin : marksForward s = true → (b.interval - s.clock.current).toNat ≤ 7) : Effect i s (acceptMark b s) := by
  unfold acceptMark
  dsimp only
  split
  next hforward =>
    split
    · exact .replaceSecond _ hsecond
    · exact .beginMark _ _ ⟨by omega, hwithin hforward⟩ hsecond
  next =>
    split
    · exact .beginRebuild b hsecond
    · exact .setClock _ _ hsecond (by simpa [joined] using ‹¬ joined s = true›)

theorem effect_serveMark {i : Instr} (b : MarkBody) (s : State) : Effect i s (serveMark b s).1 := by
  unfold serveMark
  split_ifs with hsecond hbusy hout
  · exact .nothing
  · exact .nothing
  · exact .nothing
  · refine effect_acceptMark (not_lt.mp hsecond) fun hforward => ?_
    simpa [hforward] using hout

/-- A command of Table 3-2 changes nothing where it is refused, and is taken otherwise. -/
theorem ChecksSetting.effect {i : Instr} {serve : State → State × Answer} {outOfRange : Prop} {taken : State → State}
    (hchecks : ChecksSetting serve outOfRange taken) (s : State)
    (htaken : ¬ EngineBusy s → ¬ outOfRange → Effect i s (taken s)) : Effect i s (serve s).1 := by
  by_cases hbusy : EngineBusy s
  · rw [hchecks.whenBusy s hbusy]
    exact .nothing
  · by_cases hout : outOfRange
    · rw [hchecks.whenOutOfRange s hbusy hout]
      exact .nothing
    · rw [hchecks.whenAccepted s hbusy hout]
      exact htaken hbusy hout

theorem effect_serveState (x : Transaction StateBody) (b : StateBody) (s : State) :
    Effect (.setState x) s (serveState b s).1 :=
  (checksSetting_serveState b).effect s fun hfree hin => .setState x rfl b hfree (by simpa [stateInRange] using hin)

theorem effect_serveBaseline {i : Instr} (b : BaselineBody) (s : State) :
    Effect i s (serveSetting (fun b => countAllowed b.values.length) false storeBaseline b s).1 :=
  (checksSetting_serveSetting (b := b) false storeBaseline (countAllowed_iff _)).effect s fun hfree _ => .setBaseline b hfree

theorem effect_servePrice {i : Instr} (b : PriceBody) (s : State) : Effect i s (serveSetting priceInRange true storePrice b s).1 :=
  (checksSetting_serveSetting (b := b) (outOfRange := ¬ priceInRange b = true) true storePrice not_not.symm).effect s
    fun hfree hin => .setPrice b hfree (not_not.mp hin)

theorem effect_serveAvailability {i : Instr} (b : AvailabilityBody) (s : State) :
    Effect i s (serveSetting (fun b => countAllowed b.flags.length) false storeAvailability b s).1 :=
  (checksSetting_serveSetting (b := b) false storeAvailability (countAllowed_iff _)).effect s fun hfree _ =>
    .setAvailability b hfree

theorem effect_serveInject {i : Instr} (b : AwardBody) (s : State) : Effect i s (serveInject b s).1 := by
  unfold serveInject
  split
  next d haccepted _ =>
    have hstation : s.ctrl.station = .active ∨ s.ctrl.station = .listening := by
      by_contra hother
      unfold injectRefusal at haccepted
      rw [not_or] at hother
      rw [if_pos (c := s.ctrl.station ≠ .active ∧ s.ctrl.station ≠ .listening) hother] at haccepted
      split at haccepted <;> cases haccepted
    unfold injectAward
    dsimp only
    split
    · exact .inject _ _ _ hstation
    · exact .nothing
  · exact .nothing
  · exact .nothing

theorem effect_serveLadder {i : Instr} (b : LadderBody) (s : State) : Effect i s (serveLadder b s).1 := by
  rw [serveLadder_state]
  exact .nothing

theorem effect_serveView {i : Instr} (index : Byte) (s : State) : Effect i s (serveView index s).1 := by
  unfold serveView
  split <;> exact .nothing

theorem effect_serveLog {i : Instr} (u : Unit) (s : State) : Effect i s (serveLog u s).1 := by
  unfold serveLog
  split
  · exact .nothing
  · exact .takeLog _ _ ‹_›

theorem effect_serveClearEvents {i : Instr} (m : Word) (s : State) : Effect i s (serveClearEvents m s).1 := by
  unfold serveClearEvents
  split
  · exact .clearEvents m
  · exact .nothing

theorem effect_serveEventMask {i : Instr} (m : Word) (s : State) : Effect i s (serveEventMask m s).1 := by
  unfold serveEventMask
  split
  · exact .eventMask m ‹_›
  · exact .nothing

/-! ### The effect of the part's own events -/

theorem carrierWatched_joined {s : State} (h : carrierWatched s = true) : joined s = true := by
  simp_all [carrierWatched]

/-- A dispatched row finds the frame at the front of the buffer. -/
theorem frontFrame_of_dispatchable {s : State} {n : Notice} (h : dispatchable s = some n) : ∃ rest, FrontFrame s n rest :=
  (dispatchable_eq_some s n).mp h

theorem pledgeUpdate_id (cur first : Word) (entries : List SlotEntry) (p : Peer) :
    (pledgeUpdate cur first entries p).1.id = p.id := rfl

theorem takeUpdate_id (cur k : Word) (d : Direction) (issue amount : Nat) (p : Peer) :
    (takeUpdate cur k d issue amount p).1.id = p.id := by
  unfold takeUpdate; split <;> rfl

theorem withdrawUpdate_id (cur first : Word) (affected : Byte) (p : Peer) :
    (withdrawUpdate cur first affected p).1.id = p.id := rfl

/-- What a command can do: its answers apart, one of the effects. -/
theorem exec_served {i : Instr} {s t : State} (h : exec i s = .next t) : Served i s t := by
  cases i <;> obtain rfl := Host.Outcome.next.inj h
  case powerOnReset => exact (Effect.powerOn rfl).served
  case noCommandTransaction n => exact ⟨_, _, sameButAnswers_clockOut n s, .nothing, sameButAnswers_refl _⟩
  case unknownCommand n code => exact ⟨_, _, sameButAnswers_clockOut n s, .nothing, sameButAnswers_holdAnswer _ _⟩
  case configure x => exact served_hostCommand (effect_serveConfigure x)
  case join => exact served_hostCommand effect_serveJoin
  case leave => exact served_hostCommand effect_serveLeave
  case restart x => exact served_hostCommand fun _ _ => .restart x rfl
  case clearSuspend => exact served_hostCommand effect_serveClearSuspend
  case intervalMark => exact served_hostCommand effect_serveMark
  case setState x => exact served_hostCommand (effect_serveState x)
  case setBaseline => exact served_hostCommand effect_serveBaseline
  case setPrice => exact served_hostCommand effect_servePrice
  case setAvailability => exact served_hostCommand effect_serveAvailability
  case injectAward => exact served_hostCommand effect_serveInject
  case readStatus => exact served_hostCommand fun _ _ => .nothing
  case readHorizon => exact served_hostCommand fun _ _ => .nothing
  case readView => exact served_hostCommand effect_serveView
  case readLadder => exact served_hostCommand effect_serveLadder
  case readLog => exact served_hostCommand effect_serveLog
  case readEvents => exact served_hostCommand fun _ _ => .nothing
  case clearEvents => exact served_hostCommand effect_serveClearEvents
  case setEventMask => exact served_hostCommand effect_serveEventMask
  all_goals refine Effect.served ?_
  case clockSecond =>
    split_ifs with hsecond hcounts hoccurs
    · exact .nextSecond hsecond
    · exact .nothing
    · exact .boundary hoccurs
    · exact .nothing
  case intervalBoundary => exact .ite fun hoccurs => .boundary (Bool.and_eq_true_iff.mp hoccurs).1
  case markBoundary =>
    split
    next m hmark => exact .ite fun hfree => .markBoundary m hmark hfree
    next => exact .nothing
  case rebuild =>
    split
    next w hwaits => exact .ite fun hfree => .rebuild w hwaits hfree
    next => exact .nothing
  case computationEnd =>
    split
    next c hcomp => exact .endComputation c hcomp
    next => exact .nothing
  case refreshTimerExpiry => exact .ite fun hruns => .refresh hruns
  case listeningTimerExpiry => exact .ite fun h => .enterActive h.1
  case leavingTimerExpiry => exact .ite fun h => .leave (.inr h.1)
  case stateStaleLimit => exact .staleLimit
  case supplyWarningActive =>
    split
    · exact .nothing
    · exact .warn
  case supplyWarningInactive => exact .unwarn
  case supplyFilterExpiry => exact .ite fun _ => .filtered
  case crossing count => exact .crossing count
  case missedPeriod => exact .missedPeriod
  case pwmPeriodStart => exact .pwmPeriod
  case feedbackPeriod => exact .ite fun _ => .feedback _ _
  case feedbackLost => exact .ite fun _ => .loseFeedback
  case measurementPeriodEnd => exact .endMeasurement
  case settlingExpiry => exact .ite fun h => .startJudging h
  case judgePeriodEnd => exact .ite fun h => .endJudgePeriod h
  case carrierDetectChange active =>
    split_ifs
    · exact .nothing
    · exact .carrierRises
    · exact .carrierFalls
  case lineCarrier => exact .ite fun _ => .lineCarrier
  case idleRunComplete => exact .ite fun h => .completeRun (by simp_all)
  case transmissionEnd => exact .ite fun h => .endTransmission (by simp_all) (by simp_all)
  case lineJam => exact .ite fun h => .lineJam (by simp_all) (by simp_all)
  case jamClear => exact .ite fun h => .jamClear (by simp_all)
  case frameReceived bytes =>
    exact .ite fun h => .closeFrame _ (carrierWatched_joined (Bool.and_eq_true_iff.mp h).1)
  case receivedPledge =>
    split
    next n hn =>
      obtain ⟨rest, hfront⟩ := frontFrame_of_dispatchable hn
      split
      · exact .frame n rest _ hfront (pledgeUpdate_id _ _ _)
      · exact .nothing
    next => exact .nothing
  case receivedTake =>
    split
    next n hn =>
      obtain ⟨rest, hfront⟩ := frontFrame_of_dispatchable hn
      split
      · exact .frame n rest _ hfront (takeUpdate_id _ _ _ _ _)
      · exact .nothing
    next => exact .nothing
  case receivedWithdraw =>
    split
    next n hn =>
      obtain ⟨rest, hfront⟩ := frontFrame_of_dispatchable hn
      split
      · exact .frame n rest _ hfront (withdrawUpdate_id _ _ _)
      · exact .nothing
    next => exact .nothing
  case receivedAward =>
    split
    next n hn =>
      obtain ⟨rest, hfront⟩ := frontFrame_of_dispatchable hn
      split
      · exact .award n rest _ _ _ hfront
      · exact .nothing
    next => exact .nothing
  case peerStale id =>
    split
    next p hp => exact .peerStale id p hp
    next => exact .nothing
  case peerRemoved id =>
    split
    next p hp => exact .peerRemoved id p hp
    next => exact .nothing
  case holdExpiry k d =>
    split
    next r hr => exact .ite fun hhold => .holdExpiry k d r hr hhold
    next => exact .nothing

/-- A law that does not look at the answers is kept by every command where every effect keeps it. -/
theorem exec_keeps {P Q : State → Prop} (hbefore : ∀ s t, SameButAnswers s t → P s → P t)
    (hafter : ∀ s t, SameButAnswers s t → Q s → Q t) (heffect : ∀ i s t, P s → Effect i s t → Q t) (i : Instr) (s t : State)
    (hs : P s) (h : exec i s = .next t) : Q t := by
  obtain ⟨u, v, hsu, huv, hvt⟩ := exec_served h
  exact hafter v t hvt (heffect i u v (hbefore s u hsu hs) huv)

/-! ### Every command completes -/

theorem exec_completes (i : Instr) (s : State) : ∃ t, exec i s = .next t := by
  cases i <;> exact ⟨_, rfl⟩

theorem takenSetting_keeps {β : Type} (p : State → β) {price : Bool} {effect : State → State} {s : State}
    (heffect : p (effect s) = p s) (hstart : ∀ b r q u, p (startComputation b r q u) = p u) :
    p (takenSetting price effect s) = p s := by
  unfold takenSetting
  split
  · rw [hstart, heffect]
  · exact heffect

theorem takenState_keeps {β : Type} (p : State → β) {b : StateBody} {s : State}
    (hstore : p (storeState b s) = p s) (hstart : ∀ b r q u, p (startComputation b r q u) = p u)
    (htrigger : ∀ r u, p (triggerComputation r u) = p u) : p (takenState b s) = p s := by
  unfold takenState
  split
  · rw [htrigger, takenSetting_keeps p hstore hstart]
  · exact takenSetting_keeps p hstore hstart

@[simp] theorem takeCrossing_frame (s : State) (count : Nat) :
    (takeCrossing count s).ctrl = s.ctrl ∧ (takeCrossing count s).clock = s.clock ∧
    (takeCrossing count s).table = s.table ∧ (takeCrossing count s).pledge = s.pledge ∧
    (takeCrossing count s).line = s.line ∧ (takeCrossing count s).view = s.view ∧
    (takeCrossing count s).entryTakesDue = s.entryTakesDue ∧ (takeCrossing count s).ties = s.ties ∧
    (takeCrossing count s).pending = s.pending := by
  unfold takeCrossing
  split <;> simp

theorem effect_pending {i : Instr} {s t : State} (h : Effect i s t) : t.pending = s.pending := by
  cases h
  case nothing | powerOn | restart => rfl
  case setState => exact takenState_keeps State.pending (by simp) (by simp) (by simp)
  case setBaseline | setPrice | setAvailability => exact takenSetting_keeps State.pending (by simp) (by simp)
  all_goals simp

theorem effect_config {i : Instr} {s t : State} (h : Effect i s t) (hconfigure : ∀ x, i ≠ .configure x)
    (hpower : i ≠ .powerOnReset) : t.ctrl.config = s.ctrl.config := by
  cases h
  case nothing | restart => rfl
  case powerOn hi => exact absurd hi hpower
  case configure x hi _ _ _ => exact absurd hi (hconfigure x)
  case setState => exact takenState_keeps (·.ctrl.config) (by simp) (by simp) (by simp)
  case setBaseline | setPrice | setAvailability => exact takenSetting_keeps (·.ctrl.config) (by simp) (by simp)
  all_goals simp

theorem sameButAnswers_pending {s t : State} (h : SameButAnswers s t) :
    t.pending = s.pending ∧ t.ctrl = s.ctrl := by
  obtain ⟨_, _, rfl⟩ := h
  exact ⟨rfl, rfl⟩

/-- Settles O2: what a command can do leaves the queue, and but for two commands the configuration. -/
theorem everyCommandCompletes : Obligations.EveryCommandCompletes := by
  refine ⟨fun i s => ?_, fun i s t hconfigure hpower h => ?_⟩
  · obtain ⟨t, ht⟩ := exec_completes i s
    obtain ⟨u, v, hsu, huv, hvt⟩ := exec_served ht
    exact ⟨t, ht, by rw [(sameButAnswers_pending hvt).1, effect_pending huv, (sameButAnswers_pending hsu).1]⟩
  · obtain ⟨u, v, hsu, huv, hvt⟩ := exec_served h
    rw [(sameButAnswers_pending hvt).2, effect_config huv hconfigure hpower, (sameButAnswers_pending hsu).2]

end Sys2Proof.Machine

/-! PROOFS. The resets, what a transaction shifts out, the refusals of the Host Link, and the commands that read or clear
(R1, R11, R34, R89, R159 to R168, R171). -/

namespace Sys2Proof.Machine

/-! ### Resets -/

/-- Settles O5. -/
theorem resetStates : Obligations.ResetStates := by
  refine ⟨fun s => ⟨_, rfl, rfl, rfl, rfl, rfl, rfl, rfl, rfl, rfl, rfl, rfl, rfl, rfl, rfl⟩, fun n s => ?_⟩
  have hserved : exec (.restart ⟨n, some ()⟩) s =
      .next (holdAnswer (plain .done) (restartState (clockOut n s))) :=
    congrArg Host.Outcome.next (hostCommand_served n () true serveRestart s (.inr rfl))
  refine ⟨_, hserved, rfl, rfl, rfl, rfl, rfl, rfl, rfl, rfl, ?_, rfl, rfl, rfl, rfl⟩
  simp [holdAnswer, restartState, ditherPhase, powerOnState, State.reset, IntervalClock.reset]

/-- Settles O6: each law by evaluation at the state after power-on reset. -/
theorem resetKeepsTheLaws : Obligations.ResetKeepsTheLaws := by
  unfold Obligations.ResetKeepsTheLaws
  refine ⟨?_, ?_, ?_, ?_, ?_, ?_, ?_, ?_, ?_, ?_, ?_, ?_, ?_, ?_, ?_, ?_, ?_, ?_, ?_, ?_, ?_, ?_, ?_, ?_⟩ <;> decide

/-! ### Bytes of an answer -/

theorem bigEndian_one (v : Nat) : bigEndian 1 v = byteOf v := by
  simp [bigEndian, byteOf]

theorem extractLsb'_ofNat (w start v : Nat) (h : start + 8 ≤ w) :
    (BitVec.ofNat w v).extractLsb' start 8 = BitVec.ofNat 8 (v / 2 ^ start) := by
  apply BitVec.eq_of_toNat_eq
  simp only [BitVec.extractLsb'_toNat, BitVec.toNat_ofNat, Nat.shiftRight_eq_div_pow]
  obtain ⟨k, rfl⟩ := Nat.exists_eq_add_of_le h
  rw [show start + 8 + k = start + (8 + k) by omega, Nat.pow_add 2 start, Nat.mod_mul_right_div_self, Nat.pow_add 2 8 k,
    Nat.mod_mul_right_mod]

theorem bigEndian_two (v : Nat) : bigEndian 2 v = wordOf v := by
  simp [bigEndian, wordOf, be16, List.range_succ, extractLsb'_ofNat]

theorem bigEndian_four (v : Nat) : bigEndian 4 v = longOf v := by
  simp [bigEndian, longOf, be32, List.range_succ, extractLsb'_ofNat]

theorem wordOf_toNat (w : Word) : wordOf w.toNat = be16 w := by
  simp [wordOf]

/-- The bytes of a list of fields. -/
def fieldBytes (fs : List Field) : List Byte := fs.flatMap fun f => bigEndian f.1 f.2

@[simp] theorem fieldBytes_nil : fieldBytes [] = [] := rfl

@[simp] theorem fieldBytes_cons (f : Field) (fs : List Field) : fieldBytes (f :: fs) = bigEndian f.1 f.2 ++ fieldBytes fs :=
  List.flatMap_cons

@[simp] theorem fieldBytes_append (fs gs : List Field) : fieldBytes (fs ++ gs) = fieldBytes fs ++ fieldBytes gs :=
  List.flatMap_append

/-- An optional field is laid out as its bytes are. -/
theorem fieldBytes_optionalField {α : Type} {f : α → List Field} {g : α → List Byte} (h : ∀ a, fieldBytes (f a) = g a)
    (o : Option α) : fieldBytes (optionalField f o) = optionalOf g o := by
  cases o with
  | none => simp [optionalField, optionalOf, bigEndian_one, byteOf]
  | some a => simp [optionalField, optionalOf, bigEndian_one, byteOf, h]

theorem fieldBytes_flatMap {α : Type} {f : α → List Field} {g : α → List Byte} (h : ∀ a, fieldBytes (f a) = g a)
    (xs : List α) : fieldBytes (xs.flatMap f) = xs.flatMap g := by
  induction xs with
  | nil => rfl
  | cons x xs ih => simp [List.flatMap_cons, h, ih]

theorem fieldBytes_map {α : Type} {f : α → Field} {g : α → List Byte} (h : ∀ a, bigEndian (f a).1 (f a).2 = g a)
    (xs : List α) : fieldBytes (xs.map f) = xs.flatMap g := by
  induction xs with
  | nil => rfl
  | cons x xs ih => simp [List.flatMap_cons, h, ih]

theorem bigEndian_signed (x : Int) : bigEndian 4 (x % 4294967296).toNat = signedOf x := by
  have hword : BitVec.ofNat 32 (x % 4294967296).toNat = BitVec.ofInt 32 x := by
    apply BitVec.eq_of_toNat_eq
    rw [BitVec.toNat_ofNat, BitVec.toNat_ofInt]
    omega
  rw [bigEndian_four, longOf, hword]
  rfl

/-! ### The bytes of each part of an answer -/

theorem byteOf_flag (b : Bool) : byteOf (if b = true then 1 else 0) = flagOf b := by cases b <;> rfl

theorem fieldBytes_direction (d : Direction) : bigEndian (directionField d).1 (directionField d).2 = byteOf (directionCode d) := by
  cases d <;> exact bigEndian_one _

theorem fieldBytes_reason (q : Reason) : bigEndian (reasonField q).1 (reasonField q).2 = byteOf (Reason.code q) := by
  cases q <;> exact bigEndian_one _

theorem fieldBytes_award (a : Award) : fieldBytes (awardFields a) = awardBytes a := by
  simp [awardFields, awardBytes, flagField, bigEndian_one, bigEndian_two, wordOf_toNat, byteOf_flag]

theorem optionalOf_map {α β : Type} (g : β → List Byte) (f : α → β) (o : Option α) :
    optionalOf g (o.map f) = optionalOf (fun a => g (f a)) o := by
  cases o <;> rfl

theorem fieldBytes_record (r : HorizonRow) : fieldBytes (recordFields r) = rowBytes r := by
  have hone (o : Option Nat) : fieldBytes (optionalField (fun n => [(1, n)]) o) = optionalOf byteOf o :=
    fieldBytes_optionalField (by simp [bigEndian_one]) o
  have htwo (o : Option Nat) : fieldBytes (optionalField (fun n => [(2, n)]) o) = optionalOf wordOf o :=
    fieldBytes_optionalField (by simp [bigEndian_two]) o
  have haward (o : Option Award) : fieldBytes (optionalField awardFields o) = optionalOf awardBytes o :=
    fieldBytes_optionalField fieldBytes_award o
  have hreason (o : Option Reason) : fieldBytes (optionalField (fun q => [reasonField q]) o) =
      optionalOf (fun q => byteOf (Reason.code q)) o :=
    fieldBytes_optionalField (by simp [fieldBytes_reason]) o
  have hrun (f : RunFields → Nat) (o : Option RunFields) : fieldBytes (optionalField (fun x => [(2, f x)]) o) =
      optionalOf (fun x => wordOf (f x)) o :=
    fieldBytes_optionalField (by simp [bigEndian_two]) o
  have hdelivered (o : Option RunFields) : fieldBytes (optionalField (fun x => [signedField x.delivered]) o) =
      optionalOf (fun x => signedOf x.delivered) o :=
    fieldBytes_optionalField (by simp [signedField, bigEndian_signed]) o
  unfold recordFields rowBytes
  simp only [fieldBytes_append, fieldBytes_cons, fieldBytes_nil, List.append_nil, hone, htwo, haward, hreason, hrun,
    hdelivered, fieldBytes_direction, bigEndian_one, bigEndian_two, wordOf_toNat, optionalOf_map, List.append_assoc,
    List.singleton_append]
  cases r.state <;> rfl

theorem fieldBytes_config (c : StationConfig) : fieldBytes (answerFields (.config c)) = configBytes c := by
  have huplink : BitVec.ofNat 16 (if c.uplink = true then 1 else 0) = BitVec.ofNat 16 c.uplink.toNat := by
    cases c.uplink <;> rfl
  simp [answerFields, configBytes, configValues, itemsOf, List.range_succ, bigEndian_one, bigEndian_two, wordOf, huplink]
  cases c.nominal <;> rfl

theorem fieldBytes_status (r : StatusReport) : fieldBytes (answerFields (.status r)) = statusBytes r := by
  have hreason (o : Option SuspendReason) : fieldBytes (optionalField (fun q : SuspendReason => [match q with
      | .delivery => (1, 2)
      | .inverter => (1, 3)
      | .supply => (1, 4)]) o) = optionalOf (fun q => byteOf (SuspendReason.toReason q).code) o :=
    fieldBytes_optionalField (fun q => by cases q <;> exact bigEndian_one _) o
  unfold answerFields statusBytes
  simp only [fieldBytes_append, fieldBytes_cons, fieldBytes_nil, List.append_nil, flagField, bigEndian_one, bigEndian_two,
    bigEndian_four, wordOf_toNat, byteOf_flag, List.append_assoc, List.singleton_append]
  erw [hreason]
  cases r.station <;> cases r.freqState <;> cases r.feedback <;> cases r.tx <;> rfl

/-- The fields of a body are laid out as the model lays out its bytes. -/
theorem fieldBytes_answer (b : AnswerBody) : fieldBytes (answerFields b) = b.bytes := by
  cases b with
  | none => rfl
  | config c => exact fieldBytes_config c
  | injected o a =>
    have houtcome : fieldBytes (answerFields (.injected o a)) = byteOf o.code ++ fieldBytes (awardFields a) := by
      cases o <;> exact congrArg (· ++ _) (bigEndian_one _)
    rw [houtcome, fieldBytes_award]
    rfl
  | status r => exact fieldBytes_status r
  | horizon rows => exact fieldBytes_flatMap fieldBytes_record rows
  | peer p =>
    have hentries : fieldBytes (p.entries.flatMap (optionalField fun e : SlotEntry =>
        [(1, e.raiseBand.toNat), (1, e.lowerBand.toNat), (2, e.raiseQty.toNat), (2, e.lowerQty.toNat)])) =
        p.entries.flatMap (optionalOf entryBytes) :=
      fieldBytes_flatMap (fieldBytes_optionalField fun e => by
        simp [entryBytes, bigEndian_one, bigEndian_two, wordOf_toNat]) _
    have hheard : fieldBytes (p.heard.flatMap (optionalField fun h : Nat × Nat => [(2, h.1), (1, h.2)])) =
        p.heard.flatMap (optionalOf fun h => wordOf h.1 ++ byteOf h.2) :=
      fieldBytes_flatMap (fieldBytes_optionalField fun h => by simp [bigEndian_one, bigEndian_two]) _
    simp only [answerFields, AnswerBody.bytes, peerBytes, fieldBytes_append, fieldBytes_cons, fieldBytes_nil,
      List.append_nil, hentries, hheard, bigEndian_one, bigEndian_two, wordOf_toNat, List.append_assoc]
    cases p.status <;> rfl
  | ladder l =>
    have hsums (xs : List Nat) : fieldBytes (xs.map fun x => ((4, x) : Field)) = xs.flatMap longOf :=
      fieldBytes_map (fun x => bigEndian_four x) xs
    simp [answerFields, AnswerBody.bytes, ladderBytes, hsums, bigEndian_one, bigEndian_two, wordOf_toNat, fieldBytes_direction]
  | settled r left =>
    have haward (o : Option SettledAward) : fieldBytes (optionalField (fun a : SettledAward =>
        [(1, a.issue), (1, a.band), (2, a.quantity), flagField a.conflict]) o) = optionalOf settledAwardBytes o :=
      fieldBytes_optionalField (fun a => by
        simp [settledAwardBytes, flagField, bigEndian_one, bigEndian_two, byteOf_flag]) o
    have hreason (o : Option Reason) : fieldBytes (optionalField (fun q => [reasonField q]) o) =
        optionalOf (fun q => byteOf (Reason.code q)) o :=
      fieldBytes_optionalField (by simp [fieldBytes_reason]) o
    simp [answerFields, AnswerBody.bytes, settlementBytes, haward, hreason, signedField, bigEndian_signed, bigEndian_one,
      bigEndian_two, wordOf_toNat, fieldBytes_direction]
  | events f a m => simp [answerFields, AnswerBody.bytes, bigEndian_two, wordOf_toNat]

theorem answer_bytes_eq (a : Answer) : a.bytes = answerFrame a := by
  have hbody : (answerFields a.body).flatMap (fun f => bigEndian f.1 f.2) = a.body.bytes := fieldBytes_answer a.body
  simp only [Answer.bytes, answerFrame, hbody, bigEndian_one, bigEndian_two]
  cases a.code <;> rfl

/-! ### What a transaction shifts out -/

theorem shiftOut_length (held : Option Answer) (n : Nat) : (shiftOut held n).length = n := by
  unfold shiftOut
  simp only [List.length_take, List.length_append, List.length_replicate]
  omega

theorem shiftOut_some_getElem? (a : Answer) {n j : Nat} (h : j < n) : (shiftOut (some a) n)[j]? = some (a.bytes.getD j 0) := by
  simp only [shiftOut, List.getElem?_take_of_lt h, List.getElem?_append, List.getD_eq_getElem?_getD]
  split
  next hin => simp [hin]
  next hout =>
    rw [List.getElem?_replicate_of_lt (by omega), List.getElem?_eq_none (by omega)]
    rfl

theorem shiftOut_none_getElem? {n j : Nat} (h : j < n) : (shiftOut none n)[j]? = some 0 := by
  simp [shiftOut, h]

/-- Settles O7. -/
theorem transactionsShiftAnswers : Obligations.TransactionsShiftAnswers :=
  ⟨fun _ _ _ => ⟨rfl, rfl⟩,
    fun n _ a => ⟨shiftOut_length (some a) n, shiftOut_length none n, fun h => ⟨shiftOut_some_getElem? a h, shiftOut_none_getElem? h⟩⟩,
    answer_bytes_eq⟩

/-! ### Refusals of the Host Link -/

/-- Settles O8: every host command is `hostCommand` of its own service, which refuses before the service is asked. -/
theorem hostLinkRefusals : Obligations.HostLinkRefusals := by
  refine ⟨fun n s => ⟨_, rfl, rfl, rfl, rfl, rfl, rfl, rfl, rfl, rfl, rfl, rfl, rfl, rfl, rfl, rfl, rfl, rfl, rfl, rfl, rfl⟩,
    fun n s items mark st base price avail award hleaving => ⟨_, rfl, ?_⟩⟩
  have hrefused {α : Type} (b : α) (serve : α → State → State × Answer) :
      (.next (hostCommand ⟨n, some b⟩ false serve s) : Result) = .next (answeredOnly n (plain .refusedState) s) :=
    congrArg Host.Outcome.next (hostCommand_leaving n b serve s hleaving)
  exact ⟨hrefused items serveConfigure, hrefused () serveJoin, hrefused () serveLeave, hrefused () serveClearSuspend,
    hrefused mark serveMark, hrefused st serveState, hrefused base _, hrefused price _, hrefused avail _, hrefused award serveInject⟩

end Sys2Proof.Machine

/-! PROOFS. The commands that read or clear (R34, R89, R162 to R164, R167). -/

namespace Sys2Proof.Machine

/-! ### Lookups of a table whose keys stand once -/

/-- Of a table whose keys stand once, each record is found under its key. -/
theorem findRec_of_mem {table : List CRecord} (hkeys : (recordKeys table).Nodup) {r : CRecord} (hr : r ∈ table) :
    findRec table r.interval r.dir = some r := by
  induction table with
  | nil => cases hr
  | cons x rest ih =>
    simp only [recordKeys, List.map_cons, List.nodup_cons] at hkeys
    rcases List.mem_cons.mp hr with rfl | hin
    · simp [findRec, CRecord.is]
    · have hother : x.is r.interval r.dir = false := by
        refine Bool.eq_false_iff.mpr fun hx => hkeys.1 ?_
        simp only [CRecord.is, Bool.and_eq_true, beq_iff_eq] at hx
        rw [hx.1, hx.2]
        exact List.mem_map_of_mem hin
      rw [findRec, List.find?_cons, hother]
      exact ih hkeys.2 hin

/-- The records of a table whose keys stand once, looked up key by key. -/
theorem filterMap_findRec {table : List CRecord} (hkeys : (recordKeys table).Nodup) :
    (recordKeys table).filterMap (fun kd => findRec table kd.1 kd.2) = table := by
  rw [recordKeys, List.filterMap_map]
  calc table.filterMap ((fun kd => findRec table kd.1 kd.2) ∘ fun r => (r.interval, r.dir))
      = table.filterMap some := List.filterMap_congr fun r hr => findRec_of_mem hkeys hr
    _ = table := List.filterMap_some

/-- READ_HORIZON returns the table as it stands. -/
theorem horizonRows_eq {s : State} (h : HorizonLaw s) : horizonRows s = s.table.map horizonRow := by
  unfold HorizonLaw at h
  unfold horizonRows
  split_ifs at h with hunjoined
  · simp [h.1, findRec]
  · have hkeys : (recordKeys s.table).Nodup := h ▸ horizonPairs_nodup _
    rw [← h]
    calc (recordKeys s.table).filterMap (fun kd => (findRec s.table kd.1 kd.2).map horizonRow)
        = ((recordKeys s.table).filterMap fun kd => findRec s.table kd.1 kd.2).map horizonRow := by rw [List.map_filterMap]
      _ = s.table.map horizonRow := by rw [filterMap_findRec hkeys]

/-! ### A command that changes nothing but the answers -/

/-- A command served in every station state whose answer the transaction does not touch. -/
theorem hostCommand_of_reads {α : Type} {n : Nat} {b : α} {serve : α → State → State × Answer} {s : State} {a : Answer}
    (hserve : serve b (clockOut n s) = (clockOut n s, a)) :
    (.next (hostCommand ⟨n, some b⟩ true serve s) : Result) = .next (answeredOnly n a s) := by
  rw [hostCommand_served n b true serve s (.inr rfl), hserve]
  rfl

theorem exec_readHorizon_eq (n : Nat) (s : State) :
    exec (.readHorizon ⟨n, some ()⟩) s = .next (answeredOnly n ⟨.done, .horizon (horizonRows s)⟩ s) :=
  hostCommand_of_reads (serve := serveHorizon) (by simp [serveHorizon, horizonRows, tableFirst])

theorem heardOf_horizonPairs (cur : Word) (p : Peer) :
    ((horizonPairs cur).map fun kd => (p.heardAt kd.1 kd.2).map fun h => (h.amount, h.issue)) =
      (List.range 8).flatMap fun j =>
        [(p.heardAt (cur + BitVec.ofNat 16 j) .raise).map fun h => (h.amount, h.issue),
         (p.heardAt (cur + BitVec.ofNat 16 j) .lower).map fun h => (h.amount, h.issue)] := by
  rw [horizonPairs, List.map_flatMap]
  rfl

/-- Settles O10. -/
theorem horizonAndViewReturned : Obligations.HorizonAndViewReturned := by
  refine ⟨fun n s hlaw => ?_, fun n i s => ⟨fun p hp => ?_, fun hout => ?_⟩⟩
  · rw [exec_readHorizon_eq, horizonRows_eq hlaw]
    rfl
  · refine hostCommand_of_reads (serve := serveView) ?_
    simp only [serveView, clockOut_frame, hp, peerReport, heardOf_horizonPairs]
    rfl
  · refine hostCommand_of_reads (serve := serveView) ?_
    simp [serveView, List.getElem?_eq_none hout]

/-! ### READ_LOG and the event commands -/

theorem exec_readLog_empty (n : Nat) {s : State} (h : s.host.log = []) :
    exec (.readLog ⟨n, some ()⟩) s = .next (answeredOnly n (plain .empty) s) :=
  hostCommand_of_reads (serve := serveLog) (by simp [serveLog, h])

theorem exec_readLog_cons (n : Nat) {s : State} {r : Settlement} {rest : List Settlement} (h : s.host.log = r :: rest) :
    exec (.readLog ⟨n, some ()⟩) s =
      .next (answeredOnly n ⟨.done, .settled r rest.length⟩ { s with host := { s.host with log := rest } }) := by
  refine (congrArg Host.Outcome.next (hostCommand_served n () true serveLog s (.inr rfl))).trans ?_
  simp [serveLog, h]
  rfl

/-- Bits 14 and 15 of a mask are the ones 0xC000 selects. -/
theorem eventMaskAllowed_iff (m : Word) : eventMaskAllowed m = true ↔ m &&& 0xC000#16 = 0 := by
  have hbit (i : Nat) : (0xC000#16).getLsbD i = (i == 14 || i == 15) := by
    by_cases h : i < 16
    · interval_cases i <;> rfl
    · rw [BitVec.getLsbD_of_ge _ _ (by omega)]
      have h14 : i ≠ 14 := by omega
      have h15 : i ≠ 15 := by omega
      simp [h14, h15]
  simp only [eventMaskAllowed, Bool.and_eq_true, Bool.not_eq_true']
  constructor
  · rintro ⟨h14, h15⟩
    refine BitVec.eq_of_getLsbD_eq fun i _ => ?_
    rw [BitVec.getLsbD_and, hbit]
    by_cases hi : i = 14
    · rw [hi, h14]
      rfl
    · by_cases hi' : i = 15
      · rw [hi', h15]
        rfl
      · simp [hi, hi']
  · intro h
    have hzero (i : Nat) : (m &&& 0xC000#16).getLsbD i = false := by rw [h]; exact BitVec.getLsbD_zero
    have h14 := hzero 14
    have h15 := hzero 15
    rw [BitVec.getLsbD_and, hbit] at h14 h15
    exact ⟨by simpa using h14, by simpa using h15⟩

theorem eventMaskAllowed_eq_false_iff (m : Word) : eventMaskAllowed m = false ↔ m &&& 0xC000#16 ≠ 0 := by
  rw [ne_eq, ← eventMaskAllowed_iff, Bool.not_eq_true]

/-- The flags an event's command leaves: those it does not select. -/
theorem getLsbD_andNot (x m : Word) {b : Nat} (hb : b < 16) : (x &&& ~~~m).getLsbD b = (x.getLsbD b && !m.getLsbD b) := by
  simp [hb]

theorem exec_clearEvents_allowed (n : Nat) {m : Word} (s : State) (hm : eventMaskAllowed m = true) :
    exec (.clearEvents ⟨n, some m⟩) s = .next (answeredOnly n (plain .done) (clearFlags m s)) := by
  refine (congrArg Host.Outcome.next (hostCommand_served n m true serveClearEvents s (.inr rfl))).trans ?_
  simp [serveClearEvents, hm]
  rfl

theorem exec_setEventMask_allowed (n : Nat) {m : Word} (s : State) (hm : eventMaskAllowed m = true) :
    exec (.setEventMask ⟨n, some m⟩) s = .next (answeredOnly n (plain .done) { s with host := { s.host with mask := m } }) := by
  refine (congrArg Host.Outcome.next (hostCommand_served n m true serveEventMask s (.inr rfl))).trans ?_
  simp [serveEventMask, hm]
  rfl

/-! ### Raised events -/

theorem event_bit_lt (e : Event) : e.bit < 14 := by cases e <;> decide

theorem event_bit_injective {e f : Event} (h : e.bit = f.bit) : e = f := by
  revert h
  cases e <;> cases f <;> decide

/-- The flags and again flags after an event, bit by bit. -/
theorem raiseEvent_bits (e : Event) (s : State) (i : Nat) :
    (raiseEvent e s).host.flags.getLsbD i = (s.host.flags.getLsbD i || decide (i = e.bit)) ∧
    (raiseEvent e s).host.again.getLsbD i = (s.host.again.getLsbD i || (flagSet e s && decide (i = e.bit))) := by
  unfold raiseEvent
  split
  next h =>
    refine ⟨?_, by simp [event_word_getLsbD, h]⟩
    by_cases hi : i = e.bit
    · subst hi
      simpa [flagSet] using h
    · simp [hi]
  next h => simp [event_word_getLsbD, h]

/-- An event changes flags and again flags alone. -/
theorem raiseEvent_eq (e : Event) (s : State) : raiseEvent e s = { s with host := { s.host with
    flags := (raiseEvent e s).host.flags, again := (raiseEvent e s).host.again } } := by
  unfold raiseEvent
  split <;> rfl

theorem attnAsserted_iff (s : State) :
    attnAsserted s = true ↔ ∃ b, b < 16 ∧ s.host.flags.getLsbD b = true ∧ s.host.mask.getLsbD b = true := by
  rw [attnAsserted, bne_iff_ne]
  constructor
  · intro h
    by_contra hnone
    refine h (BitVec.eq_of_getLsbD_eq fun i hi => ?_)
    have hi' : ¬ (s.host.flags.getLsbD i = true ∧ s.host.mask.getLsbD i = true) := fun hboth => hnone ⟨i, hi, hboth⟩
    rw [BitVec.getLsbD_and]
    exact (Bool.eq_false_iff.mpr fun hand => hi' (Bool.and_eq_true_iff.mp hand)).trans BitVec.getLsbD_zero.symm
  · rintro ⟨b, _, hflag, hmask⟩ h
    have hbit : (s.host.flags &&& s.host.mask).getLsbD b = false := by rw [h]; exact BitVec.getLsbD_zero
    simp [hflag, hmask] at hbit

/-- Settles O12. -/
theorem logAndEventsServed : Obligations.LogAndEventsServed := by
  refine ⟨fun n s => ⟨exec_readLog_empty n, fun r rest => exec_readLog_cons n⟩, fun n m s => ⟨?_, fun hm => ⟨?_, ?_⟩, fun hm => ?_⟩,
    fun e f s => ⟨flagSet_raiseEvent e s, ?_, fun hne => ?_, raiseEvent_eq e s⟩, attnAsserted_iff⟩
  · exact hostCommand_of_reads (serve := serveEvents) (by simp [serveEvents])
  · exact ⟨clearFlags m s, exec_clearEvents_allowed n s ((eventMaskAllowed_iff m).mpr hm),
      fun b hb => ⟨getLsbD_andNot _ m hb, getLsbD_andNot _ m hb⟩, rfl⟩
  · exact exec_setEventMask_allowed n s ((eventMaskAllowed_iff m).mpr hm)
  · have hrefused := (eventMaskAllowed_eq_false_iff m).mpr hm
    exact ⟨hostCommand_of_reads (serve := serveClearEvents) (by simp [serveClearEvents, hrefused]),
      hostCommand_of_reads (serve := serveEventMask) (by simp [serveEventMask, hrefused])⟩
  · rw [againSet, (raiseEvent_bits e s e.bit).2]
    simp [againSet]
  · have hbit : f.bit ≠ e.bit := fun h => hne (event_bit_injective h)
    rw [flagSet, againSet, (raiseEvent_bits e s f.bit).1, (raiseEvent_bits e s f.bit).2]
    simp [hbit, flagSet, againSet]

end Sys2Proof.Machine

/-! PROOFS. What is encoded reads back: the transactions of the host link (R159, R160, R171) and the frames of the cluster
line (R67, R168 to R170). -/

namespace Sys2Proof.Machine

open Sys2Proof.Laws

/-! ### Bodies read back -/

theorem parseItemList_encoded (items : List Item) : parseItemList (items.flatMap encodeItem) = some items := by
  induction items with
  | nil => rfl
  | cons i rest ih => simp [List.flatMap_cons, encodeItem, be16, parseItemList, ih]

theorem parseConfigure_encoded {items : List Item} (h : items.length ≤ 32) :
    parseConfigure (items.flatMap encodeItem) = some items := by
  rw [parseConfigure, items_length, if_pos (by omega), parseItemList_encoded]

theorem parseValueList_encoded (vs : List (BitVec 32)) : parseValueList (vs.flatMap be32) = some vs := by
  induction vs with
  | nil => rfl
  | cons v rest ih => simp [List.flatMap_cons, be32, parseValueList, ih]

theorem parseBaseline_encoded {b : BaselineBody} (h : b.values.length ≤ 255) :
    parseBaseline (be16 b.first ++ [BitVec.ofNat 8 b.values.length] ++ b.values.flatMap be32) = some b := by
  have hcount : b.values.length % 256 = b.values.length := Nat.mod_eq_of_lt (by omega)
  simp [be16, parseBaseline, parseValueList_encoded, hcount]

theorem parseAvailability_encoded {b : AvailabilityBody} (h : b.flags.length ≤ 255) :
    parseAvailability (be16 b.first ++ [BitVec.ofNat 8 b.flags.length] ++ b.flags) = some b := by
  have hcount : b.flags.length % 256 = b.flags.length := Nat.mod_eq_of_lt (by omega)
  simp [be16, parseAvailability, hcount]

theorem parseAward_encoded (b : AwardBody) : parseAward (encodeAward b) = some b := by
  simp [encodeAward, be16, parseAward]

/-! ### Transactions read back -/

/-- A frame whose bytes were all clocked gives its body back, whatever follows it. -/
theorem frameBody_encoded {α : Type} {parse : List Byte → Option α} {body : List Byte} {b : α} {clocked : Nat}
    (hparse : parse body = some b) (hsize : 3 + body.length ≤ clocked) :
    frameBody ((body ++ List.replicate (clocked - (3 + body.length)) 0).length + 3) body.length
      (body ++ List.replicate (clocked - (3 + body.length)) 0) parse = ⟨clocked, some b⟩ := by
  have hlength : body.length + (clocked - (3 + body.length)) + 3 = clocked := by omega
  simp [frameBody, hlength, hparse]

/-- A command reads back where its code selects the reader of its body. -/
theorem readBack_of_parse {α : Type} (make : Transaction α → Instr) (t : Transaction α) {code : Byte}
    {parse : List Byte → Option α} {bytes : α → List Byte}
    (hbytes : commandBytes (make t) = t.body.map fun b => (code, bytes b)) (hclocked : clockedBytes (make t) = t.clocked)
    (hread : ∀ l1 l0 rest, decodeTransaction (code :: l1 :: l0 :: rest) =
      make (frameBody (rest.length + 3) (u16 l1 l0).toNat rest parse))
    (harises : Arises.Statement (make t)) (hwell : (make t).wellFormed = true)
    (hparse : ∀ b, t.body = some b → parse (bytes b) = some b) (hbody : (commandBytes (make t)).isSome = true) :
    decodeTransaction (encodeTransaction (make t) (clockedBytes (make t))) = make t := by
  obtain ⟨clocked, body⟩ := t
  rw [hbytes, Option.isSome_map] at hbody
  obtain ⟨b, rfl⟩ := Option.isSome_iff_exists.mp hbody
  obtain ⟨hsize, -, hfits⟩ := harises hwell code (bytes b) hbytes
  rw [hclocked] at hsize ⊢
  have hlength : (u16 ((BitVec.ofNat 16 (bytes b).length).extractLsb' 8 8)
      ((BitVec.ofNat 16 (bytes b).length).extractLsb' 0 8)).toNat = (bytes b).length := by
    rw [u16_be16, BitVec.toNat_ofNat, Nat.mod_eq_of_lt hfits]
  simp only [encodeTransaction, hbytes, Option.map_some, be16, List.cons_append, List.nil_append]
  rw [hread, hlength, frameBody_encoded (hparse b rfl) hsize]

/-- Settles O3, command by command: the code selects the reader that undoes the command's own encoding. -/
theorem transactionsReadBack : Obligations.TransactionsReadBack := by
  intro i hwell hbody
  cases i
  case configure t =>
    exact readBack_of_parse .configure t rfl rfl (fun _ _ _ => rfl) (Arises.configure t) hwell
      (fun b hb => parseConfigure_encoded (by simpa using (clocked_of_wellFormed hwell hb).2)) hbody
  case setBaseline t =>
    exact readBack_of_parse .setBaseline t rfl rfl (fun _ _ _ => rfl) (Arises.setBaseline t) hwell
      (fun b hb => parseBaseline_encoded (by simpa using (clocked_of_wellFormed hwell hb).2)) hbody
  case setAvailability t =>
    exact readBack_of_parse .setAvailability t rfl rfl (fun _ _ _ => rfl) (Arises.setAvailability t) hwell
      (fun b hb => parseAvailability_encoded (by simpa using (clocked_of_wellFormed hwell hb).2)) hbody
  case join t => exact readBack_of_parse .join t rfl rfl (fun _ _ _ => rfl) (Arises.join t) hwell (fun _ _ => rfl) hbody
  case leave t => exact readBack_of_parse .leave t rfl rfl (fun _ _ _ => rfl) (Arises.leave t) hwell (fun _ _ => rfl) hbody
  case restart t => exact readBack_of_parse .restart t rfl rfl (fun _ _ _ => rfl) (Arises.restart t) hwell (fun _ _ => rfl) hbody
  case clearSuspend t =>
    exact readBack_of_parse .clearSuspend t rfl rfl (fun _ _ _ => rfl) (Arises.clearSuspend t) hwell (fun _ _ => rfl) hbody
  case intervalMark t =>
    exact readBack_of_parse .intervalMark t rfl rfl (fun _ _ _ => rfl) (Arises.intervalMark t) hwell
      (fun b _ => by simp [be16, parseMark]) hbody
  case setState t =>
    exact readBack_of_parse .setState t rfl rfl (fun _ _ _ => rfl) (Arises.setState t) hwell
      (fun b _ => by simp [be16, parseState]) hbody
  case setPrice t =>
    exact readBack_of_parse .setPrice t rfl rfl (fun _ _ _ => rfl) (Arises.setPrice t) hwell (fun _ _ => rfl) hbody
  case injectAward t =>
    exact readBack_of_parse .injectAward t rfl rfl (fun _ _ _ => rfl) (Arises.injectAward t) hwell
      (fun b _ => parseAward_encoded b) hbody
  case readStatus t =>
    exact readBack_of_parse .readStatus t rfl rfl (fun _ _ _ => rfl) (Arises.readStatus t) hwell (fun _ _ => rfl) hbody
  case readHorizon t =>
    exact readBack_of_parse .readHorizon t rfl rfl (fun _ _ _ => rfl) (Arises.readHorizon t) hwell (fun _ _ => rfl) hbody
  case readView t =>
    exact readBack_of_parse .readView t rfl rfl (fun _ _ _ => rfl) (Arises.readView t) hwell (fun _ _ => rfl) hbody
  case readLadder t =>
    exact readBack_of_parse .readLadder t rfl rfl (fun _ _ _ => rfl) (Arises.readLadder t) hwell
      (fun b _ => by simp [be16, parseLadder]) hbody
  case readLog t => exact readBack_of_parse .readLog t rfl rfl (fun _ _ _ => rfl) (Arises.readLog t) hwell (fun _ _ => rfl) hbody
  case readEvents t =>
    exact readBack_of_parse .readEvents t rfl rfl (fun _ _ _ => rfl) (Arises.readEvents t) hwell (fun _ _ => rfl) hbody
  case clearEvents t =>
    exact readBack_of_parse .clearEvents t rfl rfl (fun _ _ _ => rfl) (Arises.clearEvents t) hwell
      (fun m _ => by simp [be16, parseMask]) hbody
  case setEventMask t =>
    exact readBack_of_parse .setEventMask t rfl rfl (fun _ _ _ => rfl) (Arises.setEventMask t) hwell
      (fun m _ => by simp [be16, parseMask]) hbody
  all_goals cases hbody

/-! ### Frames read back -/

theorem slotEntryBytes_eq (e : SlotEntry) : slotEntryBytes e =
    [e.raiseBand ++ e.lowerBand, e.raiseQty.extractLsb' 8 8, e.raiseQty.extractLsb' 0 8,
      e.lowerQty.extractLsb' 8 8, e.lowerQty.extractLsb' 0 8] := rfl

theorem bands_extract (a b : BitVec 4) :
    ((a ++ b : Byte).extractLsb' 4 4) = a ∧ ((a ++ b : Byte).extractLsb' 0 4) = b := by
  constructor <;> apply BitVec.eq_of_toNat_eq
  · rw [BitVec.extractLsb'_toNat, BitVec.toNat_append, Nat.shiftLeft_eq, Nat.shiftRight_eq_div_pow]
    rw [← Nat.shiftLeft_eq, ← Nat.shiftLeft_add_eq_or_of_lt b.isLt, Nat.shiftLeft_eq]
    omega
  · rw [BitVec.extractLsb'_toNat, BitVec.toNat_append, ← Nat.shiftLeft_add_eq_or_of_lt b.isLt, Nat.shiftLeft_eq]
    simp only [Nat.shiftRight_zero]
    omega

theorem parseEntries_encoded (entries : List SlotEntry) :
    parseEntries entries.length (entries.flatMap slotEntryBytes) = some entries := by
  induction entries with
  | nil => rfl
  | cons e rest ih =>
    simp [List.flatMap_cons, slotEntryBytes_eq, parseEntries, ih, bands_extract]

/-- The entries read from a body are as many as were asked for, 5 bytes each. -/
theorem parseEntries_length {n : Nat} {body : List Byte} {entries : List SlotEntry}
    (h : parseEntries n body = some entries) : entries.length = n ∧ body.length = 5 * n := by
  induction n generalizing body entries with
  | zero =>
    cases body with
    | nil =>
      obtain rfl := Option.some.inj h
      exact ⟨rfl, rfl⟩
    | cons b rest => cases h
  | succ n ih =>
    match body, h with
    | b :: r1 :: r0 :: l1 :: l0 :: rest, h =>
      simp only [parseEntries, Option.map_eq_some_iff] at h
      obtain ⟨es, hes, rfl⟩ := h
      obtain ⟨hcount, hlength⟩ := ih hes
      simp only [List.length_cons]
      omega

theorem flatMap_slotEntryBytes_length (entries : List SlotEntry) :
    (entries.flatMap slotEntryBytes).length = 5 * entries.length := by
  induction entries with
  | nil => rfl
  | cons e rest ih =>
    rw [List.flatMap_cons, List.length_append, ih]
    simp only [slotEntryBytes_eq, List.length_cons, List.length_nil]
    omega

theorem directionOf_dirByte (d : Direction) : directionOf (dirByte d) = some d := by cases d <;> rfl

theorem reasonOf_reasonByte (r : Reason) : reasonOf (reasonByte r) = some r := by cases r <;> rfl

/-- A lawful PLEDGE carries 1 to 8 entries. -/
def NoticeBody.lawful (b : NoticeBody) : Prop :=
  ∀ first entries, b = .pledge first entries → 1 ≤ entries.length ∧ entries.length ≤ 8

theorem parseBody_encoded {b : NoticeBody} (h : b.lawful) : parseBody (kindAndBody b).1 (kindAndBody b).2 = some b := by
  cases b with
  | pledge first entries =>
    obtain ⟨hone, height⟩ := h first entries rfl
    have hentries := parseEntries_encoded entries
    simp only [kindAndBody, be16, List.cons_append, List.nil_append]
    generalize entries.length = n at hone height hentries
    have hkind : (BitVec.ofNat 8 (0x10 + n)).toNat = 0x10 + n := by
      rw [BitVec.toNat_ofNat]
      omega
    have hcount : (BitVec.ofNat 8 n).toNat = n := by
      rw [BitVec.toNat_ofNat]
      omega
    have hrange : 0x10 ≤ 0x10 + n ∧ 0x10 + n ≤ 0x1F := by omega
    unfold parseBody
    rw [hkind, if_pos hrange]
    simp [hcount, hentries, hone, height]
  | take k d i t =>
    change (directionOf (dirByte d)).map (fun d => NoticeBody.take (u16 _ _) d i (u16 _ _)) = _
    rw [directionOf_dirByte, u16_be16, u16_be16]
    rfl
  | award k d i band q c m =>
    have hband : (band.setWidth 8).toNat ≤ 15 := by
      rw [BitVec.toNat_setWidth]
      omega
    have hback : (band.setWidth 8).setWidth 4 = band := by
      apply BitVec.eq_of_toNat_eq
      simp only [BitVec.toNat_setWidth]
      omega
    change (if (band.setWidth 8 : Byte).toNat ≤ 15 then (directionOf (dirByte d)).map (fun d =>
      NoticeBody.award (u16 _ _) d i ((band.setWidth 8 : Byte).setWidth 4) (u16 _ _) (u16 _ _) (u16 _ _)) else none) = _
    rw [if_pos hband, hback, directionOf_dirByte, u16_be16, u16_be16, u16_be16, u16_be16]
    rfl
  | withdraw r f a =>
    change (reasonOf (reasonByte r)).map (fun r => NoticeBody.withdraw r (u16 _ _) a) = _
    rw [reasonOf_reasonByte, u16_be16]
    rfl

/-- What a body reads as has the body's length, and a PLEDGE its 1 to 8 entries. -/
theorem parseBody_some {kind : Byte} {body : List Byte} {b : NoticeBody} (h : parseBody kind body = some b) :
    body.length = (kindAndBody b).2.length ∧ b.lawful := by
  unfold parseBody at h
  split_ifs at h
  · split at h
    next f1 f0 c rest =>
      dsimp only at h
      split_ifs at h with hcount
      obtain ⟨entries, hentries, rfl⟩ := Option.map_eq_some_iff.mp h
      obtain ⟨hn, hlength⟩ := parseEntries_length hentries
      refine ⟨?_, ?_⟩
      · simp only [kindAndBody, be16, List.length_cons, List.length_append, List.length_nil, hlength,
          flatMap_slotEntryBytes_length, hn]
        omega
      · rintro _ _ ⟨⟩
        omega
    next => cases h
  · split at h
    next =>
      obtain ⟨d, -, rfl⟩ := Option.map_eq_some_iff.mp h
      exact ⟨rfl, nofun⟩
    next => cases h
  · split at h
    next =>
      split_ifs at h
      obtain ⟨d, -, rfl⟩ := Option.map_eq_some_iff.mp h
      exact ⟨rfl, nofun⟩
    next => cases h
  · split at h
    next =>
      obtain ⟨r, -, rfl⟩ := Option.map_eq_some_iff.mp h
      exact ⟨rfl, nofun⟩
    next => cases h

theorem parseCovered_encoded {n : Notice} (hid : 1 ≤ n.sender.toNat ∧ n.sender.toNat ≤ 250) (h : n.body.lawful) :
    parseCovered (coveredBytes n) = some n := by
  simp only [coveredBytes, be16, List.cons_append, List.nil_append, parseCovered, if_pos hid, parseBody_encoded h,
    Option.map_some, u16_be16]

theorem parseCovered_some {covered : List Byte} {n : Notice} (h : parseCovered covered = some n) :
    (1 ≤ n.sender.toNat ∧ n.sender.toNat ≤ 250) ∧ covered.length = (coveredBytes n).length ∧ n.body.lawful := by
  unfold parseCovered at h
  split at h
  next kind id z1 z0 body =>
    split_ifs at h with hid
    obtain ⟨b, hb, rfl⟩ := Option.map_eq_some_iff.mp h
    obtain ⟨hlength, hlawful⟩ := parseBody_some hb
    refine ⟨hid, ?_, hlawful⟩
    simp only [coveredBytes, be16, List.length_cons, List.length_append, List.length_nil, hlength]
    omega
  next => cases h

theorem frameBytes_length (n : Notice) : (frameBytes n).length = (coveredBytes n).length + 2 := by
  simp [frameBytes, be16]

theorem checkFrame_frameBytes {n : Notice} (hid : 1 ≤ n.sender.toNat ∧ n.sender.toNat ≤ 250) (h : n.body.lawful) :
    checkFrame (frameBytes n) = some n := by
  have hcut : (frameBytes n).length - 2 = (coveredBytes n).length := by
    rw [frameBytes_length]
    omega
  have hcovered : (frameBytes n).take ((frameBytes n).length - 2) = coveredBytes n := by
    rw [hcut, frameBytes, List.take_left]
  have hcrc : receivedCrc (frameBytes n) = some (crc16 (coveredBytes n)) := by
    rw [receivedCrc, hcut, frameBytes, List.drop_left]
    simp [be16]
  simp only [checkFrame, hcovered, hcrc, if_pos, parseCovered_encoded hid h]

/-- A frame with a received CRC is two bytes longer than what the CRC covers. -/
theorem length_of_receivedCrc {bytes : List Byte} {w : Word} (h : receivedCrc bytes = some w) :
    bytes.length = (bytes.take (bytes.length - 2)).length + 2 := by
  have htail : (bytes.drop (bytes.length - 2)).length = 2 := by
    unfold receivedCrc at h
    split at h
    next hdrop => rw [hdrop]; rfl
    next => cases h
  rw [List.length_drop] at htail
  rw [List.length_take]
  omega

theorem checkFrame_some {bytes : List Byte} {n : Notice} (h : checkFrame bytes = some n) :
    (1 ≤ n.sender.toNat ∧ n.sender.toNat ≤ 250) ∧ bytes.length = (frameBytes n).length ∧ n.body.lawful := by
  unfold checkFrame at h
  dsimp only at h
  split_ifs at h with hcrc
  obtain ⟨hid, hlength, hlawful⟩ := parseCovered_some h
  refine ⟨hid, ?_, hlawful⟩
  rw [length_of_receivedCrc hcrc, hlength, frameBytes_length]

/-- Settles O4. -/
theorem framesReadBack : Obligations.FramesReadBack := by
  refine ⟨fun n hlow hhigh hlawful => checkFrame_frameBytes ⟨hlow, hhigh⟩ hlawful, fun bytes n h => ?_⟩
  obtain ⟨⟨hlow, hhigh⟩, hlength, hlawful⟩ := checkFrame_some h
  exact ⟨hlow, hhigh, hlength, hlawful⟩

end Sys2Proof.Machine

/-! PROOFS. What the Allocation Unit and the suspension requests keep: a property that each of their elementary changes
keeps is kept by everything built from them. -/

namespace Sys2Proof.Machine

/-! ### Folds -/

/-- A fold keeps what each of its steps keeps. -/
theorem foldl_preserves {α : Type} {P : State → Prop} {f : State → α → State} (h : ∀ s x, P s → P (f s x)) (xs : List α) {s : State}
    (hs : P s) : P (xs.foldl f s) := by
  induction xs generalizing s with
  | nil => exact hs
  | cons x xs ih => exact ih (h s x hs)

/-! ### The Allocation Unit -/

/-- A property that each elementary change of the Allocation Unit keeps. A take is changed in ACTIVE alone, where the record
holds an award, and stays within the cap; an award is stored in the record it meets. -/
structure AllocationKeeps (P : State → Prop) : Prop where
  raise : ∀ e s, P s → P (raiseEvent e s)
  entryDue : ∀ b s, P s → P (s.setEntryDue b)
  enqueueTake : ∀ s k d r, findRec s.table k d = some r → P s → P (enqueue (.take k d) none s)
  changeTake : ∀ s k d r t, findRec s.table k d = some r → isActive s = true → r.award.isSome = true →
    (r.take ≤ r.cap.getD 0 → t ≤ r.cap.getD 0) → P s → P (changeTake k d t s)
  setEvalPending : ∀ s k d b, (b = true → isActive s = true) → P s → P (setEvalPending k d b s)
  applied : ∀ s k d r a, findRec s.table k d = some r → P s →
    P (s.updRec k d fun r => r.withApplied (bandOf s.pledge d) a)
  replaced : ∀ s k d r held a, findRec s.table k d = some r → r.award = some held → P s →
    P (s.updRec k d fun r => { r with award := some a })

namespace AllocationKeeps

variable {P : State → Prop} (h : AllocationKeeps P)
include h

theorem takeTest {k : Word} {d : Direction} {s : State} (hs : P s) : P (takeTest k d s) := by
  unfold Machine.takeTest
  split
  next r hr =>
    split
    · exact h.enqueueTake s k d r hr hs
    · exact hs
  next => exact hs

theorem evaluate {k : Word} {d : Direction} {s : State} (hs : P s) : P (evaluate k d s) := by
  unfold Machine.evaluate
  split
  next r hr =>
    split
    next a ha =>
      split
      next hactive =>
        dsimp only
        split
        · exact hs
        · exact h.takeTest (h.changeTake s k d r _ hr hactive (by simp [ha]) (evaluatedTake_le _ _ _ _ r.ownTerm _) hs)
      next => exact hs
    next => exact hs
  next => exact hs

theorem triggerEvaluation {s : State} (kd : Word × Direction) (hs : P s) : P (triggerEvaluation s kd) := by
  unfold Machine.triggerEvaluation
  split
  next r hr =>
    split
    next hactive =>
      split
      · exact h.setEvalPending s kd.1 kd.2 true (fun _ => hactive.1) hs
      · exact h.evaluate hs
    next => exact hs
  next => exact hs

theorem actOnReport {s : State} (pairs : Report) (hs : P s) : P (actOnReport pairs s) :=
  foldl_preserves (fun _ kd => h.triggerEvaluation kd) pairs hs

theorem writeMerit {k : Word} {d : Direction} {s : State} (hactive : isActive s = true) (hs : P s) : P (writeMerit k d s) := by
  unfold Machine.writeMerit
  split
  next r hr =>
    split
    next a ha =>
      exact h.takeTest (h.changeTake s k d r _ hr hactive (by simp [ha]) (fun _ => ownMerit_le _ _ r.ownTerm) hs)
    next => exact hs
  next => exact hs

theorem meritAndTrigger {s : State} (kd : Word × Direction) (hs : P s) : P (meritAndTrigger s kd) := by
  unfold Machine.meritAndTrigger
  split
  next hactive => exact h.triggerEvaluation kd (h.writeMerit hactive hs)
  next => exact hs

theorem entryMerits {s : State} (hs : P s) : P (entryMerits s) := by
  unfold Machine.entryMerits
  split
  · exact foldl_preserves (fun _ kd => h.meritAndTrigger kd) _ (h.entryDue false s hs)
  · exact hs

theorem runPending {s : State} (kd : Word × Direction) (hs : P s) : P (runPending s kd) :=
  h.evaluate (h.setEvalPending s kd.1 kd.2 false nofun hs)

theorem lockEnds {s : State} (hs : P s) : P (lockEnds s) :=
  foldl_preserves (fun _ kd => h.runPending kd) _ (h.entryMerits hs)

theorem applyAward {k : Word} {d : Direction} {a : Award} {s : State} {r : CRecord} (hr : findRec s.table k d = some r)
    (hs : P s) : P (applyAward k d a s) :=
  h.meritAndTrigger _ (h.raise _ _ (h.applied s k d r _ hr hs))

theorem conflictAward {k : Word} {d : Direction} {a held : Award} {s : State} {r : CRecord}
    (hr : findRec s.table k d = some r) (hheld : r.award = some held) (hs : P s) : P (conflictAward k d a held s) := by
  unfold Machine.conflictAward
  dsimp only
  have hraised (kept : Award) : P (raiseEvent .awardConflict (s.updRec k d fun r => { r with award := some kept })) :=
    h.raise _ _ (h.replaced s k d r held kept hr hheld hs)
  split
  · exact h.meritAndTrigger _ (hraised _)
  · exact hraised _

theorem compareAward {k : Word} {d : Direction} {a : Award} {s : State} {r : CRecord} (hr : findRec s.table k d = some r)
    (hs : P s) : P (compareAward k d a r s).1 := by
  unfold Machine.compareAward
  split
  next => exact h.applyAward hr hs
  next held hheld =>
    split_ifs
    · exact h.applyAward hr hs
    · exact hs
    · exact hs
    · exact h.conflictAward hr hheld hs

theorem acceptAward {k : Word} {d : Direction} {a : Award} {s : State} (hs : P s) : P (acceptAward k d a s).1 := by
  unfold Machine.acceptAward
  split
  next =>
    split
    next r hr => exact h.compareAward hr hs
    next => exact hs
  next => exact hs

/-- A hold that expires: the timer stops, and a pending evaluation is made. -/
theorem expireHold {k : Word} {d : Direction} {b : Bool} {s : State}
    (hstop : P (s.updRec k d fun r => { r with hold := none })) : P (expireHold k d b s) := by
  unfold Machine.expireHold
  dsimp only
  split
  · exact h.evaluate (h.setEvalPending _ k d false nofun hstop)
  · exact hstop

/-- A frame taken: the view is rewritten, and the reports are acted on. -/
theorem takeFrame {n : Notice} {body : Peer → Peer × Report} {s : State} (hs : P s)
    (hview : ∀ view report, headerUpdate s.clock.current n.sender.toNat n.zone s.view = some (view, report) →
      P (s.setView view) ∧ ∀ p, findPeer view n.sender.toNat = some p →
        P (s.setView (mapPeer n.sender.toNat (fun _ => (body p).1) view))) : P (takeFrame n body s) := by
  unfold Machine.takeFrame
  dsimp only
  split
  next => exact h.raise _ _ hs
  next view report hheader =>
    obtain ⟨hnone, hsome⟩ := hview view report hheader
    split
    next => exact hnone
    next p hp => exact h.actOnReport _ (h.actOnReport _ (hsome p hp))

end AllocationKeeps

/-! ### Suspension requests -/

section

variable {P : State → Prop}
  (hsuspend : ∀ q s, (s.ctrl.station = .active ∨ s.ctrl.station = .listening) → P s → P (suspendStation q s))
include hsuspend

theorem requestInActive_keeps {q : SuspendReason} {s : State} (hs : P s) : P (requestInActive q s) := by
  unfold requestInActive
  split
  next hactive => exact hsuspend q s (.inl (by simpa [isActive] using hactive)) hs
  next => exact hs

theorem requestSupply_keeps {s : State} (hs : P s) : P (requestSupply s) := by
  unfold requestSupply
  split
  next hstation => exact hsuspend .supply s hstation hs
  next => exact hs

theorem supplyWhenFiltered_keeps {s : State} (hs : P s) : P (supplyWhenFiltered s) := by
  unfold supplyWhenFiltered
  split
  · exact requestSupply_keeps hsuspend hs
  · exact hs

theorem entryRequests_keeps (hties : ∀ s n, P s → P (drawTie n s).2) {s : State} (hs : P s) : P (entryRequests s) := by
  unfold entryRequests
  split
  · split
    · dsimp only
      split
      · exact requestSupply_keeps hsuspend (requestInActive_keeps hsuspend (hties s 2 hs))
      · exact requestInActive_keeps hsuspend (requestSupply_keeps hsuspend (hties s 2 hs))
    · exact requestInActive_keeps hsuspend hs
  · exact supplyWhenFiltered_keeps hsuspend hs

end

/-! ### Commands that end with a computation started -/

theorem takenSetting_preserves {P : State → Prop} {price : Bool} {effect : State → State} {s : State}
    (hstart : joined s = true → P (effect s) → P (startComputation false false price (effect s)))
    (h : P (effect s)) : P (takenSetting price effect s) := by
  unfold takenSetting
  split
  · exact hstart ‹_› h
  · exact h

theorem takenState_preserves {P : State → Prop} {b : StateBody} {s : State}
    (hstart : joined s = true → P (storeState b s) → P (startComputation false false false (storeState b s)))
    (htrigger : ∀ u, P u → P (triggerComputation false u)) (h : P (storeState b s)) : P (takenState b s) := by
  have hset := takenSetting_preserves hstart h
  unfold takenState
  split
  · exact htrigger _ hset
  · exact hset

/-! ### The entries into LISTENING -/

/-- What an accepted JOIN makes before it enters LISTENING (R6). -/
def joinReady (s : State) : State :=
  recomputePhase (((((clearErrors s).setLine (s.line.on s.ctrl.config)).setView []).setTable
    (rebuiltTable s.ctrl.config s.pledge s.clock.current)).setPledge
      { s.pledge with refresh := some (s.ctrl.config.refreshPeriod * Config.msPerSecond) })

/-- JOIN enters LISTENING, and a changed C triggers a computation. -/
theorem joinStation_eq (s : State) : joinStation s =
    if s.mon.errors != 0 then triggerComputation false (enterListening (joinReady s)) else enterListening (joinReady s) := rfl

/-- CLEAR_SUSPEND enters LISTENING, and a changed C triggers a computation. -/
theorem clearSuspension_eq (s : State) : clearSuspension s =
    if s.mon.errors != 0 then triggerComputation false (enterListening (clearErrors s)) else enterListening (clearErrors s) := rfl

theorem joinStation_preserves {P : State → Prop} {s : State} (htrigger : ∀ u, P u → P (triggerComputation false u))
    (h : P (enterListening (joinReady s))) : P (joinStation s) := by
  rw [joinStation_eq]
  split
  · exact htrigger _ h
  · exact h

theorem clearSuspension_preserves {P : State → Prop} {s : State} (htrigger : ∀ u, P u → P (triggerComputation false u))
    (h : P (enterListening (clearErrors s))) : P (clearSuspension s) := by
  rw [clearSuspension_eq]
  split
  · exact htrigger _ h
  · exact h

end Sys2Proof.Machine

/-! PROOFS. Every step keeps the Transmit Queue (R61, R70). -/

namespace Sys2Proof.Machine

/-! ### The law of the queue and its transmitter -/

/-- A queue none of whose entries is in flight, group A before group B. -/
def FreeQueue (q : List QEntry) : Prop :=
  (∀ e ∈ q, e.inFlight = false) ∧ q.Pairwise fun a b => b.key.groupA = true → a.key.groupA = true

/-- A queue in order: an entry in flight at its head, or none in flight. -/
def OrderedQueue (q : List QEntry) : Prop :=
  (∃ e rest, q = e :: rest ∧ e.inFlight = true ∧ FreeQueue rest) ∨ FreeQueue q

/-- Whether the head is in flight. -/
def headInFlight (q : List QEntry) : Bool := q.head?.any (·.inFlight)

/-- The queue's own part of the law: its bound, its keys once each, and its order. -/
def QueueForm (q : List QEntry) : Prop := q.length ≤ Config.queueLimit ∧ (queueKeys q).Nodup ∧ OrderedQueue q

/-- The law of queue and transmitter, which concerns the Line Interface alone. -/
def LineLaw (l : LineInterface) : Prop :=
  QueueForm l.queue ∧ (headInFlight l.queue = true ↔ l.tx = .sending) ∧ (l.tx = .idle → l.queue = []) ∧
  (l.tx = .waiting → l.queue ≠ [])

theorem orderedQueue_iff (q : List QEntry) : OrderedQueue q ↔
    (waitingEntries q).Pairwise (fun a b => b.key.groupA = true → a.key.groupA = true) ∧
      ∀ e ∈ q.drop 1, e.inFlight = false := by
  cases q with
  | nil => simp [OrderedQueue, FreeQueue, waitingEntries]
  | cons e rest =>
    cases he : e.inFlight with
    | true => simp [OrderedQueue, FreeQueue, waitingEntries, he, and_comm]
    | false => simp [OrderedQueue, FreeQueue, waitingEntries, he, and_comm]

theorem queueLaw_iff (s : State) : QueueLaw s ↔ LineLaw s.line := by
  unfold QueueLaw LineLaw QueueForm
  rw [orderedQueue_iff]
  simp only [headInFlight, queueKeys]
  tauto

/-! ### What changes of the queue keep of its form -/

theorem freeQueue_filter {q : List QEntry} (h : FreeQueue q) (p : QEntry → Bool) : FreeQueue (q.filter p) :=
  ⟨fun e he => h.1 e (List.mem_filter.mp he).1, h.2.filter p⟩

theorem headInFlight_of_free {q : List QEntry} (h : FreeQueue q) : headInFlight q = false := by
  cases q with
  | nil => rfl
  | cons e rest => simpa [headInFlight] using h.1 e List.mem_cons_self

/-- A filter that spares what is in flight. -/
theorem orderedQueue_filter {q : List QEntry} (h : OrderedQueue q) {p : QEntry → Bool}
    (hspares : ∀ e ∈ q, e.inFlight = true → p e = true) :
    OrderedQueue (q.filter p) ∧ headInFlight (q.filter p) = headInFlight q := by
  rcases h with ⟨e, rest, rfl, he, hrest⟩ | hfree
  · rw [List.filter_cons_of_pos (hspares e List.mem_cons_self he)]
    exact ⟨.inl ⟨e, _, rfl, he, freeQueue_filter hrest p⟩, rfl⟩
  · have hkept := freeQueue_filter hfree p
    exact ⟨.inr hkept, by rw [headInFlight_of_free hkept, headInFlight_of_free hfree]⟩

theorem queueForm_filter {q : List QEntry} (h : QueueForm q) {p : QEntry → Bool}
    (hspares : ∀ e ∈ q, e.inFlight = true → p e = true) :
    QueueForm (q.filter p) ∧ headInFlight (q.filter p) = headInFlight q := by
  obtain ⟨hbound, hkeys, horder⟩ := h
  obtain ⟨hkept, hhead⟩ := orderedQueue_filter horder hspares
  exact ⟨⟨(List.length_filter_le _ _).trans hbound, hkeys.sublist (List.filter_sublist.map _), hkept⟩, hhead⟩

/-- A rewrite of entries that leaves key and flight. -/
theorem orderedQueue_map {q : List QEntry} (h : OrderedQueue q) {f : QEntry → QEntry}
    (hf : ∀ e, (f e).key = e.key ∧ (f e).inFlight = e.inFlight) :
    OrderedQueue (q.map f) ∧ headInFlight (q.map f) = headInFlight q := by
  have hfree {r : List QEntry} (hr : FreeQueue r) : FreeQueue (r.map f) := by
    refine ⟨fun e he => ?_, List.pairwise_map.mpr (hr.2.imp fun {a b} hab => ?_)⟩
    · obtain ⟨x, hx, rfl⟩ := List.mem_map.mp he
      rw [(hf x).2]
      exact hr.1 x hx
    · rwa [(hf a).1, (hf b).1]
  rcases h with ⟨e, rest, rfl, he, hrest⟩ | hq
  · exact ⟨.inl ⟨f e, rest.map f, rfl, (hf e).2.trans he, hfree hrest⟩, by simp [headInFlight, hf]⟩
  · exact ⟨.inr (hfree hq), by rw [headInFlight_of_free (hfree hq), headInFlight_of_free hq]⟩

/-- An entry that joins its group in a free queue. -/
theorem freeQueue_append {q : List QEntry} (h : FreeQueue q) {e : QEntry} (he : e.inFlight = false) :
    FreeQueue (if e.key.groupA then q.filter (·.key.groupA) ++ e :: q.filter (!·.key.groupA) else q ++ [e]) := by
  obtain ⟨hflight, horder⟩ := h
  split
  next hgroup =>
    have hfront : ∀ a ∈ q.filter (·.key.groupA), a.key.groupA = true := fun a ha => by simpa using (List.mem_filter.mp ha).2
    have hback : ∀ a ∈ q.filter (!·.key.groupA), a.key.groupA = false := fun a ha => by simpa using (List.mem_filter.mp ha).2
    refine ⟨fun a ha => ?_, List.pairwise_append.mpr ⟨horder.filter _, List.pairwise_cons.mpr ⟨fun b _ _ => hgroup, horder.filter _⟩,
      fun a ha b _ _ => hfront a ha⟩⟩
    simp only [List.mem_append, List.mem_cons] at ha
    rcases ha with ha | rfl | ha
    · exact hflight a (List.mem_filter.mp ha).1
    · exact he
    · exact hflight a (List.mem_filter.mp ha).1
  next hgroup =>
    refine ⟨fun a ha => ?_, List.pairwise_append.mpr ⟨horder, List.pairwise_singleton _ _, fun a _ b hb hgroupA => ?_⟩⟩
    · simp only [List.mem_append, List.mem_singleton] at ha
      rcases ha with ha | rfl
      · exact hflight a ha
      · exact he
    · rw [List.mem_singleton.mp hb] at hgroupA
      exact absurd hgroupA hgroup

theorem orderedQueue_appendGroup {q : List QEntry} (h : OrderedQueue q) {e : QEntry} (he : e.inFlight = false) :
    OrderedQueue (appendGroup e q) ∧ headInFlight (appendGroup e q) = headInFlight q := by
  rcases h with ⟨x, rest, rfl, hx, hrest⟩ | hfree
  · simp only [appendGroup, hx, if_true]
    exact ⟨.inl ⟨x, _, rfl, hx, freeQueue_append hrest he⟩, rfl⟩
  · have hjoined : FreeQueue (appendGroup e q) := by
      cases q with
      | nil => exact ⟨by simpa [appendGroup] using he, List.pairwise_singleton _ _⟩
      | cons x rest =>
        simp only [appendGroup, hfree.1 x List.mem_cons_self, Bool.false_eq_true, if_false]
        exact freeQueue_append hfree he
    exact ⟨.inr hjoined, by rw [headInFlight_of_free hjoined, headInFlight_of_free hfree]⟩

/-- The entry an insert evicts is not in flight. -/
theorem victim_free {k v : NoticeKey} {q : List QEntry} (h : victim k q = some v) :
    ∃ e ∈ q, e.key = v ∧ e.inFlight = false ∧ e.key.groupA = false := by
  have hfree : ∀ e, e ∈ q.filter (fun e => !e.inFlight && !e.key.groupA) → e.key = v →
      ∃ e ∈ q, e.key = v ∧ e.inFlight = false ∧ e.key.groupA = false := by
    intro e he hkey
    obtain ⟨hin, hout⟩ := List.mem_filter.mp he
    simp only [Bool.and_eq_true, Bool.not_eq_true'] at hout
    exact ⟨e, hin, hkey, hout.1, hout.2⟩
  have hpledge : ((q.filter fun e => !e.inFlight && !e.key.groupA).find? fun e => e.key == .pledge).map (·.key) = some v →
      ∃ e ∈ q, e.key = v ∧ e.inFlight = false ∧ e.key.groupA = false := by
    intro hv
    obtain ⟨e, he, hkey⟩ := Option.map_eq_some_iff.mp hv
    exact hfree e (List.mem_of_find?_eq_some he) hkey
  have hlast : ((q.filter fun e => !e.inFlight && !e.key.groupA).getLast?).map (·.key) = some v →
      ∃ e ∈ q, e.key = v ∧ e.inFlight = false ∧ e.key.groupA = false := by
    intro hv
    obtain ⟨e, he, hkey⟩ := Option.map_eq_some_iff.mp hv
    exact hfree e (List.mem_of_mem_getLast? he) hkey
  cases k with
  | pledge => cases h
  | take _ _ => exact hpledge h
  | award _ _ | withdraw =>
    simp only [victim, Option.orElse_eq_orElse, Option.orElse_eq_or, Option.or_eq_some_iff] at h
    exact h.elim hpledge fun h => hlast h.2

/-- Entries of one key are one entry. -/
theorem eq_of_key {q : List QEntry} (hkeys : (queueKeys q).Nodup) {a b : QEntry} (ha : a ∈ q) (hb : b ∈ q)
    (hkey : a.key = b.key) : a = b := List.inj_on_of_nodup_map hkeys ha hb hkey

/-- An insert keeps the form of the queue and the flight of its head. -/
theorem insertQueue_form (cur : Word) (k : NoticeKey) (w : Option WithdrawContent) {q : List QEntry} (h : QueueForm q) :
    QueueForm (insertQueue cur k w q).1 ∧ headInFlight (insertQueue cur k w q).1 = headInFlight q := by
  obtain ⟨hbound, hkeys, horder⟩ := h
  obtain ⟨hbound', hkeys'⟩ := insertQueue_bound cur k w q hbound hkeys
  suffices hform : OrderedQueue (insertQueue cur k w q).1 ∧ headInFlight (insertQueue cur k w q).1 = headInFlight q from
    ⟨⟨hbound', hkeys', hform.1⟩, hform.2⟩
  have hfresh : (newEntry k w).inFlight = false := rfl
  unfold insertQueue
  split
  · split
    · exact orderedQueue_map horder fun e => by split <;> simp
    · exact orderedQueue_map horder fun e => by split <;> simp
  · split
    · exact orderedQueue_appendGroup horder hfresh
    · split
      next v hv =>
        obtain ⟨x, hx, hxkey, hxfree, -⟩ := victim_free hv
        have hspares : ∀ e ∈ q, e.inFlight = true → (e.key != v) = true := by
          intro e he hflight
          refine bne_iff_ne.mpr fun hkey => ?_
          rw [eq_of_key hkeys he hx (hkey.trans hxkey.symm), hxfree] at hflight
          cases hflight
        obtain ⟨hkept, hhead⟩ := orderedQueue_filter horder hspares
        obtain ⟨hjoined, hhead'⟩ := orderedQueue_appendGroup hkept hfresh
        exact ⟨hjoined, hhead'.trans hhead⟩
      next => exact ⟨horder, rfl⟩

/-! ### What the transmitter makes of a changed queue -/

theorem beginRun_form {l : LineInterface} (h : QueueForm l.queue) :
    QueueForm (beginRun l).queue ∧ headInFlight (beginRun l).queue = headInFlight l.queue := by
  rcases hq : l.queue with _ | ⟨e, rest⟩
  · rw [hq] at h
    simpa [beginRun, hq] using h
  · rw [hq] at h
    obtain ⟨hbound, hkeys, horder⟩ := h
    simp only [beginRun, hq]
    refine ⟨⟨hbound, hkeys, ?_⟩, rfl⟩
    rw [orderedQueue_iff] at horder ⊢
    cases he : e.inFlight <;> simpa [waitingEntries, he] using horder

theorem beginRun_ne_nil {l : LineInterface} (h : l.queue ≠ []) : (beginRun l).queue ≠ [] := by
  rw [← List.length_pos_iff] at h ⊢
  simpa using h

/-- The law stands where WAITING stands beside a queue with a free head. -/
theorem lineLaw_of_waiting {l : LineInterface} (hform : QueueForm l.queue) (htx : l.tx = .waiting)
    (hhead : headInFlight l.queue = false) (hne : l.queue ≠ []) : LineLaw l :=
  ⟨hform, by simp [hhead, htx], by simp [htx], fun _ => hne⟩

theorem lineLaw_of_empty {l : LineInterface} (hqueue : l.queue = []) (htx : l.tx = .idle ∨ l.tx = .jammed) : LineLaw l := by
  refine ⟨?_, ?_, fun _ => hqueue, ?_⟩
  · simp [hqueue, QueueForm, queueKeys, OrderedQueue, FreeQueue]
  · rcases htx with htx | htx <;> simp [hqueue, headInFlight, htx]
  · rcases htx with htx | htx <;> simp [htx]

/-- A new run of a free queue in WAITING. -/
theorem lineLaw_beginRun {l : LineInterface} (hform : QueueForm l.queue) (htx : l.tx = .waiting)
    (hhead : headInFlight l.queue = false) (hne : l.queue ≠ []) : LineLaw (beginRun l) := by
  obtain ⟨hform', hhead'⟩ := beginRun_form hform
  exact lineLaw_of_waiting hform' (by simp [htx]) (hhead'.trans hhead) (beginRun_ne_nil hne)

theorem lineLaw_resumeTx {l : LineInterface} (hform : QueueForm l.queue) (hhead : headInFlight l.queue = false) :
    LineLaw (resumeTx l) := by
  unfold resumeTx
  split
  next hempty => exact lineLaw_of_empty (List.isEmpty_iff.mp hempty) (.inl rfl)
  next hne => exact lineLaw_beginRun (l := { l with tx := .waiting }) hform rfl hhead (by simpa [List.isEmpty_iff] using hne)

/-- The transmitter settles with a changed queue in form, whose head is in flight as SENDING asks. -/
theorem lineLaw_settleHead {old : Option NoticeKey} {l : LineInterface} (hform : QueueForm l.queue)
    (hhead : headInFlight l.queue = true ↔ l.tx = .sending) : LineLaw (settleHead old l) := by
  unfold settleHead
  cases htx : l.tx with
  | idle =>
    have hfree : headInFlight l.queue = false := by simpa [htx] using hhead
    by_cases hempty : l.queue = []
    · simpa [hempty] using lineLaw_of_empty hempty (.inl htx)
    · simpa [List.isEmpty_iff, hempty] using lineLaw_beginRun (l := { l with tx := .waiting }) hform rfl hfree hempty
  | waiting =>
    have hfree : headInFlight l.queue = false := by simpa [htx] using hhead
    by_cases hempty : l.queue = []
    · simpa [hempty] using lineLaw_of_empty (l := { l with tx := .idle, run := none }) hempty (.inl rfl)
    · simp only [List.isEmpty_iff, hempty, if_false]
      split
      · exact lineLaw_of_waiting hform htx hfree hempty
      · exact lineLaw_beginRun hform htx hfree hempty
  | sending => exact ⟨hform, by rw [hhead, htx], by simp [htx], by simp [htx]⟩
  | jammed => exact ⟨hform, by rw [hhead, htx], by simp [htx], by simp [htx]⟩

/-! ### The law through the operations of the line -/

theorem lineLaw_enqueue {s : State} (k : NoticeKey) (w : Option WithdrawContent) (h : LineLaw s.line) :
    LineLaw (enqueue k w s).line := by
  obtain ⟨hform, hhead, -, -⟩ := h
  obtain ⟨hform', hhead'⟩ := insertQueue_form s.clock.current k w hform
  simp only [enqueue, raiseWhen_frame, State.setLine_line]
  exact lineLaw_settleHead hform' (by rw [hhead']; exact hhead)

theorem lineLaw_purgeQueue {s : State} (keep : Word → Bool) (h : LineLaw s.line) : LineLaw (purgeQueue keep s).line := by
  obtain ⟨hform, hhead, -, -⟩ := h
  obtain ⟨hform', hhead'⟩ := queueForm_filter (p := fun e => e.inFlight || (e.key.interval.map keep).getD true) hform
    fun e _ hflight => by simp [hflight]
  exact lineLaw_settleHead hform' (by rw [hhead']; exact hhead)

/-- Only queue and transmitter are read by the law. -/
theorem lineLaw_congr {l m : LineInterface} (hqueue : m.queue = l.queue) (htx : m.tx = l.tx) (h : LineLaw l) : LineLaw m := by
  unfold LineLaw at h ⊢
  rwa [hqueue, htx]

theorem lineLaw_becomeIdle {l : LineInterface} (h : LineLaw l) : LineLaw (becomeIdle l) := by
  unfold becomeIdle
  dsimp only
  obtain ⟨hform, hhead, hidle, hwaiting⟩ := h
  split
  next htx => exact lineLaw_beginRun (l := { l with carrier := false, idleMs := 0 }) hform htx (by simpa [htx] using hhead) (hwaiting htx)
  next => exact ⟨hform, hhead, hidle, hwaiting⟩

theorem lineLaw_carrierRises {b : Bool} {l : LineInterface} (h : LineLaw l) : LineLaw (carrierRises b l) := by
  unfold carrierRises
  dsimp only
  split <;> exact lineLaw_congr (l := l) rfl rfl h

theorem lineLaw_carrierFalls {b : Bool} {l : LineInterface} (h : LineLaw l) : LineLaw (carrierFalls b l) := by
  unfold carrierFalls
  dsimp only
  split
  · split
    · exact lineLaw_becomeIdle (lineLaw_congr (l := l) rfl rfl h)
    · exact lineLaw_congr (l := l) rfl rfl h
  · exact lineLaw_congr (l := l) rfl rfl h

theorem lineLaw_abandonRun {l : LineInterface} (h : LineLaw l) : LineLaw (abandonRun l) := by
  unfold abandonRun
  split
  · exact lineLaw_congr (l := l) rfl rfl h
  · exact h

theorem lineLaw_off (l : LineInterface) : LineLaw l.off := lineLaw_of_empty rfl (.inl rfl)

theorem lineLaw_on (l : LineInterface) (c : StationConfig) : LineLaw (l.on c) := lineLaw_of_empty rfl (.inl rfl)

/-- The entries behind a head in a queue in form. -/
theorem queueForm_tail {e : QEntry} {rest : List QEntry} (h : QueueForm (e :: rest)) :
    QueueForm rest ∧ headInFlight rest = false ∧ e.key ∉ queueKeys rest ∧ rest.length < Config.queueLimit := by
  obtain ⟨hbound, hkeys, horder⟩ := h
  obtain ⟨hkey, hkeys⟩ := List.nodup_cons.mp hkeys
  have hfree : FreeQueue rest := by
    rcases horder with ⟨x, xs, heq, -, hrest⟩ | hall
    · obtain ⟨-, rfl⟩ := List.cons.inj heq
      exact hrest
    · exact ⟨fun a ha => hall.1 a (List.mem_cons_of_mem e ha), (List.pairwise_cons.mp hall.2).2⟩
  exact ⟨⟨(Nat.le_of_succ_le hbound), hkeys, .inr hfree⟩, headInFlight_of_free hfree, hkey, hbound⟩

theorem afterSend_some {cur : Word} {e x : QEntry} (h : e.afterSend cur = some x) : x.key = e.key ∧ x.inFlight = false := by
  unfold QEntry.afterSend at h
  split at h
  · cases h
  · split at h
    · obtain rfl := Option.some.inj h
      exact ⟨rfl, rfl⟩
    · obtain rfl := Option.some.inj h
      exact ⟨rfl, rfl⟩
    · split at h
      · obtain rfl := Option.some.inj h
        exact ⟨rfl, rfl⟩
      · cases h

theorem queueForm_appendGroup {q : List QEntry} {e : QEntry} (h : QueueForm q) (he : e.inFlight = false)
    (hkey : e.key ∉ queueKeys q) (hroom : q.length < Config.queueLimit) :
    QueueForm (appendGroup e q) ∧ headInFlight (appendGroup e q) = headInFlight q := by
  obtain ⟨-, hkeys, horder⟩ := h
  have hperm := appendGroup_perm e q
  have hkeysPerm : (queueKeys (appendGroup e q)).Perm (e.key :: queueKeys q) := hperm.map QEntry.key
  obtain ⟨hjoined, hhead⟩ := orderedQueue_appendGroup horder he
  refine ⟨⟨?_, hkeysPerm.nodup_iff.mpr (List.nodup_cons.mpr ⟨hkey, hkeys⟩), hjoined⟩, hhead⟩
  rw [hperm.length_eq]
  exact hroom

/-- The end handling of a head leaves a queue in form with no entry in flight. -/
theorem queueForm_endHandled {cur : Word} {e : QEntry} {rest : List QEntry} (h : QueueForm (e :: rest)) :
    QueueForm (endHandled cur e rest) ∧ headInFlight (endHandled cur e rest) = false := by
  obtain ⟨hform, hhead, hkey, hroom⟩ := queueForm_tail h
  unfold endHandled
  split
  next kept hkept =>
    obtain ⟨hsame, hfree⟩ := afterSend_some hkept
    obtain ⟨hform', hhead'⟩ := queueForm_appendGroup hform hfree (by rwa [hsame]) hroom
    exact ⟨hform', hhead'.trans hhead⟩
  next => exact ⟨hform, hhead⟩

theorem lineLaw_completeRun {s : State} (h : LineLaw s.line) (htx : s.line.tx = .waiting) : LineLaw (completeRun s).line := by
  unfold completeRun
  split
  next => exact h
  next e rest hqueue =>
    have hform := h.1
    rw [hqueue] at hform
    obtain ⟨hformRest, hheadRest, -, -⟩ := queueForm_tail hform
    split
    next b _ =>
      simp only [startSending, noteSent_frame, State.setLine_line]
      refine ⟨⟨hform.1, hform.2.1, ?_⟩, by simp [headInFlight], by simp, by simp⟩
      rcases hformRest.2.2 with ⟨x, xs, rfl, hx, -⟩ | hfree
      · simp [headInFlight, hx] at hheadRest
      · exact .inl ⟨_, rest, rfl, rfl, hfree⟩
    next => exact lineLaw_settleHead hformRest (by simp [hheadRest, htx])

theorem lineLaw_placeFrame {n : Notice} {s : State} (h : LineLaw s.line) : LineLaw (placeFrame n s).line := by
  unfold placeFrame
  split
  · exact lineLaw_congr (l := s.line) rfl rfl h
  · simp only [raiseEvent_frame, State.setLine_line]
    exact lineLaw_congr (l := s.line) rfl rfl h

theorem lineLaw_closeFrame {bytes : List Byte} {s : State} (h : LineLaw s.line) : LineLaw (closeFrame bytes s).line := by
  have hidle : LineLaw (s.setLine { s.line with receiver := .idle }).line := lineLaw_congr (l := s.line) rfl rfl h
  unfold closeFrame
  dsimp only
  split
  · unfold takeGoodFrame
    split
    · simpa using hidle
    · exact lineLaw_placeFrame hidle
  · exact lineLaw_congr (l := s.line) rfl rfl h

/-! ### The law through the operations of the other blocks -/

/-- The law as a property of a state. -/
def HasLineLaw (s : State) : Prop := LineLaw s.line

theorem hasLineLaw_allocation : AllocationKeeps HasLineLaw where
  raise e s h := by simpa [HasLineLaw] using h
  entryDue b s h := h
  enqueueTake s k d r _ h := lineLaw_enqueue _ _ h
  changeTake s k d r t _ _ _ _ h := by simpa [HasLineLaw] using h
  setEvalPending s k d b _ h := by simpa [HasLineLaw] using h
  applied s k d r a _ h := by simpa [HasLineLaw] using h
  replaced s k d r held a _ _ h := by simpa [HasLineLaw] using h

theorem hasLineLaw_withdrawProcedure (q : Reason) (sel : CRecord → Bool) {s : State} (h : HasLineLaw s) :
    HasLineLaw (withdrawProcedure q sel s) := by
  simp only [HasLineLaw, withdrawProcedure, recompute_frame, raiseEvent_frame]
  exact lineLaw_enqueue _ _ h

theorem hasLineLaw_suspendStation (q : SuspendReason) {s : State} (h : HasLineLaw s) : HasLineLaw (suspendStation q s) := by
  simp only [HasLineLaw, suspendStation, raiseEvent_frame]
  exact hasLineLaw_withdrawProcedure _ _ (by simpa [HasLineLaw] using h)

theorem hasLineLaw_requestInActive (q : SuspendReason) {s : State} (h : HasLineLaw s) : HasLineLaw (requestInActive q s) :=
  requestInActive_keeps (fun q _ _ => hasLineLaw_suspendStation q) h

theorem hasLineLaw_requestSupply {s : State} (h : HasLineLaw s) : HasLineLaw (requestSupply s) :=
  requestSupply_keeps (fun q _ _ => hasLineLaw_suspendStation q) h

theorem hasLineLaw_enterListening {s : State} (h : HasLineLaw s) : HasLineLaw (enterListening s) :=
  supplyWhenFiltered_keeps (fun q _ _ => hasLineLaw_suspendStation q) (s := s.setCtrl _) h

theorem hasLineLaw_enterActive {s : State} (h : HasLineLaw s) : HasLineLaw (enterActive s) := by
  unfold enterActive
  dsimp only
  refine entryRequests_keeps (fun q _ _ => hasLineLaw_suspendStation q) (fun s n hs => by simpa [HasLineLaw] using hs) ?_
  split <;> simpa [HasLineLaw] using h

theorem hasLineLaw_returnToUnjoined (s : State) : HasLineLaw (returnToUnjoined s) := by
  simpa [HasLineLaw, returnToUnjoined] using lineLaw_off s.line

theorem hasLineLaw_issueBoundary {s : State} (h : HasLineLaw s) : HasLineLaw (issueBoundary s) := by
  simp only [HasLineLaw, issueBoundary, recompute_frame, boundaryAtTable_frame, State.setView_line]
  exact lineLaw_purgeQueue _ (by simpa [HasLineLaw] using h)

theorem hasLineLaw_naturalBoundary {s : State} (h : HasLineLaw s) : HasLineLaw (naturalBoundary s) := by
  unfold naturalBoundary
  split
  · exact hasLineLaw_issueBoundary (by simpa [HasLineLaw] using h)
  · simpa [HasLineLaw] using h

theorem hasLineLaw_performMarkBoundary (m : ForwardMark) {s : State} (h : HasLineLaw s) : HasLineLaw (performMarkBoundary m s) := by
  unfold performMarkBoundary
  dsimp only
  split
  · simp only [HasLineLaw, replaceSecond_frame]
    exact hasLineLaw_issueBoundary (by simpa [HasLineLaw] using h)
  · exact hasLineLaw_issueBoundary (by simpa [HasLineLaw] using h)

theorem hasLineLaw_performRebuild (k : Word) (n : Nat) {s : State} (h : HasLineLaw s) : HasLineLaw (performRebuild k n s) := by
  simp only [HasLineLaw, performRebuild, recompute_frame, recomputePhase_frame]
  split
  · simp only [rebuildHorizon, State.setPledge_line]
    exact lineLaw_purgeQueue _ (by simpa [HasLineLaw] using h)
  · simpa [HasLineLaw] using h

theorem hasLineLaw_noteLowered {s : State} (kd : Word × Direction) (h : HasLineLaw s) : HasLineLaw (noteLowered s kd) :=
  hasLineLaw_allocation.triggerEvaluation kd (lineLaw_enqueue _ _ (by simpa [HasLineLaw] using h))

theorem hasLineLaw_afterWrite {s : State} (h : HasLineLaw s) : HasLineLaw (afterWrite s) := by
  unfold afterWrite
  dsimp only
  split
  · simpa [HasLineLaw] using h
  · split
    · simpa [HasLineLaw] using h
    · exact hasLineLaw_allocation.lockEnds h

theorem hasLineLaw_endComputation (c : Computation) {s : State} (h : HasLineLaw s) : HasLineLaw (endComputation c s) := by
  unfold endComputation
  dsimp only
  have hlowered : HasLineLaw ((loweredPairs s c).foldl noteLowered (formLadders (frozenPairs s c) (s.setTable (writtenTable s c)))) :=
    foldl_preserves (fun _ kd => hasLineLaw_noteLowered kd) _ (by simpa [HasLineLaw] using h)
  refine hasLineLaw_afterWrite ?_
  unfold pledgeInsert
  split
  · exact lineLaw_enqueue _ _ hlowered
  · exact hlowered

theorem hasLineLaw_storeAvailability (b : AvailabilityBody) {s : State} (h : HasLineLaw s) : HasLineLaw (storeAvailability b s) := by
  have howner (p q : PledgeEngine) (d : Direction) {u : State} (hu : HasLineLaw u) : HasLineLaw (ownerWithdrawal p q d u) := by
    unfold ownerWithdrawal
    split
    · exact hasLineLaw_withdrawProcedure _ _ hu
    · exact hu
  unfold storeAvailability
  dsimp only
  split
  · exact howner _ _ _ (howner _ _ _ (by simpa [HasLineLaw] using h))
  · simpa [HasLineLaw] using h

theorem hasLineLaw_badVerdict {s : State} (h : HasLineLaw s) : HasLineLaw (badVerdict s) := by
  unfold badVerdict
  dsimp only
  split
  · simp only [HasLineLaw, triggerComputation_frame]
    exact hasLineLaw_requestInActive _ h
  · simpa [HasLineLaw] using h

theorem hasLineLaw_endJudgePeriod {s : State} (h : HasLineLaw s) : HasLineLaw (endJudgePeriod s) := by
  unfold endJudgePeriod
  dsimp only
  split
  · simpa [HasLineLaw] using h
  · exact hasLineLaw_badVerdict (by simpa [HasLineLaw] using h)

theorem hasLineLaw_endTransmission {s : State} (h : HasLineLaw s) (htx : s.line.tx = .sending) : HasLineLaw (endTransmission s) := by
  unfold endTransmission
  split
  next hqueue =>
    have hhead := h.2.1
    rw [hqueue, htx] at hhead
    simp [headInFlight] at hhead
  next e rest hqueue =>
    dsimp only
    split
    · exact hasLineLaw_returnToUnjoined _
    · have hform := h.1
      rw [hqueue] at hform
      obtain ⟨hform', hhead'⟩ := queueForm_endHandled (cur := s.clock.current) hform
      exact lineLaw_resumeTx hform' hhead'

/-- Every effect of a command keeps the law. -/
theorem hasLineLaw_effect {i : Instr} {s t : State} (h : HasLineLaw s) (heffect : Effect i s t) : HasLineLaw t := by
  cases heffect with
  | nothing => exact h
  | powerOn => exact lineLaw_of_empty rfl (.inl rfl)
  | restart => exact lineLaw_of_empty rfl (.inl rfl)
  | configure => simpa [HasLineLaw] using h
  | join =>
    exact joinStation_preserves (fun _ hu => by simpa [HasLineLaw] using hu)
      (hasLineLaw_enterListening (lineLaw_on s.line s.ctrl.config))
  | leave => exact hasLineLaw_returnToUnjoined s
  | leaveSuspended =>
    simp only [HasLineLaw, clearErrors_frame]
    exact hasLineLaw_returnToUnjoined s
  | beginLeaving => exact hasLineLaw_withdrawProcedure _ _ (by simpa [HasLineLaw] using h)
  | clearSuspend =>
    exact clearSuspension_preserves (fun _ hu => by simpa [HasLineLaw] using hu)
      (hasLineLaw_enterListening (by simpa [HasLineLaw] using h))
  | replaceSecond => simpa [HasLineLaw] using h
  | beginMark => exact h
  | beginRebuild => exact h
  | setClock => exact hasLineLaw_performRebuild _ _ h
  | setState _ _ b => simpa [HasLineLaw, takenState_keeps] using h
  | setBaseline b => exact takenSetting_preserves (fun _ hu => by simpa [HasLineLaw] using hu) (by simpa [HasLineLaw] using h)
  | setPrice b => exact takenSetting_preserves (fun _ hu => by simpa [HasLineLaw] using hu) (by simpa [HasLineLaw] using h)
  | setAvailability b =>
    exact takenSetting_preserves (fun _ hu => by simpa [HasLineLaw] using hu) (hasLineLaw_storeAvailability b h)
  | inject => exact lineLaw_enqueue _ _ (hasLineLaw_allocation.acceptAward h)
  | takeLog => exact h
  | clearEvents => exact h
  | eventMask => exact h
  | nextSecond => exact h
  | boundary => exact hasLineLaw_naturalBoundary h
  | markBoundary m => exact hasLineLaw_performMarkBoundary m h
  | rebuild => exact hasLineLaw_performRebuild _ _ h
  | endComputation c => exact hasLineLaw_endComputation c h
  | refresh => simpa [HasLineLaw] using h
  | enterActive => exact hasLineLaw_enterActive h
  | staleLimit => simpa [HasLineLaw] using h
  | warn => exact h
  | unwarn => exact h
  | filtered => exact hasLineLaw_requestSupply h
  | crossing count => simpa [HasLineLaw, takeCrossing_frame, recordMisses_frame] using h
  | missedPeriod => simpa [HasLineLaw] using h
  | pwmPeriod => exact h
  | feedback => exact h
  | loseFeedback => exact hasLineLaw_requestInActive _ (by simpa [HasLineLaw] using h)
  | endMeasurement => simpa [HasLineLaw] using h
  | startJudging => exact h
  | endJudgePeriod => exact hasLineLaw_endJudgePeriod h
  | carrierRises => exact lineLaw_carrierRises h
  | carrierFalls => exact lineLaw_carrierFalls h
  | lineCarrier => exact lineLaw_abandonRun (lineLaw_congr (l := s.line) rfl rfl h)
  | completeRun htx => exact lineLaw_completeRun h htx
  | endTransmission _ htx => exact hasLineLaw_endTransmission h htx
  | lineJam _ htx =>
    obtain ⟨hform, hhead, -, -⟩ := h
    simp only [HasLineLaw, raiseEvent_frame]
    refine ⟨hform, ?_, by simp, by simp⟩
    rcases htx with htx | htx <;> simpa [htx] using hhead
  | jamClear htx =>
    obtain ⟨hform, hhead, -, -⟩ := h
    exact lineLaw_resumeTx hform (by simpa [htx] using hhead)
  | closeFrame => exact lineLaw_closeFrame h
  | frame n rest update =>
    have hdropped : HasLineLaw (dropFront s) := lineLaw_congr (l := s.line) rfl rfl h
    exact hasLineLaw_allocation.takeFrame hdropped fun _ _ _ => ⟨hdropped, fun _ _ => hdropped⟩
  | award n rest k d a =>
    have hdropped : HasLineLaw (dropFront s) := lineLaw_congr (l := s.line) rfl rfl h
    exact hasLineLaw_allocation.acceptAward
      (hasLineLaw_allocation.takeFrame hdropped fun _ _ _ => ⟨hdropped, fun _ _ => hdropped⟩)
  | peerStale id p =>
    unfold makeStale
    dsimp only
    split
    · exact h
    · exact hasLineLaw_allocation.actOnReport _ h
  | peerRemoved id p => exact hasLineLaw_allocation.actOnReport _ h
  | holdExpiry k d r => exact hasLineLaw_allocation.expireHold (by simpa [HasLineLaw] using h)

/-- Settles O57: the law concerns queue and transmitter alone, and each operation on them keeps it. -/
theorem queueKept : Obligations.QueueKept := by
  intro s t hlaw hstep
  rw [queueLaw_iff] at hlaw ⊢
  refine step_keeps (P := HasLineLaw) (Q := HasLineLaw) (fun _ _ h => h) (fun _ _ h => h) (fun u hu => ?_)
    (fun i u v hu hexec => ?_) hlaw hstep
  · simp only [HasLineLaw, tick]
    split
    · exact lineLaw_congr (l := u.line) rfl rfl hu
    · exact hu
  · refine exec_keeps (P := HasLineLaw) ?_ ?_ (fun _ _ _ hu heffect => hasLineLaw_effect hu heffect) i u v hu hexec
    · rintro _ _ ⟨_, _, rfl⟩ hu
      exact hu
    · rintro _ _ ⟨_, _, rfl⟩ hu
      exact hu

end Sys2Proof.Machine

/-! PROOFS. The configuration's ranges through CONFIGURE, and what every step keeps of the error counter, the verification
window and the meter (R3, R128, R133, R150, R154, R156). -/

namespace Sys2Proof.Machine

/-! ### The configuration -/

/-- Every configuration item in its range (Table 1-3). -/
def ConfigForm (c : StationConfig) : Prop :=
  c.stationId ≤ 250 ∧ (1 ≤ c.gateLead ∧ c.gateLead ≤ 4) ∧ (15 ≤ c.refreshPeriod ∧ c.refreshPeriod ≤ 120) ∧
  (5 ≤ c.sustain ∧ c.sustain ≤ 60) ∧ (10 ≤ c.minPledge ∧ c.minPledge ≤ 200) ∧
  (2 ≤ c.suspendAt ∧ c.suspendAt ≤ 15) ∧ c.overCover ≤ 16 ∧ c.deadband ≤ 500 ∧
  (50 ≤ c.fullDeviation ∧ c.fullDeviation ≤ 2000) ∧ (1 ≤ c.averaging ∧ c.averaging ≤ 8) ∧
  (c.ditherX ≤ 15 ∧ c.ditherX % 2 = 1) ∧ (c.ditherY ≤ 15 ∧ c.ditherY % 2 = 1) ∧
  (1 ≤ c.rotation ∧ c.rotation ≤ 16) ∧ (100 ≤ c.settleTime ∧ c.settleTime ≤ 1000) ∧
  (30 ≤ c.staleLimit ∧ c.staleLimit ≤ 600) ∧ c.dischargeMax ≤ 2000 ∧ c.chargeMax ≤ 2000

theorem configLaw_iff (s : State) : ConfigLaw s ↔ ConfigForm s.ctrl.config := Iff.rfl

/-- An item in its range, stored, leaves every item in its range. -/
theorem configForm_storeItem {c : StationConfig} {i : Item} (h : ConfigForm c) (hi : itemAllowed i = true) :
    ConfigForm (storeItem c i) := by
  unfold ConfigForm at h
  unfold itemAllowed at hi
  unfold storeItem ConfigForm
  dsimp only at hi ⊢
  split at hi
  case h_23 => cases hi
  all_goals
    simp only [Bool.and_eq_true, Bool.or_eq_true, decide_eq_true_eq, beq_iff_eq, eq_self] at hi
    dsimp only
    omega

theorem configForm_storeItems {items : List Item} {c : StationConfig} (h : ConfigForm c)
    (hitems : ∀ i ∈ items, itemAllowed i = true) : ConfigForm (storeItems items c) := by
  induction items generalizing c with
  | nil => exact h
  | cons i rest ih =>
    exact ih (configForm_storeItem h (hitems i List.mem_cons_self)) fun j hj => hitems j (List.mem_cons_of_mem i hj)

/-- Only item 11 stores T. -/
theorem storeItem_suspendAt {c : StationConfig} {i : Item} (hi : i.id ≠ 11) : (storeItem c i).suspendAt = c.suspendAt := by
  have hid : i.id.toNat ≠ 11 := fun h => hi (BitVec.eq_of_toNat_eq h)
  unfold storeItem
  dsimp only
  split <;> first | rfl | exact absurd ‹_› hid

theorem storeItems_suspendAt {items : List Item} {c : StationConfig} (h : items.any (fun i => i.id == 11) = false) :
    (storeItems items c).suspendAt = c.suspendAt := by
  induction items generalizing c with
  | nil => rfl
  | cons i rest ih =>
    simp only [List.any_cons, Bool.or_eq_false_iff, beq_eq_false_iff_ne] at h
    exact (ih h.2).trans (storeItem_suspendAt h.1)

theorem storeConfiguration_ctrl (items : List Item) (s : State) :
    (storeConfiguration items s).ctrl = { s.ctrl with config := storeItems items s.ctrl.config } := by
  simp [storeConfiguration]

/-! ### What the monitor keeps through the work of the other blocks -/

/-- Feedback and C stand, and the verification window stays stopped or running. -/
def MonitorSame (m n : DeliveryMonitor) : Prop :=
  n.fb = m.fb ∧ n.errors = m.errors ∧ (n.window = .stopped ↔ m.window = .stopped)

theorem monitorSame_refl (m : DeliveryMonitor) : MonitorSame m m := ⟨rfl, rfl, Iff.rfl⟩

theorem MonitorSame.trans {a b c : DeliveryMonitor} (h : MonitorSame a b) (h' : MonitorSame b c) : MonitorSame a c :=
  ⟨h'.1.trans h.1, h'.2.1.trans h.2.1, h'.2.2.trans h.2.2⟩

theorem monitorSame_recompute (s : State) : MonitorSame s.mon (recompute s).mon := by
  unfold recompute
  dsimp only
  split
  · exact monitorSame_refl _
  · unfold handOverDelta
    dsimp only
    split
    next h => exact ⟨rfl, rfl, by simpa [startSettling] using h.1⟩
    next => exact ⟨rfl, rfl, Iff.rfl⟩

theorem monitorSame_noteTakeChange (k : Word) (d : Direction) (b : Bool) (s : State) :
    MonitorSame s.mon (noteTakeChange k d b s).mon := by
  have hraised : (raiseEvent .take (s.updRec k d fun r => { r with hold := some (holdMs s.ctrl.config) })).mon = s.mon := by simp
  unfold noteTakeChange
  dsimp only
  split
  · exact hraised ▸ monitorSame_recompute _
  · exact hraised ▸ monitorSame_refl _

theorem monitorSame_changeTake (k : Word) (d : Direction) (n : Nat) (s : State) : MonitorSame s.mon (changeTake k d n s).mon := by
  unfold changeTake
  split
  · split
    · exact monitorSame_refl _
    · exact monitorSame_noteTakeChange k d _ (s.updRec k d _)
  · exact monitorSame_refl _

/-- The monitor after the Allocation Unit's work, against a monitor before it. -/
theorem monitorSame_allocation (m : DeliveryMonitor) : AllocationKeeps fun s => MonitorSame m s.mon where
  raise e s h := by simpa using h
  entryDue b s h := h
  enqueueTake s k d r _ h := by simpa using h
  changeTake s k d r t _ _ _ _ h := h.trans (monitorSame_changeTake k d t s)
  setEvalPending s k d b _ h := by simpa using h
  applied s k d r a _ h := by simpa using h
  replaced s k d r held a _ _ h := by simpa using h

theorem monitorSame_withdrawProcedure (q : Reason) (sel : CRecord → Bool) (s : State) :
    MonitorSame s.mon (withdrawProcedure q sel s).mon := by
  unfold withdrawProcedure
  dsimp only
  refine MonitorSame.trans ?_ (monitorSame_recompute _)
  simpa using monitorSame_refl s.mon

theorem monitorSame_performBoundary (s : State) : MonitorSame s.mon (performBoundary s).mon := by
  unfold performBoundary
  dsimp only
  refine MonitorSame.trans ?_ (monitorSame_recompute _)
  simpa using monitorSame_refl s.mon

theorem monitorSame_boundaryAtTable (s : State) : MonitorSame s.mon (boundaryAtTable s).mon := by
  unfold boundaryAtTable
  split
  · split
    · exact monitorSame_refl _
    · simpa using monitorSame_performBoundary s
  · exact monitorSame_refl _

theorem monitorSame_issueBoundary (s : State) : MonitorSame s.mon (issueBoundary s).mon := by
  unfold issueBoundary
  dsimp only
  refine MonitorSame.trans ?_ (monitorSame_recompute _)
  refine MonitorSame.trans ?_ (monitorSame_boundaryAtTable _)
  simpa using monitorSame_refl s.mon

theorem monitorSame_naturalBoundary (s : State) : MonitorSame s.mon (naturalBoundary s).mon := by
  unfold naturalBoundary
  split
  · exact monitorSame_issueBoundary (nextInterval s)
  · exact monitorSame_refl _

theorem monitorSame_performMarkBoundary (m : ForwardMark) (s : State) : MonitorSame s.mon (performMarkBoundary m s).mon := by
  unfold performMarkBoundary
  dsimp only
  split
  · exact monitorSame_issueBoundary ((nextInterval s).setClock _)
  · exact monitorSame_issueBoundary ((nextInterval s).setClock _)

theorem monitorSame_performRebuild (k : Word) (n : Nat) (s : State) : MonitorSame s.mon (performRebuild k n s).mon := by
  unfold performRebuild
  dsimp only
  refine MonitorSame.trans ?_ (monitorSame_recompute _)
  split <;> simpa using monitorSame_refl s.mon

theorem monitorSame_noteLowered {m : DeliveryMonitor} {s : State} (kd : Word × Direction) (h : MonitorSame m s.mon) :
    MonitorSame m (noteLowered s kd).mon := by
  refine (monitorSame_allocation m).triggerEvaluation kd ?_
  simpa using h.trans (monitorSame_noteTakeChange kd.1 kd.2 _ s)

theorem monitorSame_afterWrite (s : State) : MonitorSame s.mon (afterWrite s).mon := by
  unfold afterWrite
  dsimp only
  split
  · simpa using monitorSame_performBoundary (s.setPledge { s.pledge with rerun := none })
  · split
    · simpa using monitorSame_refl s.mon
    · exact (monitorSame_allocation s.mon).lockEnds (monitorSame_refl s.mon)

theorem monitorSame_endComputation (c : Computation) (s : State) : MonitorSame s.mon (endComputation c s).mon := by
  unfold endComputation
  dsimp only
  refine MonitorSame.trans ?_ (monitorSame_afterWrite _)
  simp only [pledgeInsert_frame]
  exact foldl_preserves (P := fun u => MonitorSame s.mon u.mon) (fun _ kd => monitorSame_noteLowered kd) _
    (by simpa using monitorSame_refl s.mon)

theorem monitorSame_storeAvailability (b : AvailabilityBody) (s : State) : MonitorSame s.mon (storeAvailability b s).mon := by
  have howner (p q : PledgeEngine) (d : Direction) (u : State) : MonitorSame u.mon (ownerWithdrawal p q d u).mon := by
    unfold ownerWithdrawal
    split
    · exact monitorSame_withdrawProcedure _ _ u
    · exact monitorSame_refl _
  unfold storeAvailability
  dsimp only
  split
  · exact (howner _ _ .raise (storeAvails b s)).trans (howner _ _ .lower _)
  · exact monitorSame_refl s.mon

theorem monitorSame_takeFrame (n : Notice) (body : Peer → Peer × Report) (s : State) :
    MonitorSame s.mon (takeFrame n body s).mon :=
  (monitorSame_allocation s.mon).takeFrame (monitorSame_refl _) fun _ _ _ => ⟨monitorSame_refl _, fun _ _ => monitorSame_refl _⟩

/-! ### The monitor through the meter's work -/

theorem monitorSame_computeValue (s : State) : MonitorSame s.mon (computeValue s).mon :=
  monitorSame_recompute (((s.setFreq _).setAct _))

theorem monitorSame_validPeriod (n : Nat) (s : State) : MonitorSame s.mon (validPeriod n s).mon := by
  unfold validPeriod
  dsimp only
  split
  · exact monitorSame_computeValue (s.setFreq _)
  · exact monitorSame_refl _

theorem monitorSame_handOverInvalid (s : State) : MonitorSame s.mon (handOverInvalid s).mon := monitorSame_recompute (s.setAct _)

theorem monitorSame_invalidPeriod (s : State) : MonitorSame s.mon (invalidPeriod s).mon := by
  unfold invalidPeriod
  split
  · split
    · refine MonitorSame.trans ?_ (monitorSame_handOverInvalid _)
      simpa using monitorSame_refl s.mon
    · exact monitorSame_refl _
  · exact monitorSame_refl _

theorem monitorSame_invalidPeriods (n : Nat) (s : State) : MonitorSame s.mon (invalidPeriods n s).mon := by
  induction n generalizing s with
  | zero => exact monitorSame_refl _
  | succ n ih => exact (monitorSame_invalidPeriod s).trans (ih _)

theorem monitorSame_recordMisses (count : Nat) (s : State) : MonitorSame s.mon (recordMisses count s).mon := by
  unfold recordMisses
  dsimp only
  split
  · exact monitorSame_refl _
  · exact monitorSame_invalidPeriods _ (s.setFreq _)

theorem monitorSame_takeCrossing (count : Nat) (s : State) : MonitorSame s.mon (takeCrossing count s).mon := by
  unfold takeCrossing
  split
  · unfold crossingFrom
    split
    · exact monitorSame_refl _
    · simpa using monitorSame_invalidPeriod s
    · simpa using monitorSame_validPeriod _ s
    · simpa using monitorSame_invalidPeriod s
  · exact monitorSame_refl _

theorem monitorSame_meterReconfigured (old : StationConfig) (s : State) : MonitorSame s.mon (meterReconfigured old s).mon := by
  unfold meterReconfigured
  split
  · exact monitorSame_refl _
  · dsimp only
    split
    · refine MonitorSame.trans ?_ (monitorSame_handOverInvalid _)
      simpa using monitorSame_refl s.mon
    · exact monitorSame_refl _

/-! ### The meter's values -/

/-- The meter's values at a number N of periods averaged (R128, R132, R133). -/
def MeterForm (n : Nat) (f : FrequencyMeter) : Prop :=
  f.ring.length ≤ n ∧ f.invalids ≤ 3 ∧ (∀ x ∈ f.measured, 45000 ≤ x ∧ x ≤ 66000) ∧
  (f.state = .valid → f.measured.isSome = true)

theorem frequencyOf_bounds (n : Nat) (ring : List Nat) : 45000 ≤ frequencyOf n ring ∧ frequencyOf n ring ≤ 66000 := by
  have h := clampInt_bounds (lo := 45000) (hi := 66000) (roundDiv (10000000000 * (n : Int)) ring.sum) (by decide)
  unfold frequencyOf
  omega

theorem lastEntries_length (n : Nat) (xs : List Nat) : (lastEntries n xs).length ≤ n := by
  simp only [lastEntries, List.length_drop]
  omega

theorem meterForm_validPeriod {s : State} (n : Nat) (h : MeterForm s.ctrl.config.averaging s.freq) :
    MeterForm s.ctrl.config.averaging (validPeriod n s).freq := by
  obtain ⟨-, -, hmeasured, hvalid⟩ := h
  have hring := lastEntries_length s.ctrl.config.averaging (s.freq.ring ++ [n])
  unfold validPeriod
  dsimp only
  split
  · simp only [computeValue, handOverValue_frame, State.setFreq_freq]
    exact ⟨hring, Nat.zero_le _, fun x hx => by
      obtain rfl := Option.some.inj hx
      exact frequencyOf_bounds _ _, fun _ => rfl⟩
  · exact ⟨hring, Nat.zero_le _, hmeasured, hvalid⟩

theorem meterForm_invalidPeriod {n : Nat} {s : State} (h : MeterForm n s.freq) : MeterForm n (invalidPeriod s).freq := by
  obtain ⟨hring, hinvalids, hmeasured, hvalid⟩ := h
  unfold invalidPeriod
  split
  · split
    · simp only [handOverInvalid_frame, raiseEvent_frame, State.setFreq_freq]
      exact ⟨Nat.zero_le _, le_rfl, hmeasured, nofun⟩
    · exact ⟨hring, by simp only [State.setFreq_freq]; omega, hmeasured, hvalid⟩
  · exact ⟨Nat.zero_le _, by simp only [State.setFreq_freq]; omega, hmeasured, hvalid⟩

theorem meterForm_invalidPeriods {n : Nat} (k : Nat) {s : State} (h : MeterForm n s.freq) : MeterForm n (invalidPeriods k s).freq := by
  induction k generalizing s with
  | zero => exact h
  | succ k ih => exact ih (meterForm_invalidPeriod h)

theorem meterForm_recordMisses {n : Nat} (count : Nat) {s : State} (h : MeterForm n s.freq) :
    MeterForm n (recordMisses count s).freq := by
  unfold recordMisses
  dsimp only
  split
  · exact h
  · exact meterForm_invalidPeriods _ h

theorem meterForm_takeCrossing (count : Nat) {s : State} (h : MeterForm s.ctrl.config.averaging s.freq) :
    MeterForm s.ctrl.config.averaging (takeCrossing count s).freq := by
  unfold takeCrossing
  split
  · unfold crossingFrom
    split
    · exact h
    · exact meterForm_invalidPeriod h
    · exact meterForm_validPeriod _ h
    · exact meterForm_invalidPeriod h
  · exact h

theorem meterForm_reset (n k m : Nat) : MeterForm n { FrequencyMeter.reset with count := k, missStart := m } :=
  ⟨Nat.zero_le _, Nat.zero_le _, nofun, nofun⟩

theorem meterForm_storeConfiguration (items : List Item) {s : State} (h : MeterForm s.ctrl.config.averaging s.freq) :
    MeterForm (storeConfiguration items s).ctrl.config.averaging (storeConfiguration items s).freq := by
  rw [storeConfiguration_ctrl]
  unfold storeConfiguration meterReconfigured
  dsimp only
  split
  next hsame =>
    simp only [thresholdReset_frame, State.setCtrl_ctrl] at hsame
    simp only [hsame.2, thresholdReset_frame, State.setCtrl_freq]
    exact h
  next =>
    split
    · simp only [handOverInvalid_frame, raiseEvent_frame, State.setFreq_freq]
      exact meterForm_reset _ _ _
    · exact meterForm_reset _ _ _

/-! ### The window and C -/

/-- The window runs only under the judging conditions, and C is below T but in a DELIVERY suspension (R154, R156). -/
def WatchLaw (c : Controller) (m : DeliveryMonitor) : Prop :=
  (m.window ≠ .stopped → c.station = .active ∧ m.fb = .present) ∧ m.errors ≤ c.config.suspendAt ∧
  (m.errors = c.config.suspendAt → c.station = .suspended ∧ c.suspendReason = some .delivery)

/-- The three laws of MonitorKept. -/
def MonitorLaw (s : State) : Prop := WatchLaw s.ctrl s.mon ∧ MeterForm s.ctrl.config.averaging s.freq

theorem monitorLaw_iff (s : State) : MonitorLaw s ↔ WindowLaw s ∧ CounterLaw s ∧ MeterLaw s := by
  unfold MonitorLaw WatchLaw MeterForm WindowLaw CounterLaw MeterLaw
  tauto

theorem watchLaw_same {c : Controller} {m n : DeliveryMonitor} (h : WatchLaw c m) (hsame : MonitorSame m n) : WatchLaw c n := by
  obtain ⟨hwindow, hbound, hfull⟩ := h
  obtain ⟨hfb, herrors, hstopped⟩ := hsame
  refine ⟨fun hn => ?_, herrors ▸ hbound, herrors ▸ hfull⟩
  rw [hfb]
  exact hwindow fun hm => hn (hstopped.mpr hm)

/-- The law where the monitor's part stands and neither Controller nor meter changes. -/
theorem monitorLaw_same {s t : State} (h : MonitorLaw s) (hctrl : t.ctrl = s.ctrl) (hfreq : t.freq = s.freq)
    (hsame : MonitorSame s.mon t.mon) : MonitorLaw t := by
  unfold MonitorLaw at h ⊢
  rw [hctrl, hfreq]
  exact ⟨watchLaw_same h.1 hsame, h.2⟩

/-- C is below T where the station is in no DELIVERY suspension. -/
theorem errors_lt {c : Controller} {m : DeliveryMonitor} (h : WatchLaw c m) (hstation : c.station ≠ .suspended) :
    m.errors < c.config.suspendAt :=
  Nat.lt_of_le_of_ne h.2.1 fun heq => hstation (h.2.2 heq).1

theorem watchLaw_of_stopped {c : Controller} {m : DeliveryMonitor} (hwindow : m.window = .stopped)
    (herrors : m.errors < c.config.suspendAt) : WatchLaw c m :=
  ⟨fun hn => absurd hwindow hn, herrors.le, fun heq => absurd heq herrors.ne⟩

/-- A suspension stops the window and leaves C. -/
theorem suspendStation_mon (q : SuspendReason) (s : State) :
    (suspendStation q s).mon.window = .stopped ∧ (suspendStation q s).mon.errors = s.mon.errors := by
  unfold suspendStation
  dsimp only
  simp only [raiseEvent_frame]
  obtain ⟨-, herrors, hstopped⟩ := monitorSame_withdrawProcedure q.toReason (fun _ => true)
    ((leaveActive s).setCtrl { (leaveActive s).ctrl with station := .suspended, suspendReason := some q, listening := none })
  exact ⟨hstopped.mpr (by simp [leaveActive, stopWindow]), herrors.trans (by simp [leaveActive, stopWindow])⟩

theorem monitorLaw_suspendStation {q : SuspendReason} {s : State} (hmeter : MeterForm s.ctrl.config.averaging s.freq)
    (hbound : s.mon.errors ≤ s.ctrl.config.suspendAt)
    (hfull : s.mon.errors = s.ctrl.config.suspendAt → q = .delivery) : MonitorLaw (suspendStation q s) := by
  obtain ⟨hwindow, herrors⟩ := suspendStation_mon q s
  unfold MonitorLaw
  rw [suspendStation_ctrl, (suspendStation_frame s q).2.2.2.1]
  refine ⟨⟨fun hn => absurd hwindow hn, herrors ▸ hbound, fun heq => ⟨rfl, ?_⟩⟩, hmeter⟩
  exact congrArg some (hfull (herrors ▸ heq))

/-- A suspension from ACTIVE or LISTENING keeps the law, whatever its reason. -/
theorem monitorLaw_suspend (q : SuspendReason) {s : State}
    (hstation : s.ctrl.station = .active ∨ s.ctrl.station = .listening) (h : MonitorLaw s) : MonitorLaw (suspendStation q s) := by
  have hlt := errors_lt h.1 (by rcases hstation with h | h <;> simp [h])
  exact monitorLaw_suspendStation h.2 hlt.le fun heq => absurd heq hlt.ne

theorem monitorLaw_requestInActive {q : SuspendReason} {s : State} (h : MonitorLaw s) : MonitorLaw (requestInActive q s) :=
  requestInActive_keeps (fun q _ hstation => monitorLaw_suspend q hstation) h

theorem monitorLaw_requestSupply {s : State} (h : MonitorLaw s) : MonitorLaw (requestSupply s) :=
  requestSupply_keeps (fun q _ hstation => monitorLaw_suspend q hstation) h

theorem monitorLaw_triggerComputation (r : Bool) {s : State} (h : MonitorLaw s) : MonitorLaw (triggerComputation r s) :=
  monitorLaw_same h (by simp) (by simp) (by simpa using monitorSame_refl s.mon)

/-- LISTENING is entered with the window stopped and C below T. -/
theorem monitorLaw_enterListening {s : State} (hmeter : MeterForm s.ctrl.config.averaging s.freq)
    (hwindow : s.mon.window = .stopped) (herrors : s.mon.errors < s.ctrl.config.suspendAt) : MonitorLaw (enterListening s) :=
  supplyWhenFiltered_keeps (fun q _ hstation => monitorLaw_suspend q hstation)
    (s := s.setCtrl _) ⟨watchLaw_of_stopped hwindow herrors, hmeter⟩

theorem monitorLaw_beginStale {s : State} (h : MonitorLaw s) : MonitorLaw (beginStale s) := by
  unfold MonitorLaw WatchLaw at h ⊢
  simpa using h

theorem monitorLaw_beginJudging {s : State} (hactive : s.ctrl.station = .active) (h : MonitorLaw s) : MonitorLaw (beginJudging s) := by
  unfold beginJudging
  split
  next hfb => exact ⟨⟨fun _ => ⟨hactive, hfb⟩, h.1.2⟩, h.2⟩
  next => exact h

theorem monitorLaw_enterActive {s : State} (hstation : s.ctrl.station = .listening) (h : MonitorLaw s) : MonitorLaw (enterActive s) := by
  have hwindow : s.mon.window = .stopped := by
    by_contra hn
    exact absurd (hstation.symm.trans (h.1.1 hn).1) (by decide)
  have hlt := errors_lt h.1 (by simp [hstation])
  have hentered : MonitorLaw ((s.setCtrl { s.ctrl with station := .active, listening := none }).setEntryDue true) :=
    ⟨watchLaw_of_stopped hwindow hlt, h.2⟩
  have hrecomputed := monitorLaw_same (monitorLaw_beginStale hentered) (t := recompute (beginStale
    ((s.setCtrl { s.ctrl with station := .active, listening := none }).setEntryDue true))) (by simp) (by simp) (monitorSame_recompute _)
  have hjudging := monitorLaw_triggerComputation false (monitorLaw_beginJudging (by simp) hrecomputed)
  unfold enterActive
  dsimp only
  refine entryRequests_keeps (fun q _ hstation => monitorLaw_suspend q hstation)
    (fun u n hu => monitorLaw_same hu (by simp) (by simp) (by simpa using monitorSame_refl u.mon)) ?_
  split
  · exact monitorLaw_triggerComputation false hjudging
  · exact hjudging

/-- The station out of the cluster, with the window stopped. -/
theorem returnToUnjoined_mon (s : State) : MonitorSame s.mon (returnToUnjoined s).mon := by
  unfold returnToUnjoined
  dsimp only
  refine MonitorSame.trans ?_ (monitorSame_recompute _)
  exact ⟨by simp, by simp, by simp⟩

theorem monitorLaw_returnToUnjoined {s : State} (hmeter : MeterForm s.ctrl.config.averaging s.freq)
    (hwindow : s.mon.window = .stopped) (herrors : s.mon.errors < s.ctrl.config.suspendAt) : MonitorLaw (returnToUnjoined s) := by
  obtain ⟨-, hsame, hstopped⟩ := returnToUnjoined_mon s
  unfold MonitorLaw
  rw [returnToUnjoined_ctrl, (returnToUnjoined_frame s).2.1]
  exact ⟨watchLaw_of_stopped (hstopped.mpr hwindow) (hsame ▸ herrors), hmeter⟩

/-- Outside ACTIVE the window is stopped. -/
theorem window_stopped {c : Controller} {m : DeliveryMonitor} (h : WatchLaw c m) (hstation : c.station ≠ .active) :
    m.window = .stopped := by
  by_contra hn
  exact hstation (h.1 hn).1

theorem monitorLaw_beginLeaving {s : State} (hstation : s.ctrl.station = .active) (h : MonitorLaw s) : MonitorLaw (beginLeaving s) := by
  have hlt := errors_lt h.1 (by simp [hstation])
  obtain ⟨-, herrors, hstopped⟩ := monitorSame_withdrawProcedure .leave (fun _ => true)
    ((leaveActive s).setCtrl { (leaveActive s).ctrl with station := .leaving, leaving := some Config.leavingMs })
  unfold MonitorLaw
  rw [beginLeaving_ctrl, (beginLeaving_frame s).2.2.2.1]
  refine ⟨watchLaw_of_stopped (hstopped.mpr ?_) ?_, h.2⟩
  · simp [leaveActive, stopWindow]
  · exact (congrArg (· < _) (herrors.trans (by simp [leaveActive, stopWindow]))).mpr hlt

theorem monitorLaw_storeConfiguration {items : List Item} {s : State} (hconfig : ConfigForm s.ctrl.config)
    (hitems : ∀ i ∈ items, itemAllowed i = true) (hstation : s.ctrl.station = .unjoined) (h : MonitorLaw s) :
    MonitorLaw (storeConfiguration items s) := by
  refine ⟨?_, meterForm_storeConfiguration items h.2⟩
  obtain ⟨-, -, -, -, -, ⟨hthreshold, -⟩, -⟩ := configForm_storeItems hconfig hitems
  have hwindow := window_stopped h.1 (by simp [hstation])
  have hlt := errors_lt h.1 (by simp [hstation])
  rw [storeConfiguration_ctrl]
  refine watchLaw_same ?_ (monitorSame_meterReconfigured _ _)
  unfold thresholdReset
  split
  next => exact watchLaw_of_stopped hwindow (show 0 < (storeItems items s.ctrl.config).suspendAt by omega)
  next hkept =>
    refine watchLaw_of_stopped hwindow ?_
    cases hid : items.any (fun i => i.id == 11) with
    | true =>
      simp only [hid, Bool.true_and, State.setCtrl_ctrl, State.setCtrl_mon] at hkept
      exact not_le.mp fun hle => hkept (decide_eq_true hle)
    | false => exact (storeItems_suspendAt hid).symm ▸ hlt

/-- A verdict comes in ACTIVE, where C is below T; it raises C to T only with a DELIVERY suspension. -/
theorem monitorLaw_badVerdict {s : State} (hactive : s.ctrl.station = .active) (h : MonitorLaw s) : MonitorLaw (badVerdict s) := by
  have hlt := errors_lt h.1 (by simp [hactive])
  unfold badVerdict
  dsimp only
  split
  next =>
    refine monitorLaw_triggerComputation false ?_
    unfold requestInActive
    rw [if_pos (by simp [isActive, hactive])]
    exact monitorLaw_suspendStation (s := s.setMon _) h.2 hlt fun _ => rfl
  next hbelow =>
    refine monitorLaw_triggerComputation false ⟨⟨h.1.1, hlt, fun heq => ?_⟩, h.2⟩
    exact absurd heq.symm.le hbelow

theorem monitorLaw_goodVerdict {s : State} (h : MonitorLaw s) : MonitorLaw (goodVerdict s) := by
  unfold goodVerdict
  split
  · exact h
  · split
    · exact h
    · obtain ⟨⟨hwindow, hbound, hfull⟩, hmeter⟩ := h
      refine monitorLaw_triggerComputation false ⟨⟨hwindow, ?_, fun heq => ?_⟩, hmeter⟩
      · exact (Nat.sub_le _ _).trans hbound
      · simp only [State.setMon_mon, State.setMon_ctrl] at heq
        omega

theorem monitorLaw_startJudging {s : State} (hrunning : s.mon.window ≠ .stopped) (h : MonitorLaw s) : MonitorLaw (startJudging s) :=
  ⟨⟨fun _ => h.1.1 hrunning, h.1.2⟩, h.2⟩

theorem monitorLaw_endJudgePeriod {s : State} (hwindow : s.mon.window = .judging) (h : MonitorLaw s) : MonitorLaw (endJudgePeriod s) := by
  have hrunning : s.mon.window ≠ .stopped := by simp [hwindow]
  have hactive := (h.1.1 hrunning).1
  have hstarted (good : Bool) (meanD : Int) : MonitorLaw (startJudging (countVerdict good meanD s)) :=
    monitorLaw_startJudging (by simpa using hrunning)
      (monitorLaw_same h (by simp) (by simp) (by simpa using monitorSame_refl s.mon))
  unfold endJudgePeriod
  dsimp only
  split
  · exact monitorLaw_goodVerdict (hstarted _ _)
  · exact monitorLaw_badVerdict (by simpa using hactive) (hstarted _ _)

theorem monitorLaw_loseFeedback {s : State} (h : MonitorLaw s) : MonitorLaw (loseFeedback s) :=
  monitorLaw_requestInActive (s := stopWindow (s.setMon _)) ⟨⟨fun hn => absurd rfl hn, h.1.2⟩, h.2⟩

theorem monitorLaw_invalidPeriod {s : State} (h : MonitorLaw s) : MonitorLaw (invalidPeriod s) := by
  refine ⟨?_, ?_⟩
  · simpa using watchLaw_same h.1 (monitorSame_invalidPeriod s)
  · simpa using meterForm_invalidPeriod h.2

theorem monitorLaw_recordMisses (count : Nat) {s : State} (h : MonitorLaw s) : MonitorLaw (recordMisses count s) := by
  refine ⟨?_, ?_⟩
  · simpa using watchLaw_same h.1 (monitorSame_recordMisses count s)
  · simpa using meterForm_recordMisses count h.2

theorem monitorLaw_takeCrossing (count : Nat) {s : State} (h : MonitorLaw s) : MonitorLaw (takeCrossing count s) := by
  refine ⟨?_, ?_⟩
  · simpa using watchLaw_same h.1 (monitorSame_takeCrossing count s)
  · simpa using meterForm_takeCrossing count h.2

theorem monitorLaw_reachStaleLimit {s : State} (h : MonitorLaw s) : MonitorLaw (reachStaleLimit s) := by
  unfold reachStaleLimit
  dsimp only
  split
  · exact monitorLaw_triggerComputation false (monitorLaw_beginStale (s := s.setCtrl _) h)
  · exact h

theorem monitorLaw_endTransmission {s : State} (h : MonitorLaw s) : MonitorLaw (endTransmission s) := by
  unfold endTransmission
  split
  · exact h
  · dsimp only
    split
    next hleaving =>
      exact monitorLaw_returnToUnjoined (s := s.setLine _) h.2 (window_stopped h.1 (by simp [hleaving.1]))
        (errors_lt h.1 (by simp [hleaving.1]))
    next => exact h

theorem monitorSame_makeStale (id : Nat) (p : Peer) (s : State) : MonitorSame s.mon (makeStale id p s).mon := by
  unfold makeStale
  dsimp only
  split
  · exact monitorSame_refl _
  · exact (monitorSame_allocation s.mon).actOnReport _ (monitorSame_refl _)

/-- Every effect of a command keeps the law, in a lawful configuration. -/
theorem monitorLaw_effect {i : Instr} {s t : State} (hconfig : ConfigForm s.ctrl.config) (h : MonitorLaw s)
    (heffect : Effect i s t) : MonitorLaw t := by
  have hthreshold : 0 < s.ctrl.config.suspendAt := by
    obtain ⟨-, -, -, -, -, ⟨h, -⟩, -⟩ := hconfig
    omega
  have htrigger : ∀ u : State, MonitorLaw u → MonitorLaw (triggerComputation false u) := fun _ =>
    monitorLaw_triggerComputation false
  have hsame {u : State} (hctrl : u.ctrl = s.ctrl) (hfreq : u.freq = s.freq) (hmon : MonitorSame s.mon u.mon) : MonitorLaw u :=
    monitorLaw_same h hctrl hfreq hmon
  have hrefl := monitorSame_refl s.mon
  cases heffect with
  | nothing => exact h
  | powerOn => exact ⟨watchLaw_of_stopped rfl (show (0 : Nat) < 6 by decide), meterForm_reset _ 0 0⟩
  | restart => exact ⟨watchLaw_of_stopped rfl hthreshold, meterForm_reset _ 0 0⟩
  | configure x hi items hstation hitems => exact monitorLaw_storeConfiguration hconfig hitems hstation h
  | join haccepted =>
    have hstation : s.ctrl.station = .unjoined := by
      by_contra hjoined
      rw [joinRefusal_of_joined hjoined] at haccepted
      cases haccepted
    have hwindow := window_stopped h.1 (by simp [hstation])
    exact joinStation_preserves htrigger (monitorLaw_enterListening h.2 hwindow hthreshold)
  | leave hstation =>
    have hactive : s.ctrl.station ≠ .active := by rcases hstation with h | h <;> simp [h]
    have hsuspended : s.ctrl.station ≠ .suspended := by rcases hstation with h | h <;> simp [h]
    exact monitorLaw_returnToUnjoined h.2 (window_stopped h.1 hactive) (errors_lt h.1 hsuspended)
  | leaveSuspended hstation =>
    have hwindow := window_stopped h.1 (by simp [hstation])
    obtain ⟨-, -, hstopped⟩ := returnToUnjoined_mon s
    refine ⟨watchLaw_of_stopped (hstopped.mpr hwindow) ?_, ?_⟩
    · simpa [clearErrors] using hthreshold
    · simpa using h.2
  | beginLeaving hstation => exact monitorLaw_beginLeaving hstation h
  | clearSuspend hstation =>
    have hwindow := window_stopped h.1 (by simp [hstation])
    exact clearSuspension_preserves htrigger (monitorLaw_enterListening h.2 hwindow hthreshold)
  | replaceSecond | beginMark | beginRebuild | takeLog | clearEvents | eventMask | nextSecond | pwmPeriod =>
    exact h
  | setClock => exact hsame (by simp) (by simp) (monitorSame_performRebuild _ _ s)
  | setState x hi b =>
    refine takenState_preserves (fun _ hu => ?_) htrigger ?_
    · exact monitorLaw_same hu (by simp) (by simp) (by simpa using monitorSame_refl _)
    · unfold MonitorLaw WatchLaw at h ⊢
      simpa using h
  | setBaseline b =>
    exact takenSetting_preserves (fun _ hu => monitorLaw_same hu (by simp) (by simp) (by simpa using monitorSame_refl _))
      (hsame (by simp) (by simp) (by simpa using hrefl))
  | setPrice b =>
    exact takenSetting_preserves (fun _ hu => monitorLaw_same hu (by simp) (by simp) (by simpa using monitorSame_refl _))
      (hsame (by simp) (by simp) (by simpa using hrefl))
  | setAvailability b =>
    exact takenSetting_preserves (fun _ hu => monitorLaw_same hu (by simp) (by simp) (by simpa using monitorSame_refl _))
      (hsame (by simp) (by simp) (monitorSame_storeAvailability b s))
  | inject k d a =>
    exact hsame (by simp) (by simp) (by simpa using (monitorSame_allocation s.mon).acceptAward (k := k) (d := d) (a := a) hrefl)
  | boundary => exact hsame (by simp) (by simp) (monitorSame_naturalBoundary s)
  | markBoundary m => exact hsame (by simp) (by simp) (monitorSame_performMarkBoundary m s)
  | rebuild => exact hsame (by simp) (by simp) (monitorSame_performRebuild _ _ s)
  | endComputation c => exact hsame (by simp) (by simp) (monitorSame_endComputation c s)
  | refresh => exact hsame (by simp) (by simp) (by simpa using hrefl)
  | enterActive hstation => exact monitorLaw_enterActive hstation h
  | staleLimit => exact monitorLaw_reachStaleLimit h
  | warn | unwarn => exact h
  | filtered => exact monitorLaw_requestSupply (s := s.setCtrl _) h
  | crossing count =>
    refine monitorLaw_takeCrossing count ?_
    exact monitorLaw_recordMisses count h
  | missedPeriod =>
    refine monitorLaw_invalidPeriod ?_
    exact h
  | feedback => exact ⟨⟨fun hn => ⟨(h.1.1 hn).1, rfl⟩, h.1.2⟩, h.2⟩
  | loseFeedback => exact monitorLaw_loseFeedback h
  | endMeasurement => exact hsame (by simp) (by simp) ⟨by simp [endMeasurement], by simp [endMeasurement], by simp [endMeasurement]⟩
  | startJudging hwindow => exact monitorLaw_startJudging (by simp [hwindow]) h
  | endJudgePeriod hwindow => exact monitorLaw_endJudgePeriod hwindow h
  | carrierRises | carrierFalls | lineCarrier | jamClear => exact h
  | completeRun => exact hsame (by simp) (by simp) (by simpa using hrefl)
  | endTransmission => exact monitorLaw_endTransmission h
  | lineJam => exact hsame (by simp) (by simp) (by simpa using hrefl)
  | closeFrame => exact hsame (by simp) (by simp) (by simpa using hrefl)
  | frame n rest update => exact hsame (by simp) (by simp) (by simpa using monitorSame_takeFrame n update (dropFront s))
  | award n rest k d a =>
    exact hsame (by simp) (by simp) ((monitorSame_allocation s.mon).acceptAward
      (by simpa using monitorSame_takeFrame n (fun p => (p, [])) (dropFront s)))
  | peerStale id p => exact hsame (by simp) (by simp) (monitorSame_makeStale id p s)
  | peerRemoved id p => exact hsame (by simp) (by simp) ((monitorSame_allocation s.mon).actOnReport _ hrefl)
  | holdExpiry k d r => exact hsame (by simp) (by simp) ((monitorSame_allocation s.mon).expireHold (by simpa using hrefl))

/-- Settles O60. -/
theorem monitorKept : Obligations.MonitorKept := by
  rintro s t ⟨hconfig, hwindow, hcounter, hmeter⟩ hstep
  rw [← monitorLaw_iff]
  refine step_keeps (P := fun u => ConfigForm u.ctrl.config ∧ MonitorLaw u) (Q := MonitorLaw) (fun _ _ h => h)
    (fun _ _ h => h) (fun u hu => hu.2) (fun i u v hu hexec => ?_)
    ⟨hconfig, (monitorLaw_iff s).mpr ⟨hwindow, hcounter, hmeter⟩⟩ hstep
  refine exec_keeps (P := fun u => ConfigForm u.ctrl.config ∧ MonitorLaw u) (Q := MonitorLaw) ?_ ?_
    (fun _ _ _ hu heffect => monitorLaw_effect hu.1 hu.2 heffect) i u v hu hexec
  · rintro _ _ ⟨_, _, rfl⟩ hu
    exact hu
  · rintro _ _ ⟨_, _, rfl⟩ hu
    exact hu

end Sys2Proof.Machine

/-! PROOFS. Every step keeps the configuration, the clock, the station state and the emptiness of UNJOINED (R1, R3, R7, R8,
R10, R16, R21). -/

namespace Sys2Proof.Machine

/-! ### The clock -/

/-- The clock's counts (R16, R18, R21). -/
def ClockForm (c : IntervalClock) : Prop :=
  c.second ≤ 299 ∧ (∀ m ∈ c.mark, 1 ≤ m.left ∧ m.left ≤ 7 ∧ m.second ≤ 299) ∧ ∀ w ∈ c.rebuild, w.second ≤ 299

theorem naturalBoundary_clock (s : State) :
    (naturalBoundary s).clock = { s.clock with current := s.clock.current + 1, second := 0, subMs := 0 } := by
  unfold naturalBoundary
  split <;> simp [nextInterval]

theorem performRebuild_clock (k : Word) (n : Nat) (s : State) : (performRebuild k n s).clock =
    { s.clock with current := k, second := n, isSet := true, subMs := 0, rebuild := none } := by
  unfold performRebuild
  dsimp only
  split <;> simp [setClockTo]

theorem performMarkBoundary_clock (m : ForwardMark) (s : State) : (performMarkBoundary m s).clock =
    if m.left ≤ 1 then { s.clock with current := s.clock.current + 1, second := m.second, subMs := 0, mark := none }
    else { s.clock with current := s.clock.current + 1, second := 0, subMs := 0, mark := some { m with left := m.left - 1 } } := by
  unfold performMarkBoundary
  dsimp only
  split <;> simp [replaceSecond, nextInterval]

theorem clockForm_effect {i : Instr} {s t : State} (h : ClockForm s.clock) (heffect : Effect i s t) : ClockForm t.clock := by
  obtain ⟨hsecond, hmark, hrebuild⟩ := id h
  cases heffect with
  | powerOn | restart => exact ⟨Nat.zero_le _, nofun, nofun⟩
  | replaceSecond n hn => exact ⟨hn, hmark, hrebuild⟩
  | beginMark d n hd hn =>
    refine ⟨hsecond, fun m hm => ?_, hrebuild⟩
    obtain rfl := Option.some.inj hm
    exact ⟨hd.1, hd.2, hn⟩
  | beginRebuild b hn =>
    refine ⟨hsecond, hmark, fun w hw => ?_⟩
    obtain rfl := Option.some.inj hw
    exact hn
  | setClock k n hn => exact performRebuild_clock k n s ▸ ⟨hn, hmark, nofun⟩
  | nextSecond hbelow => exact ⟨hbelow, hmark, hrebuild⟩
  | boundary => exact naturalBoundary_clock s ▸ ⟨Nat.zero_le _, hmark, hrebuild⟩
  | markBoundary m hm =>
    obtain ⟨hlow, hhigh, hset⟩ := hmark m hm
    rw [performMarkBoundary_clock]
    split
    next => exact ⟨hset, nofun, hrebuild⟩
    next hmore =>
      refine ⟨Nat.zero_le _, fun n hn => ?_, hrebuild⟩
      obtain rfl := Option.some.inj hn
      exact ⟨by dsimp only; omega, by dsimp only; omega, hset⟩
  | rebuild w hw => exact performRebuild_clock _ _ s ▸ ⟨hrebuild w hw, hmark, nofun⟩
  | setState _ _ b =>
    rw [takenState_keeps (·.clock) (by simp) (by simp) (by simp)]
    exact ⟨hsecond, hmark, hrebuild⟩
  | setBaseline b | setPrice b | setAvailability b =>
    rw [takenSetting_keeps (·.clock) (by simp) (by simp)]
    exact ⟨hsecond, hmark, hrebuild⟩
  | _ => simpa using h

/-! ### The station state -/

/-- A suspension reason exactly in SUSPENDED, and the timers in their states (R1, R7, R8). -/
def StationForm (c : Controller) : Prop :=
  (c.suspendReason.isSome = true ↔ c.station = .suspended) ∧ (c.listening.isSome = true → c.station = .listening) ∧
  (c.leaving.isSome = true → c.station = .leaving)

/-- The station is in a joined state, lawfully. -/
def JoinedForm (s : State) : Prop := StationForm s.ctrl ∧ s.ctrl.station ≠ .unjoined

/-- A timer stops where its state is not. -/
theorem leaving_eq_none {c : Controller} (h : StationForm c) (hstation : c.station ≠ .leaving) : c.leaving = none := by
  obtain ⟨-, -, hleaving⟩ := h
  cases hc : c.leaving with
  | none => rfl
  | some n => exact absurd (hleaving (by simp [hc])) hstation

theorem listening_eq_none {c : Controller} (h : StationForm c) (hstation : c.station ≠ .listening) : c.listening = none := by
  obtain ⟨-, hlistening, -⟩ := h
  cases hc : c.listening with
  | none => rfl
  | some n => exact absurd (hlistening (by simp [hc])) hstation

theorem suspendReason_eq_none {c : Controller} (h : StationForm c) (hstation : c.station ≠ .suspended) : c.suspendReason = none := by
  obtain ⟨hreason, -, -⟩ := h
  cases hc : c.suspendReason with
  | none => rfl
  | some q => exact absurd (hreason.mp (by simp [hc])) hstation

/-- Only station state, suspension reason and the two timers are read. -/
theorem stationForm_congr {c d : Controller} (hstation : d.station = c.station) (hreason : d.suspendReason = c.suspendReason)
    (hlistening : d.listening = c.listening) (hleaving : d.leaving = c.leaving) (h : StationForm c) : StationForm d := by
  unfold StationForm at h ⊢
  rwa [hstation, hreason, hlistening, hleaving]

theorem joinedForm_suspendStation (q : SuspendReason) {s : State}
    (hstation : s.ctrl.station = .active ∨ s.ctrl.station = .listening) (h : JoinedForm s) : JoinedForm (suspendStation q s) := by
  have hleaving := leaving_eq_none h.1 (by rcases hstation with h | h <;> simp [h])
  unfold JoinedForm StationForm
  simp [hleaving]

theorem joinedForm_congr {s t : State} (hctrl : t.ctrl = s.ctrl) (h : JoinedForm s) : JoinedForm t := by
  unfold JoinedForm at h ⊢
  rwa [hctrl]

theorem joinedForm_requestSupply {s : State} (h : JoinedForm s) : JoinedForm (requestSupply s) :=
  requestSupply_keeps (fun q _ hstation => joinedForm_suspendStation q hstation) h

theorem joinedForm_requestInActive {q : SuspendReason} {s : State} (h : JoinedForm s) : JoinedForm (requestInActive q s) :=
  requestInActive_keeps (fun q _ hstation => joinedForm_suspendStation q hstation) h

theorem joinedForm_enterListening {s : State} (hleaving : s.ctrl.leaving = none) : JoinedForm (enterListening s) := by
  refine supplyWhenFiltered_keeps (fun q _ hstation => joinedForm_suspendStation q hstation) ⟨?_, by simp⟩
  simp [StationForm, hleaving]

theorem joinedForm_enterActive {s : State} (hstation : s.ctrl.station = .listening) (h : StationForm s.ctrl) :
    JoinedForm (enterActive s) := by
  have hleaving := leaving_eq_none h (by simp [hstation])
  have hreason := suspendReason_eq_none h (by simp [hstation])
  unfold enterActive
  dsimp only
  refine entryRequests_keeps (fun q _ hstation => joinedForm_suspendStation q hstation)
    (fun u n hu => joinedForm_congr (by simp) hu) ?_
  split <;> simp [JoinedForm, StationForm, hleaving, hreason]

theorem joinedForm_badVerdict {s : State} (h : JoinedForm s) : JoinedForm (badVerdict s) := by
  unfold badVerdict
  dsimp only
  split
  · exact joinedForm_congr (triggerComputation_frame _ _).1 (joinedForm_requestInActive (joinedForm_congr rfl h))
  · exact joinedForm_congr (by simp) h

theorem joinedForm_endJudgePeriod {s : State} (h : JoinedForm s) : JoinedForm (endJudgePeriod s) := by
  unfold endJudgePeriod
  dsimp only
  split
  · exact joinedForm_congr (by simp) h
  · exact joinedForm_badVerdict (joinedForm_congr (by simp) h)

theorem stationForm_loseFeedback {s : State} (h : StationForm s.ctrl) : StationForm (loseFeedback s).ctrl := by
  unfold loseFeedback
  dsimp only
  generalize hs : s.setMon _ = u
  have hu : u.ctrl = s.ctrl := hs ▸ rfl
  unfold requestInActive
  split
  next hactive =>
    have hstation : u.ctrl.station = .active := by simpa [isActive] using hactive
    have hjoined : u.ctrl.station ≠ .unjoined := by simp [hstation]
    have hform : JoinedForm (stopWindow u) := joinedForm_congr (s := u) (by simp) ⟨hu ▸ h, hjoined⟩
    exact (joinedForm_suspendStation .inverter (.inl (by simpa using hstation)) hform).1
  next => simpa [hu] using h

theorem stationForm_returnToUnjoined (s : State) :
    StationForm (returnToUnjoined s).ctrl ∧ (returnToUnjoined s).ctrl.station = .unjoined := by
  simp [StationForm]

/-- The station state after an effect: in form, and out of the cluster only by a departure or a reset. -/
theorem stationForm_effect {i : Instr} {s t : State} (h : StationForm s.ctrl) (heffect : Effect i s t) : StationForm t.ctrl := by
  have hcongr {u : State} (hctrl : u.ctrl = s.ctrl) : StationForm u.ctrl := hctrl ▸ h
  cases heffect with
  | powerOn | restart => exact ⟨by simp [powerOnState, restartState, Controller.reset], nofun, nofun⟩
  | configure => exact storeConfiguration_ctrl _ s ▸ h
  | join haccepted =>
    have hstation : s.ctrl.station = .unjoined := by
      by_contra hjoined
      rw [joinRefusal_of_joined hjoined] at haccepted
      cases haccepted
    have hleaving : (joinReady s).ctrl.leaving = none := by
      simpa [joinReady] using leaving_eq_none h (by simp [hstation])
    exact joinStation_preserves (P := fun u => StationForm u.ctrl) (fun u hu => by simpa using hu)
      (joinedForm_enterListening hleaving).1
  | leave => exact (stationForm_returnToUnjoined s).1
  | leaveSuspended => simpa using (stationForm_returnToUnjoined s).1
  | beginLeaving hstation =>
    have hreason := suspendReason_eq_none h (by simp [hstation])
    have hlistening := listening_eq_none h (by simp [hstation])
    simp [StationForm, hreason, hlistening]
  | clearSuspend hstation =>
    have hleaving : (clearErrors s).ctrl.leaving = none := by simpa using leaving_eq_none h (by simp [hstation])
    exact clearSuspension_preserves (P := fun u => StationForm u.ctrl) (fun u hu => by simpa using hu)
      (joinedForm_enterListening hleaving).1
  | setState x hi b =>
    refine takenState_preserves (P := fun u => StationForm u.ctrl) (fun _ hu => by simpa using hu)
      (fun u hu => by simpa using hu) ?_
    rw [storeState_ctrl]
    exact stationForm_congr (c := s.ctrl) rfl rfl rfl rfl h
  | setBaseline b | setPrice b | setAvailability b =>
    rw [takenSetting_keeps (·.ctrl) (by simp) (by simp)]
    exact h
  | enterActive hstation => exact (joinedForm_enterActive hstation h).1
  | staleLimit =>
    unfold reachStaleLimit
    dsimp only
    split
    · rw [(triggerComputation_frame _ _).1, beginStale_ctrl]
      exact stationForm_congr (c := s.ctrl) rfl rfl rfl rfl h
    · exact stationForm_congr (c := s.ctrl) rfl rfl rfl rfl h
  | warn | unwarn => exact stationForm_congr (c := s.ctrl) rfl rfl rfl rfl h
  | filtered =>
    have hfiltered : StationForm (s.setCtrl { s.ctrl with filter := .active }).ctrl :=
      stationForm_congr (c := s.ctrl) rfl rfl rfl rfl h
    by_cases hjoined : s.ctrl.station = .unjoined
    · simpa [requestSupply, hjoined] using hfiltered
    · exact (joinedForm_requestSupply ⟨hfiltered, hjoined⟩).1
  | loseFeedback => exact stationForm_loseFeedback h
  | endJudgePeriod =>
    by_cases hjoined : s.ctrl.station = .unjoined
    · have hinactive : isActive s = false := by simp [isActive, hjoined]
      have hctrl : (endJudgePeriod s).ctrl = s.ctrl := by
        unfold endJudgePeriod badVerdict requestInActive
        dsimp only
        split
        · simp
        · split <;> simp [isActive, hjoined]
      exact hcongr hctrl
    · exact (joinedForm_endJudgePeriod ⟨h, hjoined⟩).1
  | endTransmission =>
    unfold endTransmission
    split
    · exact h
    · dsimp only
      split
      · exact (stationForm_returnToUnjoined _).1
      · exact h
  | _ => exact hcongr (by simp)

/-! ### The emptiness of UNJOINED -/

/-- What UNJOINED leaves empty (R2, R10, R36, R57, R76). -/
def EmptyParts (s : State) : Prop :=
  s.table = [] ∧ s.view = [] ∧ s.line.queue = [] ∧ s.line.rx = [] ∧ s.line.tx = .idle ∧ s.pledge.comp = none ∧
  s.pledge.boundaryPending = false ∧ s.pledge.refresh = none ∧ s.pledge.ladders = []

theorem unjoinedLaw_iff (s : State) : UnjoinedLaw s ↔ (s.ctrl.station = .unjoined → EmptyParts s) := Iff.rfl

theorem emptyParts_returnToUnjoined (s : State) : EmptyParts (returnToUnjoined s) := by
  simp [EmptyParts, returnToUnjoined, PledgeEngine.idle, LineInterface.off, LineInterface.reset]

theorem emptyParts_congr {s t : State} (htable : t.table = s.table) (hview : t.view = s.view) (hline : t.line = s.line)
    (hpledge : t.pledge = s.pledge) (h : EmptyParts s) : EmptyParts t := by
  unfold EmptyParts at h ⊢
  rwa [htable, hview, hline, hpledge]

/-- The station stays in the cluster through every suspension. -/
theorem stillJoined_suspendStation (q : SuspendReason) (s : State) : (suspendStation q s).ctrl.station ≠ .unjoined := by simp

theorem stillJoined_enterListening (s : State) : (enterListening s).ctrl.station ≠ .unjoined :=
  supplyWhenFiltered_keeps (P := fun u => u.ctrl.station ≠ .unjoined) (fun q u _ _ => stillJoined_suspendStation q u) (by simp)

theorem stillJoined_enterActive (s : State) : (enterActive s).ctrl.station ≠ .unjoined := by
  unfold enterActive
  dsimp only
  refine entryRequests_keeps (P := fun u => u.ctrl.station ≠ .unjoined) (fun q u _ _ => stillJoined_suspendStation q u)
    (fun u n hu => by simpa using hu) ?_
  split <;> simp

theorem stillJoined_requestInActive {s : State} (q : SuspendReason) (h : s.ctrl.station ≠ .unjoined) :
    (requestInActive q s).ctrl.station ≠ .unjoined :=
  requestInActive_keeps (P := fun u => u.ctrl.station ≠ .unjoined) (fun q u _ _ => stillJoined_suspendStation q u) h

theorem stillJoined_endJudgePeriod {s : State} (h : s.ctrl.station ≠ .unjoined) : (endJudgePeriod s).ctrl.station ≠ .unjoined := by
  unfold endJudgePeriod
  dsimp only
  split
  · simpa using h
  · unfold badVerdict
    dsimp only
    split
    · simpa using stillJoined_requestInActive .delivery (s := State.setMon _ _) (by simpa using h)
    · simpa using h

/-- From a joined state the station leaves the cluster only through LEAVE or a reset. -/
theorem effect_of_joined {i : Instr} {s t : State} (hjoined : s.ctrl.station ≠ .unjoined)
    (heffect : Effect i s t) : t.ctrl.station ≠ .unjoined ∨ EmptyParts t := by
  cases heffect with
  | powerOn | restart => exact .inr ⟨rfl, rfl, rfl, rfl, rfl, rfl, rfl, rfl, rfl⟩
  | configure x hi items hstation => exact absurd hstation hjoined
  | setClock k n hn hstation => exact absurd hstation hjoined
  | join haccepted =>
    rw [joinRefusal_of_joined hjoined] at haccepted
    cases haccepted
  | leave => exact .inr (emptyParts_returnToUnjoined s)
  | leaveSuspended =>
    exact .inr (emptyParts_congr (by simp) (by simp) (by simp) (by simp) (emptyParts_returnToUnjoined s))
  | beginLeaving => simp
  | clearSuspend =>
    exact .inl (clearSuspension_preserves (P := fun u => u.ctrl.station ≠ .unjoined) (fun u hu => by simpa using hu)
      (stillJoined_enterListening _))
  | setState x hi b =>
    exact .inl (takenState_preserves (P := fun u => u.ctrl.station ≠ .unjoined) (fun _ hu => by simpa using hu)
      (fun u hu => by simpa using hu) (by simpa [storeState_ctrl] using hjoined))
  | setBaseline b | setPrice b | setAvailability b =>
    rw [takenSetting_keeps (·.ctrl) (by simp) (by simp)]
    exact .inl hjoined
  | enterActive => exact .inl (stillJoined_enterActive s)
  | staleLimit =>
    refine .inl ?_
    unfold reachStaleLimit
    dsimp only
    split
    · simpa [beginStale_ctrl] using hjoined
    · exact hjoined
  | warn | unwarn => exact .inl hjoined
  | filtered =>
    refine .inl (requestSupply_keeps (P := fun u => u.ctrl.station ≠ .unjoined) (fun q u _ _ => by simp) ?_)
    simpa using hjoined
  | loseFeedback => exact .inl (stillJoined_requestInActive _ (by simpa using hjoined))
  | endJudgePeriod => exact .inl (stillJoined_endJudgePeriod hjoined)
  | endTransmission =>
    unfold endTransmission
    split
    · exact .inl hjoined
    · dsimp only
      split
      · exact .inr (emptyParts_returnToUnjoined _)
      · exact .inl hjoined
  | _ => exact .inl (by simpa using hjoined)

/-- The line of UNJOINED, as far as UNJOINED empties it. -/
def EmptyLine (l : LineInterface) : Prop := l.queue = [] ∧ l.rx = [] ∧ l.tx = .idle

/-- The Pledge Engine of UNJOINED, as far as UNJOINED empties it. -/
def EmptyEngine (p : PledgeEngine) : Prop :=
  p.comp = none ∧ p.boundaryPending = false ∧ p.refresh = none ∧ p.ladders = []

theorem emptyParts_iff (s : State) :
    EmptyParts s ↔ s.table = [] ∧ s.view = [] ∧ EmptyLine s.line ∧ EmptyEngine s.pledge := by
  simp only [EmptyParts, EmptyLine, EmptyEngine, and_assoc]

theorem emptyLine_carrierRises {l : LineInterface} (watched : Bool) (h : EmptyLine l) : EmptyLine (carrierRises watched l) := by
  cases watched <;> exact h

theorem emptyLine_carrierFalls {l : LineInterface} (watched : Bool) (h : EmptyLine l) : EmptyLine (carrierFalls watched l) := by
  have hbecome {m : LineInterface} (hm : EmptyLine m) : EmptyLine (becomeIdle m) := by
    obtain ⟨hqueue, hrx, htx⟩ := hm
    simp [EmptyLine, becomeIdle, hqueue, hrx, htx]
  unfold carrierFalls
  dsimp only
  split
  · split
    · exact hbecome h
    · exact h
  · exact h

theorem emptyLine_purgeQueue {s : State} (keep : Word → Bool) (h : EmptyLine s.line) : EmptyLine (purgeQueue keep s).line := by
  obtain ⟨hqueue, hrx, htx⟩ := h
  simp [EmptyLine, purgeQueue, settleHead, hqueue, hrx, htx]

theorem emptyEngine_pruneEntries {p : PledgeEngine} (cur : Word) (h : EmptyEngine p) : EmptyEngine (pruneEntries cur p) := h

theorem requestInActive_of_unjoined {s : State} (h : s.ctrl.station = .unjoined) (q : SuspendReason) :
    requestInActive q s = s := by
  simp [requestInActive, isActive, h]

theorem requestSupply_of_unjoined {s : State} (h : s.ctrl.station = .unjoined) : requestSupply s = s := by
  simp [requestSupply, h]

/-- A boundary in UNJOINED finds nothing to move. -/
theorem emptyParts_issueBoundary {s : State} (hunjoined : s.ctrl.station = .unjoined) (h : EmptyParts s) :
    EmptyParts (issueBoundary s) := by
  obtain ⟨htable, hview, hline, hengine⟩ := (emptyParts_iff s).mp h
  have hpurge := emptyLine_purgeQueue (s := recomputePhase s) (fun k => !isBefore k s.clock.current) (by simpa using hline)
  refine (emptyParts_iff _).mpr ⟨?_, ?_, ?_, ?_⟩
  · simpa [issueBoundary, boundaryAtTable, joined, hunjoined] using htable
  · simp [issueBoundary, pruneView, hview]
  · simpa [issueBoundary] using hpurge
  · simpa [issueBoundary, boundaryAtTable, joined, hunjoined] using emptyEngine_pruneEntries _ hengine

theorem emptyParts_naturalBoundary {s : State} (hunjoined : s.ctrl.station = .unjoined) (h : EmptyParts s) :
    EmptyParts (naturalBoundary s) := by
  unfold naturalBoundary
  split
  · exact emptyParts_issueBoundary hunjoined h
  · exact h

theorem emptyParts_performMarkBoundary {s : State} (m : ForwardMark) (hunjoined : s.ctrl.station = .unjoined)
    (h : EmptyParts s) : EmptyParts (performMarkBoundary m s) := by
  unfold performMarkBoundary
  dsimp only
  split
  · generalize hu : State.setClock _ _ = u
    have hstation : u.ctrl.station = .unjoined := hu ▸ by simpa using hunjoined
    have hempty : EmptyParts u := hu ▸ h
    exact emptyParts_issueBoundary hstation hempty
  · exact emptyParts_issueBoundary (by simpa using hunjoined) h

theorem emptyParts_performRebuild {s : State} (k : Word) (n : Nat) (hunjoined : s.ctrl.station = .unjoined) (h : EmptyParts s) :
    EmptyParts (performRebuild k n s) := by
  have hnot : joined s = false := by simp [joined, hunjoined]
  exact emptyParts_congr (by simp [performRebuild, hnot, setClockTo]) (by simp [performRebuild, hnot, setClockTo])
    (by simp [performRebuild, hnot, setClockTo]) (by simp [performRebuild, hnot, setClockTo]) h

theorem emptyParts_takenState {s : State} (b : StateBody) (hunjoined : s.ctrl.station = .unjoined) (h : EmptyParts s) :
    EmptyParts (takenState b s) := by
  have hstored : EmptyParts (storeState b s) := by
    obtain ⟨htable, hview, hline, hengine⟩ := (emptyParts_iff s).mp h
    exact (emptyParts_iff _).mpr ⟨by simpa using htable, by simpa using hview, by simpa using hline, hengine⟩
  have hstation : (storeState b s).ctrl.station = .unjoined := by simpa [storeState_ctrl] using hunjoined
  unfold takenState
  rw [takenSetting_of_unjoined _ _ hunjoined]
  split
  · rwa [triggerComputation_of_unjoined _ hstation]
  · exact hstored

theorem emptyParts_goodVerdict {s : State} (hunjoined : s.ctrl.station = .unjoined) (h : EmptyParts s) :
    EmptyParts (goodVerdict s) := by
  unfold goodVerdict
  split
  · exact h
  · split
    · exact h
    · rwa [triggerComputation_of_unjoined]
      exact hunjoined

theorem emptyParts_badVerdict {s : State} (hunjoined : s.ctrl.station = .unjoined) (h : EmptyParts s) :
    EmptyParts (badVerdict s) := by
  unfold badVerdict
  dsimp only
  generalize hu : s.setMon _ = u
  have hstation : u.ctrl.station = .unjoined := hu ▸ hunjoined
  have hempty : EmptyParts u := hu ▸ h
  rwa [requestInActive_of_unjoined hstation, triggerComputation_of_unjoined _ hstation, ite_self]

theorem emptyParts_endJudgePeriod {s : State} (hunjoined : s.ctrl.station = .unjoined) (h : EmptyParts s) :
    EmptyParts (endJudgePeriod s) := by
  unfold endJudgePeriod
  dsimp only
  generalize hu : startJudging _ = u
  have hstation : u.ctrl.station = .unjoined := hu ▸ by simpa using hunjoined
  have hempty : EmptyParts u := by
    obtain ⟨htable, hview, hline, hengine⟩ := (emptyParts_iff s).mp h
    subst hu
    exact (emptyParts_iff _).mpr
      ⟨by simp [State.updRunning, countVerdict, startJudging, htable], by simpa using hview, by simpa using hline, by simpa using hengine⟩
  split
  · exact emptyParts_goodVerdict hstation hempty
  · exact emptyParts_badVerdict hstation hempty

theorem emptyParts_loseFeedback {s : State} (hunjoined : s.ctrl.station = .unjoined) (h : EmptyParts s) :
    EmptyParts (loseFeedback s) := by
  unfold loseFeedback
  rw [requestInActive_of_unjoined (by simpa using hunjoined)]
  exact emptyParts_congr (by simp) (by simp) (by simp) (by simp) h

theorem emptyParts_reachStaleLimit {s : State} (hunjoined : s.ctrl.station = .unjoined) (h : EmptyParts s) :
    EmptyParts (reachStaleLimit s) := by
  unfold reachStaleLimit
  dsimp only
  split
  next hactive => simp [isActive, hunjoined] at hactive
  next => exact h

/-- In UNJOINED what is empty stays so. -/
theorem effect_of_unjoined {i : Instr} {s t : State} (hunjoined : s.ctrl.station = .unjoined) (h : EmptyParts s)
    (heffect : Effect i s t) : t.ctrl.station ≠ .unjoined ∨ EmptyParts t := by
  obtain ⟨htable, hview, hline, hengine⟩ := (emptyParts_iff s).mp h
  obtain ⟨hqueue, hrx, htx⟩ := id hline
  obtain ⟨hcomp, hpending, hrefresh, hladders⟩ := id hengine
  have hnot : joined s = false := by simp [joined, hunjoined]
  have hlineOnly {l : LineInterface} (hl : EmptyLine l) : EmptyParts (s.setLine l) :=
    (emptyParts_iff _).mpr ⟨htable, hview, hl, hengine⟩
  have hengineOnly {p : PledgeEngine} (hp : EmptyEngine p) : EmptyParts (s.setPledge p) :=
    (emptyParts_iff _).mpr ⟨htable, hview, hline, hp⟩
  cases heffect with
  | powerOn | restart => exact .inr ⟨rfl, rfl, rfl, rfl, rfl, rfl, rfl, rfl, rfl⟩
  | join haccepted =>
    exact .inl (joinStation_preserves (P := fun u => u.ctrl.station ≠ .unjoined) (fun u hu => by simpa using hu)
      (supplyWhenFiltered_keeps (P := fun u => u.ctrl.station ≠ .unjoined) (fun q _ _ _ => by simp) (by simp)))
  | leave hstation | leaveSuspended hstation | beginLeaving hstation | clearSuspend hstation | enterActive hstation
  | inject k d a hstation =>
    simp [hunjoined] at hstation
  | endTransmission hjoined | lineJam hjoined | closeFrame bytes hjoined => simp [hnot] at hjoined
  | jamClear htx' | completeRun htx' => simp [htx] at htx'
  | endComputation c hcomp' => simp [hcomp] at hcomp'
  | refresh hruns => simp [hrefresh] at hruns
  | frame n rest update hfront | award n rest k d a hfront => exact absurd hunjoined hfront.1
  | peerStale id p hp | peerRemoved id p hp => simp [hview, findPeer] at hp
  | holdExpiry k d r hr => simp [htable, findRec] at hr
  | setClock k n | rebuild => exact .inr (emptyParts_performRebuild _ _ hunjoined h)
  | boundary => exact .inr (emptyParts_naturalBoundary hunjoined h)
  | markBoundary => exact .inr (emptyParts_performMarkBoundary _ hunjoined h)
  | carrierRises => exact .inr (hlineOnly (emptyLine_carrierRises _ hline))
  | carrierFalls => exact .inr (hlineOnly (emptyLine_carrierFalls _ hline))
  | lineCarrier => exact .inr (hlineOnly (by simp [EmptyLine, abandonRun, hqueue, hrx, htx]))
  | setState x hi b => exact .inr (emptyParts_takenState b hunjoined h)
  | setBaseline b => exact .inr (takenSetting_of_unjoined _ _ hunjoined ▸ hengineOnly hengine)
  | setPrice b => exact .inr (takenSetting_of_unjoined _ _ hunjoined ▸ hengineOnly hengine)
  | setAvailability b =>
    have hinactive : isActive s = false := by simp [isActive, hunjoined]
    rw [takenSetting_of_unjoined _ _ hunjoined, storeAvailability, if_neg (by simp [hinactive])]
    exact .inr (hengineOnly hengine)
  | staleLimit => exact .inr (emptyParts_reachStaleLimit hunjoined h)
  | filtered =>
    rw [requestSupply_of_unjoined (by simpa using hunjoined)]
    exact .inr h
  | loseFeedback => exact .inr (emptyParts_loseFeedback hunjoined h)
  | endJudgePeriod => exact .inr (emptyParts_endJudgePeriod hunjoined h)
  | endMeasurement =>
    exact .inr ((emptyParts_iff _).mpr
      ⟨by simp [endMeasurement, State.updRunning, htable], by simpa using hview, by simpa using hline, hengine⟩)
  | _ => exact .inr (emptyParts_congr (by simp) (by simp) (by simp) (by simp) h)

theorem unjoinedLaw_effect {i : Instr} {s t : State} (h : UnjoinedLaw s) (heffect : Effect i s t) : UnjoinedLaw t := by
  have hafter : t.ctrl.station ≠ .unjoined ∨ EmptyParts t := by
    by_cases hunjoined : s.ctrl.station = .unjoined
    · exact effect_of_unjoined hunjoined (h hunjoined) heffect
    · exact effect_of_joined hunjoined heffect
  exact fun hunjoined => hafter.resolve_left (not_not.mpr hunjoined)

/-! ### The four laws -/

/-- The configuration changes at a power-on reset, and at a CONFIGURE in UNJOINED. -/
theorem effect_config_cases {i : Instr} {s t : State} (heffect : Effect i s t) : t = powerOnState s ∨
    (∃ items, s.ctrl.station = .unjoined ∧ (∀ j ∈ items, itemAllowed j = true) ∧ t = storeConfiguration items s) ∨
    t.ctrl.config = s.ctrl.config := by
  cases heffect
  case powerOn => exact .inl rfl
  case configure items hstation hitems => exact .inr (.inl ⟨items, hstation, hitems, rfl⟩)
  all_goals refine .inr (.inr ?_)
  case nothing | restart => rfl
  case setState => exact takenState_keeps (·.ctrl.config) (by simp) (by simp) (by simp)
  case setBaseline | setPrice | setAvailability => exact takenSetting_keeps (·.ctrl.config) (by simp) (by simp)
  all_goals simp

theorem configLaw_effect {i : Instr} {s t : State} (h : ConfigLaw s) (heffect : Effect i s t) : ConfigLaw t := by
  rw [configLaw_iff] at h ⊢
  rcases effect_config_cases heffect with rfl | ⟨items, -, hitems, rfl⟩ | hsame
  · show ConfigForm StationConfig.default
    unfold ConfigForm
    decide
  · rw [storeConfiguration_ctrl]
    exact configForm_storeItems h hitems
  · rwa [hsame]

/-- The laws of O52 together. -/
def StationLaws (s : State) : Prop := ConfigLaw s ∧ ClockForm s.clock ∧ StationForm s.ctrl ∧ UnjoinedLaw s

theorem stationLaws_effect {i : Instr} {s t : State} (h : StationLaws s) (heffect : Effect i s t) : StationLaws t := by
  obtain ⟨hconfig, hclock, hstation, hunjoined⟩ := h
  exact ⟨configLaw_effect hconfig heffect, clockForm_effect hclock heffect, stationForm_effect hstation heffect,
    unjoinedLaw_effect hunjoined heffect⟩

theorem stationLaws_of_sameButAnswers {s t : State} (hsame : SameButAnswers s t) (h : StationLaws s) : StationLaws t := by
  obtain ⟨_, _, rfl⟩ := hsame
  exact h

theorem emptyParts_tick {s : State} (hunjoined : s.ctrl.station = .unjoined) (h : EmptyParts s) : EmptyParts (tick s) := by
  obtain ⟨htable, hview, hline, hcomp, hpending, hrefresh, hladders⟩ := (emptyParts_iff s).mp h
  exact (emptyParts_iff _).mpr ⟨by simp [tick, htable], by simp [tick, hview], by simpa [tick, joined, hunjoined] using hline,
    by simp [EmptyEngine, tick, PledgeEngine.tick, countDown, hcomp, hpending, hrefresh, hladders]⟩

theorem stationLaws_tick {s : State} (h : StationLaws s) : StationLaws (tick s) := by
  obtain ⟨hconfig, hclock, hstation, hunjoined⟩ := h
  refine ⟨hconfig, ?_, ?_, fun hu => emptyParts_tick hu (hunjoined hu)⟩
  · show ClockForm (tickClock s)
    unfold tickClock
    split <;> exact hclock
  · simpa [StationForm, tick, Controller.tick, countDown] using hstation

/-- Settles O52: each of the four laws is kept by every effect and by a millisecond. -/
theorem stationKept : Obligations.StationKept := by
  unfold Obligations.StationKept
  intro s t hs h
  have hkept : StationLaws t := by
    refine step_keeps (P := StationLaws) (fun _ _ hu => hu) (fun _ _ hu => hu) (fun _ => stationLaws_tick) ?_ hs h
    exact exec_keeps (fun _ _ => stationLaws_of_sameButAnswers) (fun _ _ => stationLaws_of_sameButAnswers)
      (fun _ _ _ => stationLaws_effect)
  exact hkept

end Sys2Proof.Machine

/-! PROOFS. Every step keeps the Cluster View, the receive buffer, the event words and the Settlement Log within their bounds
(R57, R68, R76, R89, R162, R163, R166). -/

namespace Sys2Proof.Machine

/-! ### Event words and log -/

/-- The bounds of the Host Link's stores: the reserved bits clear, again flags only beside flags, 32 log records (R162, R163,
R166). -/
def HostForm (h : HostLink) : Prop :=
  (h.flags &&& 0xC000#16 = 0 ∧ h.mask &&& 0xC000#16 = 0 ∧ h.again &&& ~~~h.flags = 0) ∧ h.log.length ≤ Config.logLimit

theorem hostForm_iff (s : State) : HostForm s.host ↔ EventLaw s ∧ LogLaw s := Iff.rfl

/-- The bits that are no event are 14 and 15. -/
theorem noEventBits_iff (m : Word) : m &&& 0xC000#16 = 0 ↔ m.getLsbD 14 = false ∧ m.getLsbD 15 = false := by
  rw [← eventMaskAllowed_iff]
  simp [eventMaskAllowed]

/-- An again flag stands only beside its flag. -/
theorem againLaw_iff (again flags : Word) :
    again &&& ~~~flags = 0 ↔ ∀ i < 16, again.getLsbD i = true → flags.getLsbD i = true := by
  constructor
  · intro h i hi hagain
    have hbit : (again &&& ~~~flags).getLsbD i = false := by rw [h]; exact BitVec.getLsbD_zero
    rw [getLsbD_andNot _ _ hi, hagain] at hbit
    simpa using hbit
  · refine fun h => BitVec.eq_of_getLsbD_eq fun i hi => ?_
    have hi' := h i hi
    refine Eq.trans ?_ BitVec.getLsbD_zero.symm
    rw [getLsbD_andNot _ _ hi]
    cases hagain : again.getLsbD i
    · rfl
    · simp [hi' hagain]

theorem eventWords_raiseEvent (e : Event) {s : State} (h : EventLaw s) : EventLaw (raiseEvent e s) := by
  obtain ⟨hflags, hmask, hagain⟩ := h
  have hlt := event_bit_lt e
  have hbits := raiseEvent_bits e s
  have hsame : (raiseEvent e s).host.mask = s.host.mask := by rw [raiseEvent_eq]
  refine ⟨?_, by rwa [hsame], ?_⟩
  · rw [noEventBits_iff] at hflags ⊢
    rw [(hbits 14).1, (hbits 15).1, hflags.1, hflags.2]
    simp only [Bool.false_or, decide_eq_false_iff_not]
    omega
  · rw [againLaw_iff] at hagain ⊢
    intro i hi hset
    rw [(hbits i).2] at hset
    rw [(hbits i).1]
    rcases Bool.or_eq_true_iff.mp hset with hold | hnew
    · simp [hagain i hi hold]
    · simp [(Bool.and_eq_true_iff.mp hnew).2]

theorem hostForm_reset : HostForm HostLink.reset := by
  unfold HostForm
  decide

theorem hostForm_raiseEvent (e : Event) {s : State} (h : HostForm s.host) : HostForm (raiseEvent e s).host := by
  refine ⟨eventWords_raiseEvent e h.1, ?_⟩
  rw [raiseEvent_eq]
  exact h.2

theorem hostForm_raiseWhen (b : Bool) (e : Event) {s : State} (h : HostForm s.host) : HostForm (raiseWhen b e s).host := by
  cases b
  · exact h
  · exact hostForm_raiseEvent e h

theorem hostForm_addSettlement (x : Settlement) {s : State} (h : HostForm s.host) : HostForm (addSettlement x s).host := by
  refine hostForm_raiseEvent _ (hostForm_raiseWhen _ _ ⟨h.1, ?_⟩)
  have hlog : s.host.log.length ≤ 32 := h.2
  show (_ ++ [x]).length ≤ 32
  split
  · rw [List.length_append, List.length_drop, List.length_singleton]
    omega
  next hroom =>
    have hroom' : ¬ 32 ≤ s.host.log.length := hroom
    rw [List.length_append, List.length_singleton]
    omega

theorem hostForm_handInterval (k : Word) {s : State} (h : HostForm s.host) : HostForm (handInterval k s).host := by
  refine foldl_preserves (P := fun u => HostForm u.host) (fun u r hu => ?_) _ h
  unfold handRecord
  split
  · exact hostForm_addSettlement _ hu
  · exact hu

/-! ### What the receiver holds -/

/-- The receive buffer and its counters. -/
def received (l : LineInterface) : List Notice × Nat × Nat := (l.rx, l.rxBad, l.rxDropped)

@[simp] theorem received_beginRun (l : LineInterface) : received (beginRun l) = received l := by
  unfold beginRun
  split <;> rfl

@[simp] theorem received_settleHead (old : Option NoticeKey) (l : LineInterface) : received (settleHead old l) = received l := by
  unfold settleHead
  split
  · split
    · rfl
    · exact received_beginRun _
  · split
    · rfl
    · split
      · rfl
      · exact received_beginRun _
  · rfl
  · rfl

@[simp] theorem received_resumeTx (l : LineInterface) : received (resumeTx l) = received l := by
  unfold resumeTx
  split
  · rfl
  · exact received_beginRun _

@[simp] theorem received_enqueue (k : NoticeKey) (w : Option WithdrawContent) (s : State) :
    received (enqueue k w s).line = received s.line := by
  simp only [enqueue, raiseWhen_frame, State.setLine_line, received_settleHead]
  rfl

@[simp] theorem received_purgeQueue (keep : Word → Bool) (s : State) : received (purgeQueue keep s).line = received s.line := by
  simp only [purgeQueue, State.setLine_line, received_settleHead]
  rfl

@[simp] theorem received_carrierRises (b : Bool) (l : LineInterface) : received (carrierRises b l) = received l := by
  cases b <;> rfl

@[simp] theorem received_carrierFalls (b : Bool) (l : LineInterface) : received (carrierFalls b l) = received l := by
  have hbecome (m : LineInterface) : received (becomeIdle m) = received m := by
    unfold becomeIdle
    dsimp only
    split
    · exact received_beginRun _
    · rfl
  unfold carrierFalls
  dsimp only
  split
  · split
    · exact hbecome _
    · rfl
  · rfl

@[simp] theorem received_completeRun (s : State) : received (completeRun s).line = received s.line := by
  unfold completeRun
  split
  · rfl
  · split
    · simp only [startSending, noteSent_frame]
      rfl
    · simp only [State.setLine_line, received_settleHead]
      rfl

/-! ### Both through the operations of the other blocks -/

/-- The Host Link's stores are in bounds, and the receiver holds `x`. -/
def StoresWith (x : List Notice × Nat × Nat) (s : State) : Prop := HostForm s.host ∧ received s.line = x

variable {x : List Notice × Nat × Nat}

theorem storesWith_raiseEvent (e : Event) {s : State} (h : StoresWith x s) : StoresWith x (raiseEvent e s) :=
  ⟨hostForm_raiseEvent e h.1, by simpa using h.2⟩

theorem storesWith_enqueue (k : NoticeKey) (w : Option WithdrawContent) {s : State} (h : StoresWith x s) :
    StoresWith x (enqueue k w s) :=
  ⟨hostForm_raiseWhen _ _ h.1, by simpa using h.2⟩

/-- Host Link and line are read alone. -/
theorem storesWith_congr {s t : State} (hhost : t.host = s.host) (hline : t.line = s.line) (h : StoresWith x s) : StoresWith x t := by
  unfold StoresWith at h ⊢
  rwa [hhost, hline]

theorem storesWith_noteTakeChange (k : Word) (d : Direction) (b : Bool) {s : State} (h : StoresWith x s) :
    StoresWith x (noteTakeChange k d b s) := by
  have hnoted : StoresWith x (raiseEvent .take (s.updRec k d fun r => { r with hold := some (holdMs s.ctrl.config) })) :=
    storesWith_raiseEvent _ (storesWith_congr (by simp) (by simp) h)
  unfold noteTakeChange
  dsimp only
  split
  · exact storesWith_congr (by simp) (by simp) hnoted
  · exact hnoted

theorem storesWith_changeTake (k : Word) (d : Direction) (n : Nat) {s : State} (h : StoresWith x s) : StoresWith x (changeTake k d n s) := by
  unfold changeTake
  split
  · split
    · exact h
    · exact storesWith_noteTakeChange _ _ _ (storesWith_congr (by simp) (by simp) h)
  · exact h

theorem storesWith_allocation : AllocationKeeps (StoresWith x) where
  raise e _ h := storesWith_raiseEvent e h
  entryDue _ _ h := h
  enqueueTake _ _ _ _ _ h := storesWith_enqueue _ _ h
  changeTake _ _ _ _ _ _ _ _ _ h := storesWith_changeTake _ _ _ h
  setEvalPending _ _ _ _ _ h := storesWith_congr (by simp) (by simp) h
  applied _ _ _ _ _ _ h := storesWith_congr (by simp) (by simp) h
  replaced _ _ _ _ _ _ _ _ h := storesWith_congr (by simp) (by simp) h

theorem storesWith_recompute {s : State} (h : StoresWith x s) : StoresWith x (recompute s) :=
  storesWith_congr (by simp) (by simp) h

theorem storesWith_withdrawProcedure (q : Reason) (sel : CRecord → Bool) {s : State} (h : StoresWith x s) :
    StoresWith x (withdrawProcedure q sel s) :=
  storesWith_recompute (storesWith_raiseEvent _ (storesWith_enqueue _ _ h))

theorem storesWith_suspendStation (q : SuspendReason) {s : State} (h : StoresWith x s) : StoresWith x (suspendStation q s) :=
  storesWith_raiseEvent _ (storesWith_withdrawProcedure _ _ h)

theorem storesWith_requestInActive (q : SuspendReason) {s : State} (h : StoresWith x s) : StoresWith x (requestInActive q s) :=
  requestInActive_keeps (fun q _ _ => storesWith_suspendStation q) h

theorem storesWith_requestSupply {s : State} (h : StoresWith x s) : StoresWith x (requestSupply s) :=
  requestSupply_keeps (fun q _ _ => storesWith_suspendStation q) h

theorem storesWith_enterListening {s : State} (h : StoresWith x s) : StoresWith x (enterListening s) :=
  supplyWhenFiltered_keeps (fun q _ _ => storesWith_suspendStation q) (s := s.setCtrl _) h

theorem storesWith_beginStale {s : State} (h : StoresWith x s) : StoresWith x (beginStale s) := by
  unfold beginStale
  split
  · exact storesWith_raiseEvent _ h
  · exact h

theorem storesWith_triggerComputation (r : Bool) {s : State} (h : StoresWith x s) : StoresWith x (triggerComputation r s) :=
  storesWith_congr (by simp) (by simp) h

theorem storesWith_startComputation (b r p : Bool) {s : State} (h : StoresWith x s) : StoresWith x (startComputation b r p s) :=
  storesWith_congr (by simp) (by simp) h

theorem storesWith_beginJudging {s : State} (h : StoresWith x s) : StoresWith x (beginJudging s) :=
  storesWith_congr (by simp) (by simp) h

theorem storesWith_enterActive {s : State} (h : StoresWith x s) : StoresWith x (enterActive s) := by
  unfold enterActive
  dsimp only
  refine entryRequests_keeps (fun q _ _ => storesWith_suspendStation q) (fun _ _ hu => hu) ?_
  have hentered : StoresWith x (triggerComputation false (beginJudging (recompute (beginStale
      ((s.setCtrl { s.ctrl with station := .active, listening := none }).setEntryDue true))))) :=
    storesWith_triggerComputation _ (storesWith_beginJudging (storesWith_recompute (storesWith_beginStale h)))
  split
  · exact storesWith_triggerComputation _ hentered
  · exact hentered

theorem storesWith_returnToUnjoined {s : State} {rx : List Notice} {bad dropped : Nat} (h : StoresWith (rx, bad, dropped) s) :
    StoresWith ([], bad, dropped) (returnToUnjoined s) := by
  obtain ⟨hhost, hline⟩ := h
  simp only [received, Prod.mk.injEq] at hline
  obtain ⟨-, hbad, hdropped⟩ := hline
  exact storesWith_recompute
    ⟨hostForm_handInterval _ hhost, by simp [received, LineInterface.off, LineInterface.reset, hbad, hdropped]⟩

theorem storesWith_performBoundary {s : State} (h : StoresWith x s) : StoresWith x (performBoundary s) := by
  unfold performBoundary
  exact storesWith_recompute ⟨hostForm_handInterval _ h.1, by simpa using h.2⟩

theorem storesWith_purgeQueue (keep : Word → Bool) {s : State} (h : StoresWith x s) : StoresWith x (purgeQueue keep s) :=
  ⟨by simpa using h.1, by simpa using h.2⟩

theorem storesWith_boundaryAtTable {s : State} (h : StoresWith x s) : StoresWith x (boundaryAtTable s) := by
  unfold boundaryAtTable
  split
  · split
    · exact h
    · exact storesWith_congr (by simp) (by simp) (storesWith_performBoundary h)
  · exact h

theorem storesWith_issueBoundary {s : State} (h : StoresWith x s) : StoresWith x (issueBoundary s) := by
  refine storesWith_recompute (storesWith_boundaryAtTable ?_)
  exact storesWith_purgeQueue _ h

theorem storesWith_naturalBoundary {s : State} (h : StoresWith x s) : StoresWith x (naturalBoundary s) := by
  unfold naturalBoundary
  split
  · exact storesWith_issueBoundary h
  · exact h

theorem storesWith_performMarkBoundary (m : ForwardMark) {s : State} (h : StoresWith x s) : StoresWith x (performMarkBoundary m s) := by
  unfold performMarkBoundary
  dsimp only
  split
  · refine storesWith_issueBoundary ?_
    exact h
  · refine storesWith_issueBoundary ?_
    exact h

theorem storesWith_performRebuild (k : Word) (n : Nat) {s : State} (h : StoresWith x s) : StoresWith x (performRebuild k n s) := by
  refine storesWith_recompute ?_
  unfold recomputePhase
  split
  · exact storesWith_purgeQueue _ h
  · exact h

theorem storesWith_noteLowered {s : State} (kd : Word × Direction) (h : StoresWith x s) : StoresWith x (noteLowered s kd) :=
  storesWith_allocation.triggerEvaluation kd (storesWith_enqueue _ _ (storesWith_noteTakeChange _ _ _ h))

theorem storesWith_afterWrite {s : State} (h : StoresWith x s) : StoresWith x (afterWrite s) := by
  unfold afterWrite
  dsimp only
  split
  · exact storesWith_startComputation _ _ _ (storesWith_performBoundary h)
  · split
    · exact h
    · exact storesWith_allocation.lockEnds h

theorem storesWith_endComputation (c : Computation) {s : State} (h : StoresWith x s) : StoresWith x (endComputation c s) := by
  have hwritten : StoresWith x (formLadders (frozenPairs s c) (s.setTable (writtenTable s c))) :=
    storesWith_congr (by simp) (by simp) h
  have hlowered := foldl_preserves (P := StoresWith x) (fun _ kd => storesWith_noteLowered kd) (loweredPairs s c) hwritten
  refine storesWith_afterWrite ?_
  unfold pledgeInsert
  split
  · exact storesWith_enqueue _ _ hlowered
  · exact hlowered

theorem storesWith_storeAvailability (b : AvailabilityBody) {s : State} (h : StoresWith x s) : StoresWith x (storeAvailability b s) := by
  have howner (p q : PledgeEngine) (d : Direction) {u : State} (hu : StoresWith x u) : StoresWith x (ownerWithdrawal p q d u) := by
    unfold ownerWithdrawal
    split
    · exact storesWith_withdrawProcedure _ _ hu
    · exact hu
  unfold storeAvailability
  dsimp only
  split
  · exact howner _ _ _ (howner _ _ _ h)
  · exact h

theorem storesWith_endJudgePeriod {s : State} (h : StoresWith x s) : StoresWith x (endJudgePeriod s) := by
  unfold endJudgePeriod badVerdict
  dsimp only
  split
  · exact storesWith_congr (by simp) (by simp) h
  · split
    · refine storesWith_triggerComputation _ (storesWith_requestInActive _ ?_)
      exact h
    · exact storesWith_congr (by simp) (by simp) h

/-- What an effect leaves of the receiver's buffer and counters: all of it; the rest of the buffer when its front is
dispatched; an empty buffer when the line is switched; or what a closed frame makes of it. -/
inductive ReceivedAfter (s : State) : List Notice × Nat × Nat → Prop
  | same : ReceivedAfter s (received s.line)
  | dropped : ReceivedAfter s (s.line.rx.drop 1, s.line.rxBad, s.line.rxDropped)
  | emptied : ReceivedAfter s ([], s.line.rxBad, s.line.rxDropped)
  | reset : ReceivedAfter s ([], 0, 0)
  | closed (bytes : List Byte) (hjoined : joined s = true) : ReceivedAfter s (received (closeFrame bytes s).line)

theorem storesWith_after {s t : State} (h : StoresWith (received s.line) t) : ∃ x, ReceivedAfter s x ∧ StoresWith x t :=
  ⟨_, .same, h⟩

theorem storesWith_returned {s t : State} (h : StoresWith ([], s.line.rxBad, s.line.rxDropped) t) :
    ∃ x, ReceivedAfter s x ∧ StoresWith x t := ⟨_, .emptied, h⟩

theorem hostForm_closeFrame (bytes : List Byte) {s : State} (h : HostForm s.host) : HostForm (closeFrame bytes s).host := by
  unfold closeFrame
  dsimp only
  split
  · unfold takeGoodFrame
    split
    · exact hostForm_raiseEvent _ h
    · unfold placeFrame
      split
      · exact h
      · exact hostForm_raiseEvent _ h
  · exact h

theorem storesWith_endTransmission {s : State} (h : HostForm s.host) :
    ∃ x, ReceivedAfter s x ∧ StoresWith x (endTransmission s) := by
  unfold endTransmission
  split
  · exact storesWith_after ⟨h, received_resumeTx _⟩
  next e rest _ =>
    have hended : StoresWith (received s.line)
        (s.setLine (resumeTx { afterTransmission s.line with queue := endHandled s.clock.current e rest })) :=
      ⟨h, received_resumeTx _⟩
    dsimp only
    split
    · exact storesWith_returned (storesWith_returnToUnjoined hended)
    · exact storesWith_after hended

theorem hostForm_clearFlags (m : Word) {s : State} (h : HostForm s.host) : HostForm (clearFlags m s).host := by
  obtain ⟨⟨hflags, hmask, hagain⟩, hlog⟩ := h
  refine ⟨⟨?_, hmask, ?_⟩, hlog⟩
  · rw [noEventBits_iff] at hflags ⊢
    obtain ⟨h14, h15⟩ := hflags
    simp only [clearFlags, State.setHost_host, getLsbD_andNot _ m (show 14 < 16 by decide), getLsbD_andNot _ m (show 15 < 16 by decide),
      h14, h15, Bool.false_and, and_self]
  · rw [againLaw_iff] at hagain ⊢
    intro i hi hset
    simp only [clearFlags, State.setHost_host, getLsbD_andNot _ _ hi, Bool.and_eq_true] at hset ⊢
    exact ⟨hagain i hi hset.1, hset.2⟩

theorem hostForm_invalidPeriod {s : State} (h : HostForm s.host) : HostForm (invalidPeriod s).host := by
  unfold invalidPeriod handOverInvalid
  split
  · split
    · simp only [recompute_frame, State.setAct_host]
      refine hostForm_raiseEvent _ ?_
      exact h
    · exact h
  · exact h

theorem hostForm_invalidPeriods (n : Nat) {s : State} (h : HostForm s.host) : HostForm (invalidPeriods n s).host := by
  induction n generalizing s with
  | zero => exact h
  | succ n ih => exact ih (hostForm_invalidPeriod h)

theorem hostForm_recordMisses (count : Nat) {s : State} (h : HostForm s.host) : HostForm (recordMisses count s).host := by
  unfold recordMisses
  dsimp only
  split
  · exact h
  · exact hostForm_invalidPeriods _ h

theorem hostForm_takeCrossing (count : Nat) {s : State} (h : HostForm s.host) : HostForm (takeCrossing count s).host := by
  have hnew {u : State} (hu : HostForm u.host) : HostForm (newReference count u).host := hu
  unfold takeCrossing
  split
  · unfold crossingFrom
    split
    · exact h
    · exact hnew (hostForm_invalidPeriod h)
    · exact hnew (by simpa using h)
    · exact hnew (hostForm_invalidPeriod h)
  · exact hnew h

theorem hostForm_storeConfiguration (items : List Item) {s : State} (h : HostForm s.host) :
    HostForm (storeConfiguration items s).host := by
  have hthreshold : (thresholdReset items (s.setCtrl { s.ctrl with config := storeItems items s.ctrl.config })).host = s.host := by
    unfold thresholdReset
    split <;> rfl
  unfold storeConfiguration meterReconfigured
  dsimp only
  split
  · rwa [hthreshold]
  · split
    · simp only [handOverInvalid, recompute_frame, State.setAct_host]
      refine hostForm_raiseEvent _ ?_
      simpa only [State.setFreq_host, hthreshold] using h
    · simpa only [State.setFreq_host, hthreshold] using h

theorem storesWith_reachStaleLimit {s : State} (h : StoresWith x s) : StoresWith x (reachStaleLimit s) := by
  unfold reachStaleLimit
  dsimp only
  split
  · refine storesWith_triggerComputation _ (storesWith_beginStale ?_)
    exact h
  · exact h

/-- Each effect keeps the Host Link's stores in bounds, and takes or drops what it receives as listed. -/
theorem storesWith_effect {i : Instr} {s t : State} (h : HostForm s.host) (heffect : Effect i s t) :
    ∃ x, ReceivedAfter s x ∧ StoresWith x t := by
  have hs : StoresWith (received s.line) s := ⟨h, rfl⟩
  have hdropped : StoresWith (s.line.rx.drop 1, s.line.rxBad, s.line.rxDropped) (dropFront s) := ⟨h, rfl⟩
  cases heffect with
  | nothing | beginMark | beginRebuild | nextSecond | warn | unwarn | pwmPeriod | feedback | startJudging => exact storesWith_after hs
  | powerOn => exact ⟨_, .reset, hostForm_reset, rfl⟩
  | restart => exact ⟨_, .reset, ⟨⟨hostForm_reset.1.1, h.1.2.1, hostForm_reset.1.2.2⟩, h.2⟩, rfl⟩
  | configure x hi items => exact storesWith_after ⟨hostForm_storeConfiguration items h, by simp⟩
  | join =>
    refine storesWith_returned (joinStation_preserves (fun _ => storesWith_triggerComputation _) (storesWith_enterListening ?_))
    exact ⟨h, rfl⟩
  | leave => exact storesWith_returned (storesWith_returnToUnjoined hs)
  | leaveSuspended => exact storesWith_returned (storesWith_congr (by simp) (by simp) (storesWith_returnToUnjoined hs))
  | beginLeaving => exact storesWith_after (storesWith_withdrawProcedure _ _ hs)
  | clearSuspend =>
    refine storesWith_after (clearSuspension_preserves (fun _ => storesWith_triggerComputation _) (storesWith_enterListening ?_))
    exact hs
  | setClock | rebuild => exact storesWith_after (storesWith_performRebuild _ _ hs)
  | setState _ _ b =>
    exact storesWith_after (takenState_preserves (fun _ hu => hu) (fun _ => storesWith_triggerComputation _) hs)
  | setBaseline b => exact storesWith_after (takenSetting_preserves (fun _ hu => hu) hs)
  | setPrice b => exact storesWith_after (takenSetting_preserves (fun _ hu => hu) hs)
  | setAvailability b => exact storesWith_after (takenSetting_preserves (fun _ hu => hu) (storesWith_storeAvailability b hs))
  | inject => exact storesWith_after (storesWith_enqueue _ _ (storesWith_allocation.acceptAward hs))
  | takeLog r rest hlog =>
    have hshort : rest.length ≤ Config.logLimit := by
      have hlength : s.host.log.length ≤ Config.logLimit := h.2
      rw [hlog, List.length_cons] at hlength
      exact Nat.le_of_succ_le hlength
    exact storesWith_after ⟨⟨h.1, hshort⟩, rfl⟩
  | clearEvents m => exact storesWith_after ⟨hostForm_clearFlags m h, rfl⟩
  | eventMask m hm =>
    obtain ⟨⟨hflags, -, hagain⟩, hlog⟩ := h
    exact storesWith_after ⟨⟨⟨hflags, (eventMaskAllowed_iff m).mp hm, hagain⟩, hlog⟩, rfl⟩
  | boundary => exact storesWith_after (storesWith_naturalBoundary hs)
  | markBoundary m => exact storesWith_after (storesWith_performMarkBoundary m hs)
  | endComputation c => exact storesWith_after (storesWith_endComputation c hs)
  | enterActive => exact storesWith_after (storesWith_enterActive hs)
  | staleLimit => exact storesWith_after (storesWith_reachStaleLimit hs)
  | filtered =>
    refine storesWith_after (storesWith_requestSupply ?_)
    exact hs
  | loseFeedback =>
    refine storesWith_after (storesWith_requestInActive _ ?_)
    exact hs
  | endJudgePeriod => exact storesWith_after (storesWith_endJudgePeriod hs)
  | missedPeriod =>
    refine storesWith_after ⟨hostForm_invalidPeriod ?_, by simp⟩
    exact h
  | crossing count =>
    refine storesWith_after ⟨hostForm_takeCrossing _ ?_, by simp⟩
    exact hostForm_recordMisses count h
  | carrierRises => exact storesWith_after ⟨h, received_carrierRises _ _⟩
  | carrierFalls => exact storesWith_after ⟨h, received_carrierFalls _ _⟩
  | lineCarrier =>
    refine storesWith_after ⟨h, ?_⟩
    unfold abandonRun
    split <;> rfl
  | completeRun => exact storesWith_after ⟨by simpa using h, received_completeRun s⟩
  | endTransmission => exact storesWith_endTransmission h
  | lineJam => exact storesWith_after (storesWith_raiseEvent _ hs)
  | jamClear => exact storesWith_after ⟨h, received_resumeTx _⟩
  | closeFrame bytes hjoined => exact ⟨_, .closed bytes hjoined, hostForm_closeFrame bytes h, rfl⟩
  | frame n rest update =>
    exact ⟨_, .dropped, storesWith_allocation.takeFrame hdropped fun _ _ _ => ⟨hdropped, fun _ _ => hdropped⟩⟩
  | award n rest k d a =>
    exact ⟨_, .dropped, storesWith_allocation.acceptAward
      (storesWith_allocation.takeFrame hdropped fun _ _ _ => ⟨hdropped, fun _ _ => hdropped⟩)⟩
  | peerStale id p =>
    unfold makeStale
    dsimp only
    split
    · exact storesWith_after hs
    · exact storesWith_after (storesWith_allocation.actOnReport _ hs)
  | peerRemoved id p => exact storesWith_after (storesWith_allocation.actOnReport _ hs)
  | holdExpiry k d r => exact storesWith_after (storesWith_allocation.expireHold (storesWith_congr (by simp) (by simp) hs))
  | _ => exact storesWith_after (storesWith_congr (by simp) (by simp) hs)

/-! ### The buffer -/

/-- At most 4 frames, counters in range, and no frame of the own id (R57, R67, R68). -/
def BufferForm (own : Nat) (x : List Notice × Nat × Nat) : Prop :=
  (x.1.length ≤ Config.rxLimit ∧ x.2.1 ≤ Config.counterLimit ∧ x.2.2 ≤ Config.counterLimit) ∧
  ∀ n ∈ x.1, n.sender.toNat ≠ own

theorem saturatingNext_le (n : Nat) : saturatingNext n ≤ Config.counterLimit := Nat.min_le_left _ _

theorem bufferForm_closeFrame (bytes : List Byte) {s : State} (h : BufferForm s.ctrl.config.stationId (received s.line)) :
    BufferForm s.ctrl.config.stationId (received (closeFrame bytes s).line) := by
  obtain ⟨⟨hlength, hbad, hdropped⟩, hown⟩ := id h
  unfold closeFrame
  dsimp only
  split
  next n _ =>
    unfold takeGoodFrame
    split
    · simpa [received] using h
    next hother =>
      unfold placeFrame
      split
      next hroom =>
        refine ⟨⟨by simpa [received] using hroom, hbad, hdropped⟩, fun m hm => ?_⟩
        rcases List.mem_append.mp hm with hold | hnew
        · exact hown m hold
        · rw [List.mem_singleton.mp hnew]
          exact hother
      next => 
        simp only [raiseEvent_frame]
        exact ⟨⟨hlength, hbad, saturatingNext_le _⟩, hown⟩
  next => exact ⟨⟨hlength, saturatingNext_le _, hdropped⟩, hown⟩

theorem bufferForm_after {s : State} {x : List Notice × Nat × Nat} (h : BufferForm s.ctrl.config.stationId (received s.line))
    (hafter : ReceivedAfter s x) : BufferForm s.ctrl.config.stationId x := by
  obtain ⟨⟨hlength, hbad, hdropped⟩, hown⟩ := id h
  cases hafter with
  | same => exact h
  | dropped => exact ⟨⟨(List.length_drop ▸ Nat.sub_le _ _).trans hlength, hbad, hdropped⟩, fun n hn => hown n (List.mem_of_mem_drop hn)⟩
  | emptied => exact ⟨⟨Nat.zero_le _, hbad, hdropped⟩, nofun⟩
  | reset => exact ⟨⟨Nat.zero_le _, Nat.zero_le _, Nat.zero_le _⟩, nofun⟩
  | closed bytes => exact bufferForm_closeFrame bytes h

/-! ### The view -/

/-- At most 47 ids, each once, in ascending order, and none the own (R76, R89). -/
def IdsForm (own : Nat) (ids : List Nat) : Prop :=
  ids.length ≤ Config.viewLimit ∧ ids.Pairwise (· < ·) ∧ ∀ id ∈ ids, id ≠ own

/-- The station ids of a view, in its order. -/
def viewIds (view : List Peer) : List Nat := view.map (·.id)

theorem viewIds_map {f : Peer → Peer} (h : ∀ p, (f p).id = p.id) (view : List Peer) : viewIds (view.map f) = viewIds view := by
  simp [viewIds, h]

theorem viewIds_mapPeer {f : Peer → Peer} {id : Nat} (h : ∀ p, p.id = id → (f p).id = id) (view : List Peer) :
    viewIds (mapPeer id f view) = viewIds view := by
  refine viewIds_map (fun p => ?_) view
  split
  next hp => exact (h p hp).trans hp.symm
  next => rfl

@[simp] theorem viewIds_pruneView (drop : Word → Bool) (view : List Peer) : viewIds (pruneView drop view) = viewIds view := by
  simp [viewIds, pruneView]

theorem idsForm_filter {own : Nat} {view : List Peer} (p : Peer → Bool) (h : IdsForm own (viewIds view)) :
    IdsForm own (viewIds (view.filter p)) := by
  obtain ⟨hlength, hsorted, hown⟩ := h
  have hsub : (viewIds (view.filter p)).Sublist (viewIds view) := List.filter_sublist.map _
  exact ⟨hsub.length_le.trans hlength, hsorted.sublist hsub, fun id hid => hown id (hsub.mem hid)⟩

theorem length_placePeer (p : Peer) (view : List Peer) : (placePeer p view).length = view.length + 1 := by
  induction view with
  | nil => rfl
  | cons q rest ih =>
    unfold placePeer
    split
    · rfl
    · simp [ih]

theorem mem_placePeer {p q : Peer} {view : List Peer} : q ∈ placePeer p view ↔ q = p ∨ q ∈ view := by
  induction view with
  | nil => simp [placePeer]
  | cons r rest ih =>
    unfold placePeer
    split
    · simp
    · simp only [List.mem_cons, ih]
      tauto

/-- A new id is placed in ascending order. -/
theorem pairwise_placePeer {p : Peer} {view : List Peer} (hsorted : (viewIds view).Pairwise (· < ·))
    (hnew : ∀ q ∈ view, q.id ≠ p.id) : (viewIds (placePeer p view)).Pairwise (· < ·) := by
  induction view with
  | nil => simp [placePeer, viewIds]
  | cons q rest ih =>
    obtain ⟨hhead, htail⟩ := List.pairwise_cons.mp hsorted
    unfold placePeer
    split
    next hlt =>
      refine List.pairwise_cons.mpr ⟨fun id hid => ?_, hsorted⟩
      rcases List.mem_cons.mp hid with rfl | hid
      · exact hlt
      · exact hlt.trans (hhead id hid)
    next hge =>
      have hne := hnew q List.mem_cons_self
      refine List.pairwise_cons.mpr ⟨fun id hid => ?_, ih htail fun r hr => hnew r (List.mem_cons_of_mem q hr)⟩
      obtain ⟨r, hr, rfl⟩ := List.mem_map.mp hid
      rcases mem_placePeer.mp hr with rfl | hr
      · exact lt_of_le_of_ne (Nat.le_of_not_lt hge) hne
      · exact hhead r.id (List.mem_map_of_mem hr)

theorem idsForm_placePeer {own : Nat} {p : Peer} {view : List Peer} (h : IdsForm own (viewIds view))
    (hroom : view.length < Config.viewLimit) (hnew : ∀ q ∈ view, q.id ≠ p.id) (hown : p.id ≠ own) :
    IdsForm own (viewIds (placePeer p view)) := by
  obtain ⟨-, hsorted, hothers⟩ := h
  refine ⟨?_, pairwise_placePeer hsorted hnew, fun id hid => ?_⟩
  · rw [viewIds, List.length_map, length_placePeer]
    exact hroom
  · obtain ⟨q, hq, rfl⟩ := List.mem_map.mp hid
    rcases mem_placePeer.mp hq with rfl | hq
    · exact hown
    · exact hothers q.id (List.mem_map_of_mem hq)

theorem foldl_olderStale_mem (q : Peer) (rest : List Peer) : rest.foldl olderStale q ∈ q :: rest := by
  induction rest generalizing q with
  | nil => simp
  | cons r rest ih =>
    have holder : olderStale q r = q ∨ olderStale q r = r := by
      unfold olderStale
      split
      · exact .inr rfl
      · split
        · exact .inr rfl
        · exact .inl rfl
    rw [List.foldl_cons]
    rcases List.mem_cons.mp (ih (olderStale q r)) with hmem | hmem
    · rw [hmem]
      rcases holder with ho | ho <;> simp [ho]
    · exact List.mem_cons_of_mem q (List.mem_cons_of_mem r hmem)

/-- The record that makes room is a STALE one of the view. -/
theorem roomMaker_mem {view : List Peer} {p : Peer} (h : roomMaker view = some p) : p ∈ view ∧ p.status = .stale := by
  unfold roomMaker at h
  split at h
  · cases h
  next q rest hstale =>
    obtain rfl := Option.some.inj h
    have hmem : rest.foldl olderStale q ∈ view.filter fun p => p.status == .stale := hstale ▸ foldl_olderStale_mem q rest
    obtain ⟨hview, hstatus⟩ := List.mem_filter.mp hmem
    exact ⟨hview, by simpa using hstatus⟩

theorem findPeer_none {view : List Peer} {id : Nat} (h : findPeer view id = none) : ∀ q ∈ view, q.id ≠ id := by
  simpa [findPeer] using h

theorem idsForm_headerUpdate {cur : Word} {own id : Nat} {zone : Word} {view after : List Peer} {r : Report}
    (h : IdsForm own (viewIds view)) (hown : id ≠ own) (hupdate : headerUpdate cur id zone view = some (after, r)) :
    IdsForm own (viewIds after) := by
  unfold headerUpdate at hupdate
  split at hupdate
  · simp only [Option.some.injEq, Prod.mk.injEq] at hupdate
    obtain ⟨rfl, -⟩ := hupdate
    rwa [viewIds_mapPeer (f := fun p => { p with zone := zone, ageMs := 0 }) fun _ hp => hp]
  next hnone =>
    split at hupdate
    next hroom =>
      simp only [Option.some.injEq, Prod.mk.injEq] at hupdate
      obtain ⟨rfl, -⟩ := hupdate
      exact idsForm_placePeer h hroom (findPeer_none hnone) hown
    next =>
      split at hupdate
      next out hout =>
        simp only [Option.some.injEq, Prod.mk.injEq] at hupdate
        obtain ⟨rfl, -⟩ := hupdate
        have hmem := (roomMaker_mem hout).1
        have hshorter : (view.filter fun p => p.id != out.id).length < view.length :=
          List.length_filter_lt_length_iff_exists.mpr ⟨out, hmem, by simp⟩
        refine idsForm_placePeer (idsForm_filter _ h) (hshorter.trans_le (by simpa [viewIds] using h.1)) (fun q hq => ?_) hown
        exact findPeer_none hnone q (List.mem_filter.mp hq).1
      next => cases hupdate

theorem idsForm_takeFrame {own : Nat} {n : Notice} {update : Peer → Peer × Report} {s : State}
    (hid : ∀ p, (update p).1.id = p.id) (hown : n.sender.toNat ≠ own) (h : IdsForm own (viewIds s.view)) :
    IdsForm own (viewIds (takeFrame n update s).view) := by
  unfold takeFrame
  dsimp only
  split
  · simpa using h
  next view r hupdate =>
    have hafter := idsForm_headerUpdate h hown hupdate
    split
    · exact hafter
    next p hp =>
      have hpid : p.id = n.sender.toNat := by simpa using List.find?_some hp
      simpa [viewIds_mapPeer fun _ _ => (hid p).trans hpid] using hafter

/-- What an effect leaves of the view, as far as ids go: all of it; nothing; what the front frame makes of it; or the records
that an expired age leaves. -/
inductive ViewAfter (s : State) : List Peer → Prop
  | same (view : List Peer) (h : viewIds view = viewIds s.view) : ViewAfter s view
  | emptied : ViewAfter s []
  | taken (n : Notice) (rest : List Notice) (update : Peer → Peer × Report) (hfront : FrontFrame s n rest)
      (hid : ∀ p, (update p).1.id = p.id) : ViewAfter s (takeFrame n update (dropFront s)).view
  | removed (p : Peer → Bool) : ViewAfter s (s.view.filter p)

theorem viewAfter_issueBoundary {s u : State} (h : u.view = s.view) : ViewAfter s (issueBoundary u).view :=
  .same _ (by simp [issueBoundary, h])

theorem viewAfter_performRebuild (k : Word) (n : Nat) (s : State) : ViewAfter s (performRebuild k n s).view := by
  refine .same _ ?_
  unfold performRebuild rebuildHorizon
  dsimp only
  split <;> simp [setClockTo]

theorem viewAfter_effect {i : Instr} {s t : State} (heffect : Effect i s t) : ViewAfter s t.view := by
  have hsame {u : State} (hview : u.view = s.view) : ViewAfter s u.view := .same _ (by rw [hview])
  cases heffect with
  | nothing => exact hsame rfl
  | powerOn | restart => exact .emptied
  | join =>
    refine joinStation_preserves (P := fun u => ViewAfter s u.view) (fun u hu => by simpa using hu) ?_
    simpa [joinReady] using ViewAfter.emptied
  | leave => exact (emptyParts_returnToUnjoined s).2.1 ▸ .emptied
  | leaveSuspended =>
    rw [(clearErrors_frame _).2.2.2.2.2.1]
    exact (emptyParts_returnToUnjoined s).2.1 ▸ .emptied
  | clearSuspend =>
    exact clearSuspension_preserves (P := fun u => ViewAfter s u.view) (fun u hu => by simpa using hu) (hsame (by simp))
  | setClock | rebuild => exact viewAfter_performRebuild _ _ s
  | setState => exact hsame (takenState_keeps (·.view) (by simp) (by simp) (by simp))
  | setBaseline | setPrice | setAvailability => exact hsame (takenSetting_keeps (·.view) (by simp) (by simp))
  | boundary =>
    unfold naturalBoundary
    split
    · exact viewAfter_issueBoundary (by simp)
    · exact hsame (by simp)
  | markBoundary m =>
    unfold performMarkBoundary
    dsimp only
    split
    · exact viewAfter_issueBoundary (u := (nextInterval s).setClock _) (by simp)
    · exact viewAfter_issueBoundary (u := (nextInterval s).setClock _) (by simp)
  | endComputation c => exact hsame (by simp)
  | endTransmission =>
    unfold endTransmission
    split
    · exact hsame rfl
    · dsimp only
      split
      · exact (emptyParts_returnToUnjoined _).2.1 ▸ .emptied
      · exact hsame rfl
  | frame n rest update hfront hid => exact .taken n rest update hfront hid
  | award n rest k d a hfront =>
    rw [(acceptAward_frame _ _ _ _).2.2.2.1]
    exact .taken n rest _ hfront fun _ => rfl
  | peerStale id p hp =>
    have hstale : viewIds (mapPeer id (fun p => { p with ageMs := max p.ageMs (staleAgeMs s.ctrl.config), status := .stale }) s.view) =
        viewIds s.view :=
      viewIds_mapPeer (f := fun p => { p with ageMs := max p.ageMs (staleAgeMs s.ctrl.config), status := .stale })
        (fun _ hp => hp) _
    refine .same _ ?_
    unfold makeStale
    dsimp only
    split
    · exact hstale
    · simpa using hstale
  | peerRemoved id p hp =>
    unfold removePeer
    rw [(actOnReport_frame _ _).2.2.2.1]
    exact .removed _
  | _ => exact hsame (by simp)

theorem idsForm_after {own : Nat} {s : State} {view : List Peer} (hids : IdsForm own (viewIds s.view))
    (hbuffer : BufferForm own (received s.line)) (hafter : ViewAfter s view) : IdsForm own (viewIds view) := by
  cases hafter with
  | same _ h => rwa [h]
  | emptied => exact ⟨Nat.zero_le _, .nil, nofun⟩
  | taken n rest update hfront hid =>
    have hown := hbuffer.2 n (by rw [received, hfront.2.1]; exact List.mem_cons_self)
    exact idsForm_takeFrame hid hown (by simpa using hids)
  | removed p => exact idsForm_filter p hids

/-- In UNJOINED view and buffer stay empty. -/
theorem view_of_unjoined {s : State} {view : List Peer} (hunjoined : s.ctrl.station = .unjoined) (hview : s.view = [])
    (hafter : ViewAfter s view) : view = [] := by
  cases hafter with
  | same _ h => simpa [viewIds, hview] using h
  | emptied => rfl
  | taken n rest update hfront => exact absurd hunjoined hfront.1
  | removed p => simp [hview]

theorem buffer_of_unjoined {s : State} {x : List Notice × Nat × Nat} (hunjoined : s.ctrl.station = .unjoined) (hrx : s.line.rx = [])
    (hafter : ReceivedAfter s x) : x.1 = [] := by
  cases hafter with
  | same => exact hrx
  | dropped => simp [hrx]
  | emptied | reset => rfl
  | closed bytes hjoined => simp [joined, hunjoined] at hjoined

/-! ### The four laws -/

/-- The laws of O58 together. -/
def StoresLaws (s : State) : Prop :=
  (s.ctrl.station = .unjoined → s.view = [] ∧ s.line.rx = []) ∧ IdsForm s.ctrl.config.stationId (viewIds s.view) ∧
  BufferForm s.ctrl.config.stationId (received s.line) ∧ HostForm s.host

theorem storesLaws_iff (s : State) : StoresLaws s ↔ ViewLaw s ∧ BufferLaw s ∧ EventLaw s ∧ LogLaw s := by
  simp only [StoresLaws, ViewLaw, BufferLaw, IdsForm, BufferForm, HostForm, received, viewIds, List.length_map, List.mem_map,
    forall_exists_index, and_imp, forall_apply_eq_imp_iff₂]
  tauto

theorem storesLaws_effect {i : Instr} {s t : State} (h : StoresLaws s) (heffect : Effect i s t) : StoresLaws t := by
  obtain ⟨hempty, hids, hbuffer, hhost⟩ := h
  obtain ⟨x, hafter, hhost', hreceived⟩ := storesWith_effect hhost heffect
  have hview := viewAfter_effect heffect
  refine ⟨fun hunjoined => ?_, ?_⟩
  · by_cases hjoined : s.ctrl.station = .unjoined
    · obtain ⟨hview', hrx'⟩ := hempty hjoined
      exact ⟨view_of_unjoined hjoined hview' hview, (congrArg Prod.fst hreceived).trans (buffer_of_unjoined hjoined hrx' hafter)⟩
    · obtain ⟨-, hview', -, hrx', -⟩ := (effect_of_joined hjoined heffect).resolve_left (not_not.mpr hunjoined)
      exact ⟨hview', hrx'⟩
  · have hids' := idsForm_after hids hbuffer hview
    have hbuffer' := bufferForm_after hbuffer hafter
    rw [← hreceived] at hbuffer'
    rcases effect_config_cases heffect with rfl | ⟨items, hjoined, -, rfl⟩ | hsame
    · exact ⟨⟨Nat.zero_le _, .nil, nofun⟩, ⟨⟨Nat.zero_le _, Nat.zero_le _, Nat.zero_le _⟩, nofun⟩, hhost'⟩
    · obtain ⟨hview', hrx'⟩ := hempty hjoined
      refine ⟨?_, ⟨hbuffer'.1, ?_⟩, hhost'⟩
      · simp [IdsForm, viewIds, hview']
      · simp [received, hrx']
    · rw [hsame]
      exact ⟨hids', hbuffer', hhost'⟩

theorem storesLaws_of_sameButAnswers {s t : State} (hsame : SameButAnswers s t) (h : StoresLaws s) : StoresLaws t := by
  obtain ⟨_, _, rfl⟩ := hsame
  exact h

theorem storesLaws_tick {s : State} (h : StoresLaws s) : StoresLaws (tick s) := by
  obtain ⟨hempty, hids, hbuffer, hhost⟩ := h
  have hline : received (tick s).line = received s.line := by
    simp only [tick]
    split <;> rfl
  have hview : viewIds (tick s).view = viewIds s.view := viewIds_map (f := Peer.tick s.ctrl.config) (fun _ => rfl) s.view
  refine ⟨fun hunjoined => ?_, hview ▸ hids, hline ▸ hbuffer, hhost⟩
  obtain ⟨hview', hrx'⟩ := hempty hunjoined
  exact ⟨by simp [tick, hview'], (Prod.mk.inj hline).1.trans hrx'⟩

/-- Settles O58: Host Link, buffer and view each in form through every effect; the own id changes only while view and
buffer are empty. -/
theorem storesKeptWithinBounds : Obligations.StoresKeptWithinBounds := by
  unfold Obligations.StoresKeptWithinBounds
  intro s t hs h
  rw [← storesLaws_iff] at hs ⊢
  refine step_keeps (P := StoresLaws) (fun _ _ hu => hu) (fun _ _ hu => hu) (fun _ => storesLaws_tick) ?_ hs h
  exact exec_keeps (fun _ _ => storesLaws_of_sameButAnswers) (fun _ _ => storesLaws_of_sameButAnswers)
    (fun _ _ _ => storesLaws_effect)

end Sys2Proof.Machine

/-! PROOFS. The elementary changes of a commitment record, and the operations as sequences of them: what every table law is
checked against (R23 to R29, R109 to R123, R157). -/

namespace Sys2Proof.Machine

/-! ### Changes of one record -/

/-- An elementary change of a record other than a freeze and a boundary. `Allocating` stands for what lets the Allocation Unit
change takes and start holds; where `Keyed` holds, a change reaches only the record it was meant for. -/
inductive RecordMove (Allocating Keyed : Prop) (r : CRecord) : CRecord → Prop
  | take (t : Nat) (hallowed : Allocating)
      (hmeant : Keyed → r.award.isSome = true ∧ (r.take ≤ r.cap.getD 0 → t ≤ r.cap.getD 0)) : RecordMove Allocating Keyed r (r.withTake t)
  | startHold (n : Nat) (hallowed : Allocating) : RecordMove Allocating Keyed r { r with hold := some n }
  | stopHold : RecordMove Allocating Keyed r { r with hold := none }
  | countHold : RecordMove Allocating Keyed r r.tick
  | evalPending (b : Bool) (hallowed : b = true → Allocating) : RecordMove Allocating Keyed r { r with evalPending := b }
  | sent (n : Option Nat) : RecordMove Allocating Keyed r { r with lastSent := n }
  | running (f : RunFields → RunFields) : RecordMove Allocating Keyed r { r with run := r.run.map f }
  | applied (band : Nat) (a : Award) : RecordMove Allocating Keyed r (r.withApplied band a)
  | replaced (a : Award) (hmeant : Keyed → r.award.isSome = true) : RecordMove Allocating Keyed r { r with award := some a }
  | withdrawn (q : Reason) : RecordMove Allocating Keyed r (r.withdraw q)

/-- Any number of elementary changes. -/
def RecordMoves (Allocating Keyed : Prop) : CRecord → CRecord → Prop := Relation.ReflTransGen (RecordMove Allocating Keyed)

/-- What each elementary change keeps, a sequence keeps. -/
theorem RecordMoves.keeps {Allocating Keyed : Prop} {L : CRecord → Prop}
    (h : ∀ r x, L r → RecordMove Allocating Keyed r x → L x) {r x : CRecord} (hmoves : RecordMoves Allocating Keyed r x) (hr : L r) :
    L x := by
  induction hmoves with
  | refl => exact hr
  | tail _ hmove ih => exact h _ _ ih hmove

variable {Allocating Keyed : Prop}

/-- A record stays under its key. -/
theorem RecordMove.key {r x : CRecord} (h : RecordMove Allocating Keyed r x) : x.interval = r.interval ∧ x.dir = r.dir := by
  cases h with
  | applied band a => unfold CRecord.withApplied; split <;> exact ⟨rfl, rfl⟩
  | withdrawn q => unfold CRecord.withdraw; dsimp only; split <;> exact ⟨rfl, rfl⟩
  | _ => exact ⟨rfl, rfl⟩

/-- The state of a record stands, but that an award makes an OPEN or CLOSED one AWARDED (R98). -/
theorem RecordMove.state {r x : CRecord} (h : RecordMove Allocating Keyed r x) :
    x.state = r.state ∨ ((r.state = .opened ∨ r.state = .closed) ∧ x.state = .awarded) := by
  cases h with
  | applied band a =>
    unfold CRecord.withApplied
    split
    next h => exact .inr ⟨.inl h, rfl⟩
    next h => exact .inr ⟨.inr h, rfl⟩
    next => exact .inl rfl
    next => exact .inl rfl
  | withdrawn q => unfold CRecord.withdraw; dsimp only; split <;> exact .inl rfl
  | _ => exact .inl rfl

/-! ### Changes of a table -/

/-- A table whose records have each made elementary changes. -/
def TableMoves (Allocating Keyed : Prop) (t u : List CRecord) : Prop := List.Forall₂ (RecordMoves Allocating Keyed) t u

theorem tableMoves_refl (t : List CRecord) : TableMoves Allocating Keyed t t := List.forall₂_same.mpr fun _ _ => .refl

theorem TableMoves.trans {t u v : List CRecord} (h : TableMoves Allocating Keyed t u) (h' : TableMoves Allocating Keyed u v) :
    TableMoves Allocating Keyed t v := by
  induction h generalizing v with
  | nil => exact h'
  | cons hhead _ ih =>
    cases h' with
    | cons hhead' htail' => exact .cons (hhead.trans hhead') (ih htail')

theorem tableMoves_map {f : CRecord → CRecord} {t : List CRecord} (h : ∀ r ∈ t, RecordMoves Allocating Keyed r (f r)) :
    TableMoves Allocating Keyed t (t.map f) :=
  List.forall₂_map_right_iff.mpr (List.forall₂_same.mpr h)

theorem TableMoves.keys {t u : List CRecord} (h : TableMoves Allocating Keyed t u) : recordKeys u = recordKeys t := by
  induction h with
  | nil => rfl
  | @cons r x t u hhead _ ih =>
    have hkey : (x.interval, x.dir) = (r.interval, r.dir) :=
      hhead.keeps (L := fun y => (y.interval, y.dir) = (r.interval, r.dir))
        (fun y z hy hmove => by rw [← hy, hmove.key.1, hmove.key.2]) rfl
    simp only [recordKeys, List.map_cons, hkey] at ih ⊢
    rw [ih]

/-- What every elementary change keeps of a record holds for the whole table. -/
theorem TableMoves.forall {L : CRecord → Prop} (h : ∀ r x, L r → RecordMove Allocating Keyed r x → L x) {t u : List CRecord}
    (hmoves : TableMoves Allocating Keyed t u) (ht : ∀ r ∈ t, L r) : ∀ x ∈ u, L x := by
  induction hmoves with
  | nil => exact fun x hx => absurd hx List.not_mem_nil
  | cons hhead _ ih =>
    obtain ⟨hr, hrest⟩ := List.forall_mem_cons.mp ht
    exact List.forall_mem_cons.mpr ⟨hhead.keeps h hr, ih hrest⟩

theorem tableMoves_updRec {k : Word} {d : Direction} {f : CRecord → CRecord} {t : List CRecord}
    (h : ∀ r ∈ t, r.is k d = true → RecordMoves Allocating Keyed r (f r)) :
    TableMoves Allocating Keyed t (mapRec k d f t) := by
  refine tableMoves_map fun r hr => ?_
  by_cases hkey : r.is k d = true
  · rw [if_pos hkey]
    exact h r hr hkey
  · rw [if_neg hkey]
    exact .refl

/-- In a table whose keys stand once, the record meant is the only one reached. -/
theorem eq_of_findRec {table : List CRecord} (hkeys : (recordKeys table).Nodup) {k : Word} {d : Direction} {r x : CRecord}
    (hr : findRec table k d = some r) (hx : x ∈ table) (hkey : x.is k d = true) : x = r := by
  obtain ⟨rfl, rfl⟩ : x.interval = k ∧ x.dir = d := by simpa [CRecord.is] using hkey
  exact Option.some.inj ((findRec_of_mem hkeys hx).symm.trans hr)

/-! ### The operations of the Allocation Unit -/

/-- The state's table has come from `t` by elementary changes, where the station's being ACTIVE lets the Allocation Unit act. -/
def MovedFrom (Allocating Keyed : Prop) (t : List CRecord) (s : State) : Prop :=
  (isActive s = true → Allocating) ∧ TableMoves Allocating Keyed t s.table

variable {t : List CRecord}

theorem movedFrom_self {s : State} (h : isActive s = true → Allocating) : MovedFrom Allocating Keyed s.table s := ⟨h, tableMoves_refl _⟩

/-- Station state and table are read alone. -/
theorem movedFrom_congr {s u : State} (hctrl : u.ctrl = s.ctrl) (htable : u.table = s.table) (h : MovedFrom Allocating Keyed t s) :
    MovedFrom Allocating Keyed t u := by
  unfold MovedFrom isActive at h ⊢
  rwa [hctrl, htable]

theorem movedFrom_enqueue (k : NoticeKey) (w : Option WithdrawContent) {s : State} (h : MovedFrom Allocating Keyed t s) :
    MovedFrom Allocating Keyed t (enqueue k w s) :=
  movedFrom_congr (by simp) (by simp) h

theorem movedFrom_updRec {k : Word} {d : Direction} {f : CRecord → CRecord} {s : State}
    (hf : ∀ r ∈ s.table, r.is k d = true → RecordMoves Allocating Keyed r (f r)) (h : MovedFrom Allocating Keyed t s) :
    MovedFrom Allocating Keyed t (s.updRec k d f) :=
  ⟨h.1, h.2.trans (tableMoves_updRec hf)⟩

theorem movedFrom_noteTakeChange {k : Word} {d : Direction} {b : Bool} {s : State} (hallowed : Allocating)
    (h : MovedFrom Allocating Keyed t s) : MovedFrom Allocating Keyed t (noteTakeChange k d b s) := by
  have hheld := movedFrom_updRec (k := k) (d := d) (fun r _ _ => .single (.startHold (holdMs s.ctrl.config) hallowed)) h
  unfold noteTakeChange
  dsimp only
  split
  · exact movedFrom_congr (by simp) (by simp) hheld
  · exact movedFrom_congr (by simp) (by simp) hheld

theorem movedFrom_changeTake {k : Word} {d : Direction} {r : CRecord} {n : Nat} {s : State} (hkeyed : Keyed → (recordKeys t).Nodup)
    (hr : findRec s.table k d = some r) (hactive : isActive s = true) (haward : r.award.isSome = true)
    (hcap : r.take ≤ r.cap.getD 0 → n ≤ r.cap.getD 0) (h : MovedFrom Allocating Keyed t s) :
    MovedFrom Allocating Keyed t (changeTake k d n s) := by
  have hallowed := h.1 hactive
  unfold changeTake
  rw [hr]
  dsimp only
  split
  · exact h
  · refine movedFrom_noteTakeChange hallowed (movedFrom_updRec (fun x hx hkey => .single (.take n hallowed fun hk => ?_)) h)
    obtain rfl := eq_of_findRec (h.2.keys ▸ hkeyed hk) hr hx hkey
    exact ⟨haward, hcap⟩

theorem movedFrom_allocation (hkeyed : Keyed → (recordKeys t).Nodup) : AllocationKeeps (MovedFrom Allocating Keyed t) where
  raise _ _ h := movedFrom_congr (by simp) (by simp) h
  entryDue _ _ h := h
  enqueueTake _ _ _ _ _ h := movedFrom_congr (by simp) (by simp) h
  changeTake _ _ _ _ _ hr hactive haward hcap h := movedFrom_changeTake hkeyed hr hactive haward hcap h
  setEvalPending _ _ _ b hb h := movedFrom_updRec (fun _ _ _ => .single (.evalPending b fun htrue => h.1 (hb htrue))) h
  applied _ _ _ _ a _ h := movedFrom_updRec (fun _ _ _ => .single (.applied _ a)) h
  replaced s k d r held a hr hheld h := by
    refine movedFrom_updRec (fun x hx hkey => .single (.replaced a fun hk => ?_)) h
    obtain rfl := eq_of_findRec (h.2.keys ▸ hkeyed hk) hr hx hkey
    simp [hheld]

/-! ### The operations of the other blocks -/

theorem tableMoves_updRunning {s : State} (f : Direction → RunFields → RunFields) :
    TableMoves Allocating Keyed s.table (s.updRunning f).table := by
  refine tableMoves_map fun r _ => ?_
  split
  · exact .single (.running (f r.dir))
  · exact .refl

theorem tableMoves_withdrawProcedure (q : Reason) (sel : CRecord → Bool) (s : State) :
    TableMoves Allocating Keyed s.table (withdrawProcedure q sel s).table := by
  rw [withdrawProcedure_table]
  refine tableMoves_map fun r _ => ?_
  by_cases h : sel r = true
  · rw [if_pos h]
    exact .single (.withdrawn q)
  · rw [if_neg h]
    exact .refl

/-- A record that leaves ACTIVE is withdrawn, its hold stopped and its pending flag clear (R12, R112, R157). -/
theorem recordMoves_depart (q : Reason) (r : CRecord) :
    RecordMoves Allocating Keyed r (CRecord.withdraw { r with hold := none, evalPending := false } q) :=
  ((Relation.ReflTransGen.single .stopHold).tail (.evalPending false nofun)).tail (.withdrawn q)

theorem tableMoves_suspendStation (q : SuspendReason) {s : State} (h : TableMoves Allocating Keyed t s.table) :
    TableMoves Allocating Keyed t (suspendStation q s).table := by
  rw [suspendStation_table]
  exact h.trans (tableMoves_map fun r _ => recordMoves_depart q.toReason r)

theorem tableMoves_requestInActive (q : SuspendReason) {s : State} (h : TableMoves Allocating Keyed t s.table) :
    TableMoves Allocating Keyed t (requestInActive q s).table :=
  requestInActive_keeps (P := fun u => TableMoves Allocating Keyed t u.table) (fun q _ _ => tableMoves_suspendStation q) h

theorem tableMoves_requestSupply {s : State} (h : TableMoves Allocating Keyed t s.table) :
    TableMoves Allocating Keyed t (requestSupply s).table :=
  requestSupply_keeps (P := fun u => TableMoves Allocating Keyed t u.table) (fun q _ _ => tableMoves_suspendStation q) h

theorem tableMoves_enterListening {s : State} (h : TableMoves Allocating Keyed t s.table) :
    TableMoves Allocating Keyed t (enterListening s).table :=
  supplyWhenFiltered_keeps (P := fun u => TableMoves Allocating Keyed t u.table) (fun q _ _ => tableMoves_suspendStation q) h

theorem tableMoves_enterActive (s : State) : TableMoves Allocating Keyed s.table (enterActive s).table := by
  unfold enterActive
  dsimp only
  refine entryRequests_keeps (P := fun u => TableMoves Allocating Keyed s.table u.table) (fun q _ _ => tableMoves_suspendStation q)
    (fun u n hu => by simpa using hu) ?_
  split <;> simpa using tableMoves_refl s.table

/-- The table a departure from ACTIVE leaves. -/
theorem beginLeaving_table (s : State) : (beginLeaving s).table =
    s.table.map fun r => CRecord.withdraw { r with hold := none, evalPending := false } .leave := by
  simp [beginLeaving, leaveActive, stopHolds]

theorem tableMoves_countVerdict (good : Bool) (meanD : Int) (s : State) :
    TableMoves Allocating Keyed s.table (countVerdict good meanD s).table := by
  unfold countVerdict
  exact tableMoves_updRunning _

theorem tableMoves_endMeasurement (s : State) : TableMoves Allocating Keyed s.table (endMeasurement s).table := by
  unfold endMeasurement
  dsimp only
  rw [State.setMon_table]
  exact tableMoves_updRunning (s := accumulateDelivered _ s) _

theorem tableMoves_badVerdict (s : State) : TableMoves Allocating Keyed s.table (badVerdict s).table := by
  unfold badVerdict
  dsimp only
  generalize hu : s.setMon _ = u
  have hself : TableMoves Allocating Keyed s.table u.table := hu ▸ tableMoves_refl s.table
  split
  · simpa using tableMoves_requestInActive .delivery hself
  · simpa using hself

theorem tableMoves_endJudgePeriod (s : State) : TableMoves Allocating Keyed s.table (endJudgePeriod s).table := by
  unfold endJudgePeriod
  dsimp only
  split
  · simpa using tableMoves_countVerdict _ _ s
  · refine TableMoves.trans ?_ (tableMoves_badVerdict _)
    simpa using tableMoves_countVerdict _ _ s

theorem tableMoves_storeAvailability (b : AvailabilityBody) (s : State) :
    TableMoves Allocating Keyed s.table (storeAvailability b s).table := by
  have howner (p q : PledgeEngine) (d : Direction) (u : State) :
      TableMoves Allocating Keyed u.table (ownerWithdrawal p q d u).table := by
    unfold ownerWithdrawal
    split
    · exact tableMoves_withdrawProcedure _ _ u
    · exact tableMoves_refl _
  unfold storeAvailability
  dsimp only
  split
  · exact (howner _ _ _ (storeAvails b s)).trans (howner _ _ _ _)
  · exact tableMoves_refl _

theorem tableMoves_completeRun (s : State) : TableMoves Allocating Keyed s.table (completeRun s).table := by
  unfold completeRun
  split
  · exact tableMoves_refl _
  · split
    · unfold startSending noteSent
      dsimp only
      split
      · exact tableMoves_updRec fun r _ _ => .single (.sent (some r.take))
      · exact tableMoves_refl _
      · exact tableMoves_refl _
      · exact tableMoves_refl _
    · exact tableMoves_refl _

theorem movedFrom_noteLowered (hkeyed : Keyed → (recordKeys t).Nodup) (hallowed : Allocating) (kd : Word × Direction) {s : State}
    (h : MovedFrom Allocating Keyed t s) : MovedFrom Allocating Keyed t (noteLowered s kd) :=
  (movedFrom_allocation hkeyed).triggerEvaluation kd (movedFrom_enqueue _ _ (movedFrom_noteTakeChange hallowed h))

/-! ### What stands beside the table -/

/-- What the table is read against stands: whether the station is joined, the interval number and whether the clock is set,
the gate and the held boundary. A computation in flight may be followed by another, and one of a boundary stays. -/
structure Anchored (s t : State) : Prop where
  station : t.ctrl.station = .unjoined ↔ s.ctrl.station = .unjoined
  current : t.clock.current = s.clock.current
  isSet : t.clock.isSet = s.clock.isSet
  gate : t.ctrl.config.gateLead = s.ctrl.config.gateLead
  held : t.pledge.boundaryPending = s.pledge.boundaryPending
  comp : s.pledge.comp.isSome = true → t.pledge.comp.isSome = true
  ofBoundary : s.pledge.comp.any (·.boundary) = true → t.pledge.comp.any (·.boundary) = true

variable {s : State}

theorem anchored_refl (s : State) : Anchored s s := ⟨Iff.rfl, rfl, rfl, rfl, rfl, id, id⟩

theorem Anchored.trans {u v : State} (h : Anchored s u) (h' : Anchored u v) : Anchored s v :=
  ⟨h'.station.trans h.station, h'.current.trans h.current, h'.isSet.trans h.isSet, h'.gate.trans h.gate, h'.held.trans h.held,
    fun hc => h'.comp (h.comp hc), fun hc => h'.ofBoundary (h.ofBoundary hc)⟩

theorem anchored_of {t : State} (hstation : t.ctrl.station = s.ctrl.station) (hclock : t.clock = s.clock)
    (hconfig : t.ctrl.config = s.ctrl.config) (hheld : t.pledge.boundaryPending = s.pledge.boundaryPending)
    (hcomp : t.pledge.comp = s.pledge.comp) : Anchored s t :=
  ⟨by rw [hstation], by rw [hclock], by rw [hclock], by rw [hconfig], hheld, by simp [hcomp], by simp [hcomp]⟩

/-- Controller, clock and Pledge Engine are read alone. -/
theorem anchored_of_frame {t : State} (hctrl : t.ctrl = s.ctrl) (hclock : t.clock = s.clock) (hpledge : t.pledge = s.pledge) :
    Anchored s t :=
  anchored_of (by rw [hctrl]) hclock (by rw [hctrl]) (by rw [hpledge]) (by rw [hpledge])

theorem anchored_startComputation (b r p : Bool) (hfree : s.pledge.comp = none) : Anchored s (startComputation b r p s) :=
  ⟨by simp, by simp, by simp, by simp, rfl, by simp [hfree], by simp [hfree]⟩

theorem anchored_triggerComputation (r : Bool) (s : State) : Anchored s (triggerComputation r s) := by
  unfold triggerComputation
  split
  · split
    · exact anchored_of rfl rfl rfl rfl rfl
    next hbusy => exact anchored_startComputation _ _ _ (by simpa [busy] using hbusy)
  · exact anchored_refl s

theorem anchored_suspendStation (q : SuspendReason) {u : State} (hstation : u.ctrl.station = .active ∨ u.ctrl.station = .listening)
    (h : Anchored s u) : Anchored s (suspendStation q u) := by
  refine h.trans ⟨?_, by simp, by simp, by simp, by simp, by simp, by simp⟩
  rcases hstation with hstation | hstation <;> simp [hstation]

theorem anchored_requestInActive (q : SuspendReason) {u : State} (h : Anchored s u) : Anchored s (requestInActive q u) :=
  requestInActive_keeps (fun q _ hstation => anchored_suspendStation q hstation) h

theorem anchored_requestSupply {u : State} (h : Anchored s u) : Anchored s (requestSupply u) :=
  requestSupply_keeps (fun q _ hstation => anchored_suspendStation q hstation) h

theorem anchored_enterListening (hjoined : s.ctrl.station ≠ .unjoined) : Anchored s (enterListening s) := by
  refine supplyWhenFiltered_keeps (fun q _ hstation => anchored_suspendStation q hstation) ?_
  exact ⟨by simp [hjoined], rfl, rfl, rfl, rfl, id, id⟩

theorem anchored_enterActive (hstation : s.ctrl.station = .listening) : Anchored s (enterActive s) := by
  have hentered : Anchored s ((s.setCtrl { s.ctrl with station := .active, listening := none }).setEntryDue true) :=
    ⟨by simp [hstation], rfl, rfl, rfl, rfl, id, id⟩
  have hstale : Anchored s (recompute (beginStale ((s.setCtrl { s.ctrl with station := .active, listening := none }).setEntryDue true))) :=
    hentered.trans (anchored_of (by simp) (by simp) (by simp) (by simp) (by simp))
  have hbegun (u : State) : Anchored u (beginJudging u) := anchored_of (by simp) (by simp) (by simp) (by simp) (by simp)
  have hstarted := (hstale.trans (hbegun _)).trans (anchored_triggerComputation false _)
  unfold enterActive
  dsimp only
  refine entryRequests_keeps (fun q _ hstation => anchored_suspendStation q hstation)
    (fun u n hu => hu.trans (anchored_of rfl rfl rfl rfl rfl)) ?_
  split
  · exact hstarted.trans (anchored_triggerComputation false _)
  · exact hstarted

theorem anchored_setMon (m : DeliveryMonitor) (s : State) : Anchored s (s.setMon m) := anchored_of rfl rfl rfl rfl rfl

theorem anchored_endJudgePeriod (s : State) : Anchored s (endJudgePeriod s) := by
  have hcounted (good : Bool) (meanD : Int) : Anchored s (startJudging (countVerdict good meanD s)) :=
    anchored_of (by simp) (by simp) (by simp) (by simp) (by simp)
  have hgood (u : State) : Anchored u (goodVerdict u) := by
    unfold goodVerdict
    split
    · exact anchored_setMon _ u
    · split
      · exact anchored_setMon _ u
      · exact (anchored_setMon _ u).trans (anchored_triggerComputation false _)
  have hbad (u : State) : Anchored u (badVerdict u) := by
    unfold badVerdict
    dsimp only
    split
    · exact (anchored_requestInActive .delivery (anchored_setMon _ u)).trans (anchored_triggerComputation false _)
    · exact (anchored_setMon _ u).trans (anchored_triggerComputation false _)
  unfold endJudgePeriod
  dsimp only
  split
  · exact (hcounted _ _).trans (hgood _)
  · exact (hcounted _ _).trans (hbad _)

theorem anchored_takenSetting (price : Bool) {effect : State → State} (hfree : s.pledge.comp = none)
    (h : Anchored s (effect s)) (hcomp : (effect s).pledge.comp = s.pledge.comp) : Anchored s (takenSetting price effect s) := by
  refine takenSetting_preserves (P := Anchored s) (fun _ hu => hu.trans (anchored_startComputation _ _ _ ?_)) h
  rw [hcomp, hfree]

/-! ### What an effect leaves of the table -/

/-- What lets the Allocation Unit act in a step: the station is ACTIVE, or the write in flight lowers a take (R123). -/
def MayAllocate (s : State) : Prop := isActive s = true ∨ ∃ c ∈ s.pledge.comp, loweredPairs s c ≠ []

/-- What an effect leaves of the table, and of what it is read against. -/
inductive TableAfter (Keyed : Prop) (s t : State) : Prop
  /-- The records after elementary changes. -/
  | moved (hmoves : TableMoves (MayAllocate s) Keyed s.table t.table) (hanchored : Anchored s t)
  /-- Out of the cluster the table stands. -/
  | idle (hbefore : s.ctrl.station = .unjoined) (hafter : t.ctrl.station = .unjoined) (htable : t.table = s.table)
      (hheld : t.pledge.boundaryPending = s.pledge.boundaryPending) (hcomp : t.pledge.comp = s.pledge.comp)
  /-- No record, out of the cluster. -/
  | emptied (hafter : t.ctrl.station = .unjoined) (htable : t.table = []) (hheld : t.pledge.boundaryPending = false)
      (hcomp : t.pledge.comp = none)
  /-- Fresh records, of a JOIN or a rebuild. -/
  | rebuilt (hmoves : TableMoves False Keyed (rebuiltTable s.ctrl.config s.pledge t.clock.current) t.table)
      (hafter : t.ctrl.station ≠ .unjoined) (hset : t.clock.isSet = true) (hconfig : t.ctrl.config = s.ctrl.config)
      (hheld : t.pledge.boundaryPending = false)
  /-- A boundary held for the computation in flight. -/
  | held (hjoined : s.ctrl.station ≠ .unjoined) (hstation : t.ctrl = s.ctrl) (htable : t.table = s.table)
      (hcurrent : t.clock.current = s.clock.current + 1) (hset : t.clock.isSet = s.clock.isSet)
      (hbefore : s.pledge.boundaryPending = false) (hheld : t.pledge.boundaryPending = true)
      (hcomp : t.pledge.comp = s.pledge.comp) (hbusy : s.pledge.comp.isSome = true)
  /-- A boundary performed at once. -/
  | slid (hjoined : s.ctrl.station ≠ .unjoined) (hctrl : t.ctrl = s.ctrl) (htable : t.table = slideTable (s.clock.current + 1) s.table)
      (hcurrent : t.clock.current = s.clock.current + 1) (hset : t.clock.isSet = s.clock.isSet)
      (hbefore : s.pledge.boundaryPending = false) (hfree : s.pledge.comp = none) (hheld : t.pledge.boundaryPending = false)
      (hcomp : t.pledge.comp.any (·.boundary) = true)
  /-- The write of the computation in flight. -/
  | written (c : Computation) (hbusy : s.pledge.comp = some c) (hmoves : TableMoves (MayAllocate s) Keyed (writtenTable s c) t.table)
      (hctrl : t.ctrl = s.ctrl)
      (hcurrent : t.clock.current = s.clock.current) (hset : t.clock.isSet = s.clock.isSet)
      (hbefore : s.pledge.boundaryPending = false) (hheld : t.pledge.boundaryPending = false)
  /-- The write, and a boundary held for it. -/
  | writtenSlid (c : Computation) (hbusy : s.pledge.comp = some c) (u : List CRecord)
      (hmoves : TableMoves (MayAllocate s) Keyed (writtenTable s c) u) (htable : t.table = slideTable s.clock.current u)
      (hctrl : t.ctrl = s.ctrl)
      (hcurrent : t.clock.current = s.clock.current) (hset : t.clock.isSet = s.clock.isSet)
      (hbefore : s.pledge.boundaryPending = true) (hheld : t.pledge.boundaryPending = false)
      (hcomp : t.pledge.comp.any (·.boundary) = true)

theorem TableAfter.ofMovedFrom {t : State} (h : MovedFrom (MayAllocate s) Keyed s.table t) (hanchored : Anchored s t) :
    TableAfter Keyed s t := .moved h.2 hanchored

/-- The table stands, and what it is read against. -/
theorem TableAfter.same {t : State} (htable : t.table = s.table) (hanchored : Anchored s t) : TableAfter Keyed s t :=
  .moved (htable ▸ tableMoves_refl _) hanchored

theorem TableAfter.returned {u : State} : TableAfter Keyed s (returnToUnjoined u) := by
  obtain ⟨htable, -, -, -, -, hcomp, hheld, -, -⟩ := emptyParts_returnToUnjoined u
  exact .emptied (by simp) htable hheld hcomp

/-- Controller, table, Pledge Engine, interval number and whether the clock is set are read alone. -/
theorem tableAfter_congr {t u : State} (hctrl : u.ctrl = t.ctrl) (hcurrent : u.clock.current = t.clock.current)
    (hset : u.clock.isSet = t.clock.isSet) (htable : u.table = t.table) (hpledge : u.pledge = t.pledge)
    (h : TableAfter Keyed s t) : TableAfter Keyed s u := by
  cases h with
  | moved h1 hanchored =>
    obtain ⟨a1, a2, a3, a4, a5, a6, a7⟩ := hanchored
    exact .moved (htable ▸ h1) ⟨hctrl ▸ a1, hcurrent ▸ a2, hset ▸ a3, hctrl ▸ a4, hpledge ▸ a5, hpledge ▸ a6, hpledge ▸ a7⟩
  | idle h1 h2 h3 h4 h5 => exact .idle h1 (hctrl ▸ h2) (htable ▸ h3) (hpledge ▸ h4) (hpledge ▸ h5)
  | emptied h1 h2 h3 h4 => exact .emptied (hctrl ▸ h1) (htable ▸ h2) (hpledge ▸ h3) (hpledge ▸ h4)
  | rebuilt h1 h2 h3 h4 h5 => exact .rebuilt (htable ▸ hcurrent ▸ h1) (hctrl ▸ h2) (hset ▸ h3) (hctrl ▸ h4) (hpledge ▸ h5)
  | held h1 h2 h3 h4 h5 h6 h7 h8 h9 =>
    exact .held h1 (hctrl ▸ h2) (htable ▸ h3) (hcurrent ▸ h4) (hset ▸ h5) h6 (hpledge ▸ h7) (hpledge ▸ h8) h9
  | slid h1 h2 h3 h4 h5 h6 h7 h8 h9 =>
    exact .slid h1 (hctrl ▸ h2) (htable ▸ h3) (hcurrent ▸ h4) (hset ▸ h5) h6 h7 (hpledge ▸ h8) (hpledge ▸ h9)
  | written c h1 h2 h3 h4 h5 h6 h7 =>
    exact .written c h1 (htable ▸ h2) (hctrl ▸ h3) (hcurrent ▸ h4) (hset ▸ h5) h6 (hpledge ▸ h7)
  | writtenSlid c h1 v h2 h3 h4 h5 h6 h7 h8 h9 =>
    exact .writtenSlid c h1 v h2 (htable ▸ h3) (hctrl ▸ h4) (hcurrent ▸ h5) (hset ▸ h6) h7 (hpledge ▸ h8) (hpledge ▸ h9)

theorem performBoundary_table (s : State) : (performBoundary s).table = slideTable s.clock.current s.table := by
  simp [performBoundary]

/-- A boundary, its interval begun. -/
theorem tableAfter_issueBoundary {u : State} (hctrl : u.ctrl = s.ctrl) (htable : u.table = s.table) (hpledge : u.pledge = s.pledge)
    (hcurrent : u.clock.current = s.clock.current + 1) (hset : u.clock.isSet = s.clock.isSet)
    (hbefore : s.pledge.boundaryPending = false) : TableAfter Keyed s (issueBoundary u) := by
  by_cases hjoined : s.ctrl.station = .unjoined
  · have hnot : joined u = false := by simp [joined, hctrl, hjoined]
    have hstation : u.ctrl.station = .unjoined := by rw [hctrl, hjoined]
    exact .idle hjoined (by simpa using hstation) (by simpa [issueBoundary, boundaryAtTable, joined, hstation] using htable)
      (by simp [issueBoundary, boundaryAtTable, joined, hstation, pruneEntries, hpledge])
      (by simp [issueBoundary, boundaryAtTable, joined, hstation, pruneEntries, hpledge])
  · have hstation : u.ctrl.station ≠ .unjoined := by rwa [hctrl]
    cases hcomp : s.pledge.comp with
    | some c =>
      refine .held hjoined (by simp [hctrl]) ?_ (by simpa using hcurrent) (by simpa using hset) hbefore ?_ ?_ (by simp [hcomp])
      · simpa [issueBoundary, boundaryAtTable, joined, busy, hstation, hpledge, hcomp] using htable
      · simp [issueBoundary, boundaryAtTable, joined, busy, hstation, hpledge, hcomp]
      · simp [issueBoundary, boundaryAtTable, joined, busy, hstation, hpledge, hcomp]
    | none =>
      refine .slid hjoined (by simp [hctrl]) ?_ (by simpa using hcurrent) (by simpa using hset) hbefore hcomp ?_ ?_
      · simp [issueBoundary, boundaryAtTable, joined, busy, hstation, hpledge, hcomp, performBoundary_table, htable, hcurrent]
      · simp [issueBoundary, boundaryAtTable, joined, busy, hstation, hpledge, hcomp, startComputation, performBoundary, pruneEntries]
      · simp [issueBoundary, boundaryAtTable, joined, busy, hstation, hpledge, hcomp, startComputation, snapshot]

theorem tableAfter_naturalBoundary (hclock : SetLaw s ∨ naturalBoundary s ≠ nextInterval s)
    (hbefore : s.pledge.boundaryPending = false) : TableAfter Keyed s (naturalBoundary s) := by
  unfold naturalBoundary
  split
  · exact tableAfter_issueBoundary rfl rfl rfl rfl rfl hbefore
  next hset =>
    have hunjoined : s.ctrl.station = .unjoined := by
      by_contra h
      exact hclock.elim (fun hlaw => hset (hlaw h)) fun hne => hne (if_neg hset)
    exact .idle hunjoined hunjoined rfl rfl rfl

theorem tableAfter_performMarkBoundary (m : ForwardMark) (hbefore : s.pledge.boundaryPending = false) :
    TableAfter Keyed s (performMarkBoundary m s) := by
  unfold performMarkBoundary
  dsimp only
  split
  · generalize hu : State.setClock _ _ = u
    have hissued : TableAfter Keyed s (issueBoundary u) := by
      refine tableAfter_issueBoundary ?_ ?_ ?_ ?_ ?_ hbefore <;> exact hu ▸ rfl
    exact tableAfter_congr (t := issueBoundary u) (by simp) rfl rfl (by simp) (by simp) hissued
  · exact tableAfter_issueBoundary rfl rfl rfl rfl rfl hbefore

theorem performRebuild_table (k : Word) (n : Nat) (s : State) :
    (performRebuild k n s).table = if joined s then rebuiltTable s.ctrl.config s.pledge k else s.table := by
  unfold performRebuild
  dsimp only
  split <;> simp [rebuildHorizon, setClockTo]

theorem performRebuild_engine (k : Word) (n : Nat) (s : State) :
    (performRebuild k n s).pledge.boundaryPending = s.pledge.boundaryPending ∧ (performRebuild k n s).pledge.comp = s.pledge.comp := by
  unfold performRebuild
  dsimp only
  split <;> simp [rebuildHorizon, setClockTo, pruneEntries, keepLadders]

theorem tableAfter_performRebuild (k : Word) (n : Nat) (hbefore : s.ctrl.station ≠ .unjoined → s.pledge.boundaryPending = false) :
    TableAfter Keyed s (performRebuild k n s) := by
  obtain ⟨hheld, hcomp⟩ := performRebuild_engine k n s
  have htable := performRebuild_table k n s
  have hclock := performRebuild_clock k n s
  by_cases hjoined : s.ctrl.station = .unjoined
  · exact .idle hjoined (by simpa using hjoined) (by simpa [joined, hjoined] using htable) hheld hcomp
  · refine .rebuilt ?_ (by simpa using hjoined) (by rw [hclock]) (by simp) (hheld.trans (hbefore hjoined))
    rw [htable, hclock, if_pos (by simpa [joined] using hjoined)]
    exact tableMoves_refl _

/-- Of the Pledge Engine, forming ladders changes the ladders alone. -/
theorem formLadders_pledge (pairs : Report) (s : State) : ∃ l, (formLadders pairs s).pledge = { s.pledge with ladders := l } := by
  unfold formLadders
  split
  · refine foldl_preserves (P := fun u => ∃ l, u.pledge = { s.pledge with ladders := l }) (fun u kd hu => ?_) pairs ⟨_, rfl⟩
    obtain ⟨l, hl⟩ := hu
    unfold addLadder
    split
    next r _ => exact ⟨(holdLadder (formLadder u r) u.pledge).ladders, by rw [State.setPledge_pledge, holdLadder, hl]⟩
    next => exact ⟨l, hl⟩
  · exact ⟨_, rfl⟩

/-- The records after the write, with the takes it lowered noted. -/
theorem movedFrom_loweredNoted (hkeyed : Keyed → (recordKeys s.table).Nodup) {c : Computation} (hcomp : s.pledge.comp = some c) :
    MovedFrom (MayAllocate s) Keyed (writtenTable s c)
      ((loweredPairs s c).foldl noteLowered (formLadders (frozenPairs s c) (s.setTable (writtenTable s c)))) := by
  have hkeyed' : Keyed → (recordKeys (writtenTable s c)).Nodup := fun hk => recordKeys_writtenTable s c ▸ hkeyed hk
  have hwritten : MovedFrom (MayAllocate s) Keyed (writtenTable s c)
      (formLadders (frozenPairs s c) (s.setTable (writtenTable s c))) :=
    movedFrom_congr (by simp) (by simp)
      (movedFrom_self (s := s.setTable (writtenTable s c)) fun hactive => Or.inl hactive)
  by_cases hlowered : loweredPairs s c = []
  · rwa [hlowered]
  · exact foldl_preserves (fun _ kd => movedFrom_noteLowered hkeyed' (.inr ⟨c, hcomp, hlowered⟩) kd) _ hwritten

theorem tableAfter_endComputation (hkeyed : Keyed → (recordKeys s.table).Nodup) {c : Computation} (hcomp : s.pledge.comp = some c) :
    TableAfter Keyed s (endComputation c s) := by
  have hkeyed' : Keyed → (recordKeys (writtenTable s c)).Nodup := fun hk => recordKeys_writtenTable s c ▸ hkeyed hk
  have hlowered := movedFrom_loweredNoted hkeyed hcomp
  unfold endComputation
  dsimp only
  generalize hv : pledgeInsert _ _ = v
  have hmoved : MovedFrom (MayAllocate s) Keyed (writtenTable s c) v := hv ▸ movedFrom_congr (by simp) (by simp) hlowered
  have hctrl : v.ctrl = s.ctrl := by rw [← hv]; simp
  have hclock : v.clock = s.clock := by rw [← hv]; simp
  have hpending : v.pledge.boundaryPending = s.pledge.boundaryPending := by
    obtain ⟨l, hl⟩ := formLadders_pledge (frozenPairs s c) (s.setTable (writtenTable s c))
    rw [← hv, (pledgeInsert_frame _ _).2.2.2.1, (foldl_noteLowered_frame _ _).2.2.1, hl]
    rfl
  unfold afterWrite
  dsimp only
  split
  next hheld =>
    exact .writtenSlid c hcomp v.table hmoved.2 (by simp [performBoundary_table, hclock]) (by simp [hctrl]) (by simp [hclock])
      (by simp [hclock]) (hpending ▸ hheld) (by simp [startComputation, performBoundary, pruneEntries])
      (by simp [startComputation, snapshot])
  next hnone =>
    have hbefore : s.pledge.boundaryPending = false := by simpa [hpending] using hnone
    split
    · exact .written c hcomp (by simpa using hmoved.2) (by simp [hctrl]) (by simp [hclock]) (by simp [hclock]) hbefore
        (by simpa [startComputation, pruneEntries] using hpending.trans hbefore)
    · refine .written c hcomp ((movedFrom_allocation hkeyed').lockEnds ?_).2 (by simp [hctrl]) (by simp [hclock]) (by simp [hclock])
        hbefore (by simpa using hpending.trans hbefore)
      exact hmoved

theorem tableAfter_makeStale (hkeyed : Keyed → (recordKeys s.table).Nodup) (id : Nat) (p : Peer) :
    TableAfter Keyed s (makeStale id p s) := by
  have hself : MovedFrom (MayAllocate s) Keyed s.table s := movedFrom_self Or.inl
  have hanchored : Anchored s (makeStale id p s) := anchored_of_frame (by simp) (by simp) (by simp)
  refine .moved ?_ hanchored
  unfold makeStale
  dsimp only
  split
  · exact tableMoves_refl _
  · refine ((movedFrom_allocation hkeyed).actOnReport _ ?_).2
    exact hself

/-- What JOIN leaves of the clock, the configuration and the held boundary. -/
theorem joinStation_anchors (s : State) : (joinStation s).ctrl.station ≠ .unjoined ∧ (joinStation s).clock = s.clock ∧
    (joinStation s).ctrl.config = s.ctrl.config ∧ (joinStation s).pledge.boundaryPending = s.pledge.boundaryPending := by
  have hheld (u : State) : (triggerComputation false u).pledge.boundaryPending = u.pledge.boundaryPending :=
    (anchored_triggerComputation false u).held
  refine joinStation_preserves (P := fun u => u.ctrl.station ≠ .unjoined ∧ u.clock = s.clock ∧ u.ctrl.config = s.ctrl.config ∧
    u.pledge.boundaryPending = s.pledge.boundaryPending) (fun u hu => ?_) ⟨stillJoined_enterListening _, ?_, ?_, ?_⟩
  · simpa [hheld] using hu
  · simp [joinReady]
  · simp [joinReady]
  · simp [joinReady]

/-- A JOIN is accepted out of the cluster, with the clock set. -/
theorem joinRefusal_none (haccepted : joinRefusal s = none) : s.ctrl.station = .unjoined ∧ s.clock.isSet = true := by
  unfold joinRefusal at haccepted
  dsimp only at haccepted
  split_ifs at haccepted with hstation hset
  exact ⟨not_not.mp hstation, by simpa using hset⟩

theorem tableAfter_join (haccepted : joinRefusal s = none) (hidle : s.ctrl.station = .unjoined → s.pledge.boundaryPending = false) :
    TableAfter Keyed s (joinStation s) := by
  obtain ⟨hafter, hclock, hconfig, hheld⟩ := joinStation_anchors s
  obtain ⟨hbefore, hset⟩ := joinRefusal_none haccepted
  refine .rebuilt ?_ hafter (by rw [hclock, hset]) hconfig (hheld.trans (hidle hbefore))
  rw [hclock]
  refine joinStation_preserves (P := fun u => TableMoves False Keyed _ u.table) (fun u hu => by simpa using hu)
    (tableMoves_enterListening ?_)
  simpa [joinReady] using tableMoves_refl _

theorem tableAfter_clearSuspension (hstation : s.ctrl.station = .suspended) : TableAfter Keyed s (clearSuspension s) := by
  have hcleared : Anchored s (clearErrors s) := anchored_of_frame (by simp) (by simp) (by simp)
  obtain ⟨hmoves, hanchored⟩ : TableMoves (MayAllocate s) Keyed s.table (clearSuspension s).table ∧ Anchored s (clearSuspension s) :=
    clearSuspension_preserves (P := fun u => TableMoves (MayAllocate s) Keyed s.table u.table ∧ Anchored s u)
      (fun u hu => ⟨by simpa using hu.1, hu.2.trans (anchored_triggerComputation _ u)⟩)
      ⟨tableMoves_enterListening (by simpa using tableMoves_refl s.table),
        hcleared.trans (anchored_enterListening (by simp [hstation]))⟩
  exact .moved hmoves hanchored

theorem tableAfter_reachStaleLimit : TableAfter Keyed s (reachStaleLimit s) := by
  refine .same (by simp) ?_
  unfold reachStaleLimit
  dsimp only
  generalize hu : s.setCtrl _ = u
  have hcount : Anchored s u := hu ▸ anchored_of rfl rfl rfl rfl rfl
  split
  · exact (hcount.trans (anchored_of (by simp) (by simp) (by simp) (by simp) (by simp))).trans (anchored_triggerComputation _ _)
  · exact hcount

theorem tableAfter_loseFeedback : TableAfter Keyed s (loseFeedback s) := by
  unfold loseFeedback
  generalize hu : stopWindow _ = u
  have htable : u.table = s.table := by rw [← hu]; simp
  have hanchored : Anchored s u := anchored_of_frame (by rw [← hu]; simp) (by rw [← hu]; simp) (by rw [← hu]; simp)
  exact .moved (tableMoves_requestInActive _ (htable ▸ tableMoves_refl _)) (anchored_requestInActive _ hanchored)

theorem comp_eq_none_of_free (hfree : ¬ EngineBusy s) : s.pledge.comp = none := by
  simp only [EngineBusy, not_or] at hfree
  simpa using hfree.1

theorem tableAfter_takenState (b : StateBody) (hfree : ¬ EngineBusy s) : TableAfter Keyed s (takenState b s) := by
  have hstored : Anchored s (storeState b s) := anchored_of (by simp [storeState_ctrl]) (by simp) (by simp) rfl rfl
  refine .same (takenState_keeps (·.table) (by simp) (by simp) (by simp)) ?_
  refine takenState_preserves (P := Anchored s) (fun _ hu => hu.trans (anchored_startComputation _ _ _ ?_))
    (fun u hu => hu.trans (anchored_triggerComputation _ u)) hstored
  exact comp_eq_none_of_free hfree

theorem storeAvailability_pledge (b : AvailabilityBody) (s : State) : (storeAvailability b s).pledge = (storeAvails b s).pledge := by
  unfold storeAvailability
  dsimp only
  split <;> simp

theorem tableAfter_storeAvailability (b : AvailabilityBody) (hfree : ¬ EngineBusy s) :
    TableAfter Keyed s (takenSetting false (storeAvailability b) s) := by
  have hpledge := storeAvailability_pledge b s
  refine .moved (takenSetting_preserves (P := fun u => TableMoves _ _ _ u.table) (fun _ hu => by simpa using hu)
    (tableMoves_storeAvailability b s)) (anchored_takenSetting _ (comp_eq_none_of_free hfree) (anchored_of ?_ ?_ ?_ ?_ ?_) ?_)
  · simp
  · simp
  · simp
  · rw [hpledge]; rfl
  · rw [hpledge]; rfl
  · rw [hpledge]; rfl

theorem tableAfter_endTransmission : TableAfter Keyed s (endTransmission s) := by
  have hline (l : LineInterface) : TableAfter Keyed s (s.setLine l) := .same rfl (anchored_of rfl rfl rfl rfl rfl)
  unfold endTransmission
  split
  · exact hline _
  · dsimp only
    split
    · exact .returned
    · exact hline _

/-- What each effect leaves of the table. A boundary without a set clock in a joined state would leave it where it stands. -/
theorem tableAfter_effect {i : Instr} {t : State} (hkeyed : Keyed → (recordKeys s.table).Nodup) (hclock : SetLaw s ∨ t ≠ nextInterval s)
    (hidle : s.ctrl.station = .unjoined → s.pledge.boundaryPending = false) (heffect : Effect i s t) : TableAfter Keyed s t := by
  have hallocation := movedFrom_allocation (Allocating := MayAllocate s) hkeyed
  have hself : MovedFrom (MayAllocate s) Keyed s.table s := movedFrom_self Or.inl
  have hdropped : MovedFrom (MayAllocate s) Keyed s.table (dropFront s) := movedFrom_self Or.inl
  have hframe {u : State} (hmoved : MovedFrom (MayAllocate s) Keyed s.table u) (hctrl : u.ctrl = s.ctrl) (hclock : u.clock = s.clock)
      (hpledge : u.pledge = s.pledge) : TableAfter Keyed s u := .ofMovedFrom hmoved (anchored_of_frame hctrl hclock hpledge)
  cases heffect with
  | powerOn | restart => exact .emptied rfl rfl rfl rfl
  | configure x hi items hstation =>
    exact .idle hstation (by simpa [storeConfiguration_ctrl] using hstation) (by simp) (by simp) (by simp)
  | join haccepted => exact tableAfter_join haccepted hidle
  | leave => exact .returned
  | leaveSuspended => exact tableAfter_congr (by simp) (by simp) (by simp) (by simp) (by simp) (TableAfter.returned (u := s))
  | beginLeaving hstation =>
    refine .moved (beginLeaving_table s ▸ tableMoves_map fun r _ => recordMoves_depart .leave r) ?_
    exact ⟨by simp [hstation], by simp, by simp, by simp, by simp, by simp, by simp⟩
  | clearSuspend hstation => exact tableAfter_clearSuspension hstation
  | replaceSecond | beginMark | beginRebuild | nextSecond => exact .same rfl ⟨Iff.rfl, rfl, rfl, rfl, rfl, id, id⟩
  | setClock => exact tableAfter_performRebuild _ _ (fun hjoined => absurd ‹_› hjoined)
  | rebuild w hw hfree => exact tableAfter_performRebuild _ _ fun _ => by simpa [engineFree] using (Bool.and_eq_true_iff.mp hfree).2
  | setState x hi b hfree => exact tableAfter_takenState b hfree
  | setBaseline b hfree =>
    exact .same (takenSetting_keeps (·.table) (by simp) (by simp))
      (anchored_takenSetting _ (comp_eq_none_of_free hfree) (anchored_of (by simp) (by simp) (by simp) rfl rfl) rfl)
  | setPrice b hfree =>
    exact .same (takenSetting_keeps (·.table) (by simp) (by simp))
      (anchored_takenSetting _ (comp_eq_none_of_free hfree) (anchored_of (by simp) (by simp) (by simp) rfl rfl) rfl)
  | setAvailability b hfree => exact tableAfter_storeAvailability b hfree
  | inject => exact hframe (movedFrom_enqueue _ _ (hallocation.acceptAward hself)) (by simp) (by simp) (by simp)
  | boundary hoccurs => exact tableAfter_naturalBoundary hclock (by simpa [boundaryCanOccur] using (Bool.and_eq_true_iff.mp hoccurs).2)
  | markBoundary m hm hfree =>
    exact tableAfter_performMarkBoundary m (by simpa [engineFree] using (Bool.and_eq_true_iff.mp hfree).2)
  | endComputation c hcomp => exact tableAfter_endComputation hkeyed hcomp
  | refresh =>
    have hrestarted : Anchored s (restartRefresh s) := anchored_of (by simp) (by simp) (by simp) rfl rfl
    exact .same (by simp) (hrestarted.trans (anchored_triggerComputation true _))
  | enterActive hstation => exact .moved (tableMoves_enterActive s) (anchored_enterActive hstation)
  | staleLimit => exact tableAfter_reachStaleLimit
  | warn | unwarn => exact .same rfl (anchored_of rfl rfl rfl rfl rfl)
  | filtered =>
    exact .moved (tableMoves_requestSupply (s := s.setCtrl _) (tableMoves_refl _))
      (anchored_requestSupply (anchored_of rfl rfl rfl rfl rfl))
  | loseFeedback => exact tableAfter_loseFeedback
  | endMeasurement => exact .moved (tableMoves_endMeasurement s) (anchored_of (by simp) (by simp) (by simp) rfl rfl)
  | endJudgePeriod => exact .moved (tableMoves_endJudgePeriod s) (anchored_endJudgePeriod s)
  | completeRun => exact .moved (tableMoves_completeRun s) (anchored_of_frame (by simp) (by simp) (by simp))
  | endTransmission => exact tableAfter_endTransmission
  | frame n rest update =>
    exact hframe (hallocation.takeFrame hdropped fun _ _ _ => ⟨hdropped, fun _ _ => hdropped⟩) (by simp) (by simp) (by simp)
  | award n rest k d a =>
    exact hframe (hallocation.acceptAward (hallocation.takeFrame hdropped fun _ _ _ => ⟨hdropped, fun _ _ => hdropped⟩))
      (by simp) (by simp) (by simp)
  | peerStale id p => exact tableAfter_makeStale hkeyed id p
  | peerRemoved id p => exact hframe (hallocation.actOnReport _ hself) (by simp) (by simp) (by simp)
  | holdExpiry k d r =>
    exact hframe (hallocation.expireHold (movedFrom_updRec (fun _ _ _ => .single .stopHold) hself)) (by simp) (by simp) (by simp)
  | _ => exact .same (by simp) (anchored_of_frame (by simp) (by simp) (by simp))

end Sys2Proof.Machine

/-! PROOFS. Every step keeps the Commitment Table's laws (R2, R5, R22 to R26, R29, R30, R112). -/

namespace Sys2Proof.Machine

variable {Allocating : Prop}

/-! ### The fields of a record's state -/

theorem recordFields_withApplied {r : CRecord} (band : Nat) (a : Award) (h : RecordFields r) : RecordFields (r.withApplied band a) := by
  obtain ⟨hlive, hfrozen, hband, hcap, haward, hawarded, hrun⟩ := h
  unfold CRecord.withApplied
  split
  next hstate =>
    have hnone : r.run = none := by simpa [hstate] using hrun
    simp [RecordFields, CRecord.freeze, hnone]
  next hstate =>
    simp_all [RecordFields]
  next hstate => simp_all [RecordFields]
  next hstate => simp_all [RecordFields]

theorem recordFields_withdraw {r : CRecord} (q : Reason) (h : RecordFields r) : RecordFields (r.withdraw q) := by
  obtain ⟨hlive, hfrozen, hband, hcap, haward, hawarded, hrun⟩ := h
  unfold CRecord.withdraw
  dsimp only
  split
  next hstate => simp_all [RecordFields]
  next hstate => simp_all [RecordFields, CRecord.withTake]

/-- Every elementary change keeps the fields of the record's state. -/
theorem recordFields_move {r x : CRecord} (h : RecordFields r) (hmove : RecordMove Allocating True r x) : RecordFields x := by
  obtain ⟨hlive, hfrozen, hband, hcap, haward, hawarded, hrun⟩ := id h
  cases hmove with
  | take => exact ⟨hlive, hfrozen, hband, hcap, haward, hawarded, by simpa [CRecord.withTake] using hrun⟩
  | running f => exact ⟨hlive, hfrozen, hband, hcap, haward, hawarded, by simpa using hrun⟩
  | applied band a => exact recordFields_withApplied band a h
  | replaced a hmeant => exact ⟨hlive, hfrozen, hband, hcap, fun _ => haward (hmeant trivial), fun _ => rfl, hrun⟩
  | withdrawn q => exact recordFields_withdraw q h
  | _ => exact h

theorem recordFields_freeze {r : CRecord} (pledge band : Nat) (h : RecordFields r) (hopen : r.state = .opened) :
    RecordFields (r.freeze .closed pledge band) := by
  obtain ⟨-, -, -, -, haward, -, hrun⟩ := h
  have hnone : r.award = none := by simpa [hopen] using haward
  have hstill : r.run = none := by simpa [hopen] using hrun
  simp [RecordFields, CRecord.freeze, hnone, hstill]

theorem recordFields_live {r : CRecord} (fresh : Nat) (h : RecordFields r) (hopen : r.state = .opened) :
    RecordFields { r with live := some fresh } := by
  obtain ⟨-, hfrozen, hband, hcap, haward, hawarded, hrun⟩ := h
  exact ⟨by simp [hopen], hfrozen, hband, hcap, haward, hawarded, hrun⟩

theorem recordFields_lowerCap {r : CRecord} (fresh : Nat) (h : RecordFields r) (hcommitted : r.state ≠ .opened) :
    RecordFields (r.lowerCap fresh) := by
  obtain ⟨hlive, hfrozen, hband, -, haward, hawarded, hrun⟩ := h
  unfold CRecord.lowerCap
  dsimp only
  split
  · exact ⟨hlive, hfrozen, hband, by simp [hcommitted], haward, hawarded, by simpa [CRecord.withTake] using hrun⟩
  · exact ⟨hlive, hfrozen, hband, by simp [hcommitted], haward, hawarded, hrun⟩

/-! ### The single write -/

/-- The fresh pledge a write takes for a record: 0 outside ACTIVE (R50). -/
def writtenFresh (s : State) (c : Computation) (r : CRecord) : Nat :=
  if isActive s then
    freshPledge s.ctrl.config s.pledge c (slotOf (tableFirst s) r.interval) r.dir
      (c.openRecs.any fun kd => kd.1 == r.interval && kd.2 == r.dir)
  else 0

/-- The band a write freezes a record at. -/
def snapshotBand (c : Computation) : Direction → Nat
  | .raise => c.raiseBand
  | .lower => c.lowerBand

/-- An OPEN record at the gate of a boundary computation is frozen. -/
theorem writtenRecord_frozen {s : State} {c : Computation} {r : CRecord} (hopen : r.state = .opened)
    (hgate : c.boundary = true ∧ 1 ≤ slotOf (tableFirst s) r.interval ∧ slotOf (tableFirst s) r.interval ≤ s.ctrl.config.gateLead) :
    writtenRecord s c r = r.freeze .closed (writtenFresh s c r) (snapshotBand c r.dir) := by
  unfold writtenRecord
  dsimp only
  rw [if_pos hopen, if_pos hgate]
  rfl

/-- Another OPEN record takes the fresh pledge as its live pledge. -/
theorem writtenRecord_live {s : State} {c : Computation} {r : CRecord} (hopen : r.state = .opened)
    (hgate : ¬ (c.boundary = true ∧ 1 ≤ slotOf (tableFirst s) r.interval ∧
      slotOf (tableFirst s) r.interval ≤ s.ctrl.config.gateLead)) :
    writtenRecord s c r = { r with live := some (writtenFresh s c r) } := by
  unfold writtenRecord
  dsimp only
  rw [if_pos hopen, if_neg hgate]
  rfl

/-- Of a committed record the write lowers the cap. -/
theorem writtenRecord_committed {s : State} {c : Computation} {r : CRecord} (hcommitted : r.state ≠ .opened) :
    writtenRecord s c r = r.lowerCap (writtenFresh s c r) := by
  unfold writtenRecord
  dsimp only
  rw [if_neg hcommitted]
  rfl

/-- What the write makes of a record, by the three cases. -/
theorem writtenRecord_preserves {s : State} {c : Computation} {r : CRecord} {L : CRecord → Prop}
    (hfrozen : r.state = .opened → L (r.freeze .closed (writtenFresh s c r) (snapshotBand c r.dir)))
    (hlive : r.state = .opened → L { r with live := some (writtenFresh s c r) })
    (hcommitted : r.state ≠ .opened → L (r.lowerCap (writtenFresh s c r))) : L (writtenRecord s c r) := by
  by_cases hopen : r.state = .opened
  · by_cases hgate : c.boundary = true ∧ 1 ≤ slotOf (tableFirst s) r.interval ∧
        slotOf (tableFirst s) r.interval ≤ s.ctrl.config.gateLead
    · exact writtenRecord_frozen hopen hgate ▸ hfrozen hopen
    · exact writtenRecord_live hopen hgate ▸ hlive hopen
  · exact writtenRecord_committed hopen ▸ hcommitted hopen

theorem recordFields_written {s : State} {c : Computation} {r : CRecord} (h : RecordFields r) : RecordFields (writtenRecord s c r) :=
  writtenRecord_preserves (fun hopen => recordFields_freeze _ _ h hopen) (fun hopen => recordFields_live _ h hopen)
    (fun hcommitted => recordFields_lowerCap _ h hcommitted)

theorem recordFields_toRunning {r : CRecord} (h : RecordFields r) (hcommitted : r.state ≠ .opened) : RecordFields r.toRunning := by
  obtain ⟨hlive, hfrozen, hband, hcap, haward, hawarded, hrun⟩ := h
  simp_all [RecordFields, CRecord.toRunning]

theorem recordFields_openRecord (k : Word) (d : Direction) : RecordFields (openRecord k d) := by
  simp [RecordFields, openRecord]

theorem recordFields_rebuiltRecord (c : StationConfig) (p : PledgeEngine) (first : Word) (j : Nat) (d : Direction) :
    RecordFields (rebuiltRecord c p first j d) := by
  unfold rebuiltRecord
  split
  · by_cases hj : j = 0 <;> simp [RecordFields, zeroRecord, openRecord, hj]
  · exact recordFields_openRecord _ d

/-! ### Tables by their records -/

theorem mem_rebuiltTable {c : StationConfig} {p : PledgeEngine} {first : Word} {r : CRecord} (h : r ∈ rebuiltTable c p first) :
    ∃ j d, j < 8 ∧ r = rebuiltRecord c p first j d := by
  simp only [rebuiltTable, List.mem_flatMap, List.mem_range, List.mem_cons, List.not_mem_nil, or_false] at h
  obtain ⟨j, hj, hr⟩ := h
  rcases hr with rfl | rfl
  · exact ⟨j, .raise, hj, rfl⟩
  · exact ⟨j, .lower, hj, rfl⟩

/-- The records a boundary leaves: those of the interval begun, RUNNING; those of later ones; and the two of slot 7. -/
theorem mem_slideTable {c : Word} {table : List CRecord} {x : CRecord} (h : x ∈ slideTable c table) :
    (∃ r ∈ table, r.interval ≠ c - 1 ∧ r.interval = c ∧ x = r.toRunning) ∨
    (x ∈ table ∧ x.interval ≠ c - 1 ∧ x.interval ≠ c) ∨ ∃ d, x = openRecord (atSlot c 7) d := by
  rcases List.mem_append.mp h with hold | hnew
  · obtain ⟨r, hr, rfl⟩ := List.mem_map.mp hold
    obtain ⟨hmem, hother⟩ := List.mem_filter.mp hr
    have hne : r.interval ≠ c - 1 := by simpa using hother
    split
    next hc => exact .inl ⟨r, hmem, hne, hc, rfl⟩
    next hc => exact .inr (.inl ⟨hmem, hne, hc⟩)
  · rcases List.mem_cons.mp hnew with rfl | hnew
    · exact .inr (.inr ⟨.raise, rfl⟩)
    · exact .inr (.inr ⟨.lower, List.mem_singleton.mp hnew⟩)

/-- What a boundary keeps of each record: shown for a record that becomes RUNNING, committed before; for one that stands; and
for the fresh ones. -/
theorem forall_slideTable {L : CRecord → Prop} {c : Word} {table : List CRecord} (htable : ∀ r ∈ table, L r)
    (hcommitted : ∀ r ∈ table, r.interval = c → r.state ≠ .opened)
    (hrunning : ∀ r, L r → r.state ≠ .opened → L r.toRunning) (hopen : ∀ d, L (openRecord (atSlot c 7) d)) :
    ∀ x ∈ slideTable c table, L x := by
  intro x hx
  rcases mem_slideTable hx with ⟨r, hr, -, hc, rfl⟩ | ⟨hmem, -, -⟩ | ⟨d, rfl⟩
  · exact hrunning r (htable r hr) (hcommitted r hr hc)
  · exact htable x hmem
  · exact hopen d

/-! ### Slots -/

/-- With the next interval begun, a later interval stands one slot lower. -/
theorem slotOf_next {c k : Word} (h : k ≠ c - 1) : slotOf c k + 1 = slotOf (c - 1) k := by
  unfold slotOf
  bv_omega

theorem slotOf_eq_zero_iff (c k : Word) : slotOf c k = 0 ↔ k = c := by
  unfold slotOf
  bv_omega

/-- The horizon that begins one interval later. -/
theorem horizonPairs_next (c : Word) : (horizonPairs (c - 1)).filter (fun kd => kd.1 != c - 1) ++
    [(atSlot c 7, .raise), (atSlot c 7, .lower)] = horizonPairs c := by
  have hzero : atSlot (c - 1) 0 = c - 1 := by simp [atSlot]
  have hnext (j : Nat) : atSlot (c - 1) (j + 1) = atSlot c j := by
    unfold atSlot
    rw [BitVec.ofNat_add]
    bv_omega
  have hkept (j : Nat) (hj : j < 7) : (atSlot c j != c - 1) = true := by
    have hslot := slotOf_atSlot (c - 1) (j + 1) (by omega)
    rw [hnext] at hslot
    refine bne_iff_ne.mpr fun heq => ?_
    rw [heq, (slotOf_eq_zero_iff _ _).mpr rfl] at hslot
    omega
  have hsplit : horizonPairs (c - 1) = [(c - 1, .raise), (c - 1, .lower)] ++
      (List.range 7).flatMap fun j => [(atSlot c j, .raise), (atSlot c j, .lower)] := by
    unfold horizonPairs
    rw [List.range_succ_eq_map, List.flatMap_cons, List.flatMap_map, hzero]
    simp only [hnext]
  have hlater : ((List.range 7).flatMap fun j => [(atSlot c j, Direction.raise), (atSlot c j, .lower)]).filter
      (fun kd => kd.1 != c - 1) = (List.range 7).flatMap fun j => [(atSlot c j, .raise), (atSlot c j, .lower)] := by
    refine List.filter_eq_self.mpr fun kd hkd => ?_
    simp only [List.mem_flatMap, List.mem_range, List.mem_cons, List.not_mem_nil, or_false] at hkd
    obtain ⟨j, hj, rfl | rfl⟩ := hkd
    · exact hkept j hj
    · exact hkept j hj
  rw [hsplit, List.filter_append, hlater]
  unfold horizonPairs
  rw [List.range_succ (n := 7), List.flatMap_append]
  simp

/-! ### The slots of the states -/

/-- The slot of a record in its state, against the first interval and the gate; `Awaiting` stands for a boundary computation
in flight (Table 2-7). -/
def GateAt (first : Word) (gate : Nat) (Awaiting : Prop) (r : CRecord) : Prop :=
  (r.state = .running ↔ slotOf first r.interval = 0) ∧ (r.state = .closed → slotOf first r.interval ≤ gate) ∧
  (r.state = .opened → gate < slotOf first r.interval ∨ (gate = slotOf first r.interval ∧ Awaiting))

theorem gateLaw_iff (s : State) : GateLaw s ↔
    ∀ r ∈ s.table, GateAt (tableFirst s) s.ctrl.config.gateLead (s.pledge.comp.any (·.boundary) = true) r := Iff.rfl

variable {first : Word} {gate : Nat} {Awaiting : Prop}

theorem gateAt_move {Keyed : Prop} {r x : CRecord} (h : GateAt first gate Awaiting r) (hmove : RecordMove Allocating Keyed r x) :
    GateAt first gate Awaiting x := by
  obtain ⟨hrunning, hclosed, hopen⟩ := h
  obtain ⟨hinterval, -⟩ := hmove.key
  unfold GateAt
  rw [hinterval]
  rcases hmove.state with hstate | ⟨hbefore, hstate⟩
  · rw [hstate]
    exact ⟨hrunning, hclosed, hopen⟩
  · have hnot : ¬ slotOf first r.interval = 0 := fun hzero => by
      have hrun := hrunning.mpr hzero
      rcases hbefore with hbefore | hbefore <;> simp [hbefore] at hrun
    simp [hstate, hnot]

theorem gateAt_mono {Awaiting' : Prop} {r : CRecord} (himp : Awaiting → Awaiting') (h : GateAt first gate Awaiting r) :
    GateAt first gate Awaiting' r :=
  ⟨h.1, h.2.1, fun hopen => (h.2.2 hopen).imp_right fun heq => ⟨heq.1, himp heq.2⟩⟩

theorem lowerCap_state (r : CRecord) (fresh : Nat) : (r.lowerCap fresh).state = r.state := by
  unfold CRecord.lowerCap
  dsimp only
  split <;> rfl

/-- The write leaves OPEN only what lies above the gate. -/
theorem gateAt_written {s : State} {c : Computation} {r : CRecord} (hbusy : s.pledge.comp = some c)
    (h : GateAt (tableFirst s) s.ctrl.config.gateLead (s.pledge.comp.any (·.boundary) = true) r) (hgate : 1 ≤ s.ctrl.config.gateLead) :
    GateAt (tableFirst s) s.ctrl.config.gateLead False (writtenRecord s c r) := by
  obtain ⟨hrunning, hclosed, hopen⟩ := h
  rw [hbusy, Option.any_some] at hopen
  by_cases hstate : r.state = .opened
  · by_cases hfreeze : c.boundary = true ∧ 1 ≤ slotOf (tableFirst s) r.interval ∧
        slotOf (tableFirst s) r.interval ≤ s.ctrl.config.gateLead
    · rw [writtenRecord_frozen hstate hfreeze]
      refine ⟨?_, fun _ => hfreeze.2.2, fun hopen => by cases hopen⟩
      have hslot : ¬ slotOf (tableFirst s) r.interval = 0 := by omega
      simp [CRecord.freeze, hslot]
    · rw [writtenRecord_live hstate hfreeze]
      refine ⟨hrunning, hclosed, fun _ => .inl ?_⟩
      dsimp only
      rcases hopen hstate with habove | ⟨hat, hboundary⟩
      · exact habove
      · exact absurd ⟨hboundary, by omega, by omega⟩ hfreeze
  · rw [writtenRecord_committed hstate]
    have hinterval : (r.lowerCap (writtenFresh s c r)).interval = r.interval := by simp
    refine ⟨by rw [lowerCap_state, hinterval]; exact hrunning, ?_, ?_⟩
    · rw [lowerCap_state, hinterval]
      exact hclosed
    · rw [lowerCap_state]
      exact fun hopen => absurd hopen hstate

/-- At a boundary every record moves one slot down; what lay above the gate lies at it at most. -/
theorem gateAt_slide {c : Word} {table : List CRecord} (hgate : gate < 7) (htable : ∀ r ∈ table, GateAt (c - 1) gate False r) :
    ∀ x ∈ slideTable c table, GateAt c gate True x := by
  intro x hx
  rcases mem_slideTable hx with ⟨r, hr, -, rfl, rfl⟩ | ⟨hmem, hne, hlater⟩ | ⟨d, rfl⟩
  · have hslot : slotOf r.interval r.interval = 0 := (slotOf_eq_zero_iff _ _).mpr rfl
    simp [GateAt, CRecord.toRunning, hslot]
  · obtain ⟨hrunning, hclosed, hopen⟩ := htable x hmem
    have hslot := slotOf_next hne
    have hnonzero : slotOf c x.interval ≠ 0 := fun hzero => hlater ((slotOf_eq_zero_iff _ _).mp hzero)
    refine ⟨?_, fun hstate => ?_, fun hstate => ?_⟩
    · rw [hrunning]
      exact ⟨fun hzero => by omega, fun hzero => absurd hzero hnonzero⟩
    · have := hclosed hstate
      omega
    · rcases hopen hstate with habove | ⟨-, hfalse⟩
      · rcases Nat.lt_or_ge gate (slotOf c x.interval) with hlt | hge
        · exact .inl hlt
        · exact .inr ⟨by omega, trivial⟩
      · exact hfalse.elim
  · have hslot : slotOf c (atSlot c 7) = 7 := slotOf_atSlot c 7 (by decide)
    simp [GateAt, openRecord, hslot, hgate]

theorem gateAt_rebuiltRecord (c : StationConfig) (p : PledgeEngine) (first : Word) {j : Nat} (hj : j < 8) (d : Direction) :
    GateAt first c.gateLead False (rebuiltRecord c p first j d) := by
  have hslot : slotOf first (atSlot first j) = j := slotOf_atSlot first j (by omega)
  unfold rebuiltRecord
  split
  next hlow => by_cases hzero : j = 0 <;> simp [GateAt, zeroRecord, openRecord, hslot, hzero, hlow]
  next hhigh =>
    have hnonzero : j ≠ 0 := by omega
    simpa [GateAt, openRecord, hslot, hnonzero] using hhigh

/-! ### The laws of the table together -/

/-- Keys in a joined state, none else. -/
theorem recordKeys_nodup {s : State} (h : HorizonLaw s) : (recordKeys s.table).Nodup := by
  unfold HorizonLaw at h
  split_ifs at h
  · simp [h.1, recordKeys]
  · exact h ▸ horizonPairs_nodup _

theorem horizonLaw_of_joined {s : State} (hjoined : s.ctrl.station ≠ .unjoined) :
    HorizonLaw s ↔ recordKeys s.table = horizonPairs (tableFirst s) := by
  simp [HorizonLaw, hjoined]

theorem horizonLaw_of_unjoined {s : State} (hunjoined : s.ctrl.station = .unjoined) :
    HorizonLaw s ↔ s.table = [] ∧ s.pledge.boundaryPending = false := by
  simp [HorizonLaw, hunjoined]

theorem tableFirst_of_anchored {s t : State} (h : Anchored s t) : tableFirst t = tableFirst s := by
  simp [tableFirst, h.held, h.current]

theorem tableFirst_free {s : State} (h : s.pledge.boundaryPending = false) : tableFirst s = s.clock.current := by
  simp [tableFirst, h]

theorem tableFirst_held {s : State} (h : s.pledge.boundaryPending = true) : tableFirst s = s.clock.current - 1 := by
  simp [tableFirst, h]

/-- A boundary's table, by the table before it: the keys of the next horizon, each record at its slot and with its fields. -/
theorem slideTable_laws {c : Word} {gate : Nat} {u : List CRecord} (hgate1 : 1 ≤ gate) (hgate4 : gate ≤ 4)
    (hkeys : recordKeys u = horizonPairs (c - 1)) (hslots : ∀ r ∈ u, GateAt (c - 1) gate False r) (hfields : ∀ r ∈ u, RecordFields r) :
    recordKeys (slideTable c u) = horizonPairs c ∧ (∀ x ∈ slideTable c u, GateAt c gate True x) ∧
    ∀ x ∈ slideTable c u, RecordFields x := by
  refine ⟨by rw [recordKeys_slideTable, hkeys, horizonPairs_next], gateAt_slide (by omega) hslots, ?_⟩
  refine forall_slideTable hfields (fun r hr hc hopen => ?_) (fun r => recordFields_toRunning) fun d => recordFields_openRecord _ d
  have hslot : slotOf (c - 1) r.interval = 1 := by
    have hne : r.interval ≠ c - 1 := by rw [hc]; bv_omega
    have hnext := slotOf_next hne
    have hzero := (slotOf_eq_zero_iff c r.interval).mpr hc
    omega
  rcases (hslots r hr).2.2 hopen with habove | ⟨-, hfalse⟩
  · omega
  · exact hfalse

theorem tableLaw_moved {s t : State} (h : TableLaw s) {A : Prop} (hmoves : TableMoves A True s.table t.table)
    (hanchored : Anchored s t) : TableLaw t := by
  obtain ⟨hset, hhorizon, hheld, hgate, hfields⟩ := h
  have hfirst := tableFirst_of_anchored hanchored
  refine ⟨fun hjoined => ?_, ?_, fun hpending => ?_, ?_, hmoves.forall (fun r x => recordFields_move) hfields⟩
  · exact hanchored.isSet.trans (hset (mt hanchored.station.mpr hjoined))
  · by_cases hunjoined : s.ctrl.station = .unjoined
    · obtain ⟨htable, hpending⟩ := (horizonLaw_of_unjoined hunjoined).mp hhorizon
      refine (horizonLaw_of_unjoined (hanchored.station.mpr hunjoined)).mpr ⟨?_, hanchored.held.trans hpending⟩
      rw [htable] at hmoves
      exact List.forall₂_nil_left_iff.mp hmoves
    · rw [horizonLaw_of_joined hunjoined] at hhorizon
      rw [horizonLaw_of_joined (mt hanchored.station.mp hunjoined), hmoves.keys, hhorizon, hfirst]
  · exact hanchored.comp (hheld (hanchored.held ▸ hpending))
  · rw [gateLaw_iff, hfirst, hanchored.gate]
    exact hmoves.forall (fun r x => gateAt_move) fun r hr => gateAt_mono hanchored.ofBoundary (hgate r hr)

theorem tableLaw_rebuilt {s t : State} (hmoves : TableMoves False True (rebuiltTable s.ctrl.config s.pledge t.clock.current) t.table)
    (hafter : t.ctrl.station ≠ .unjoined) (hset : t.clock.isSet = true) (hconfig : t.ctrl.config = s.ctrl.config)
    (hheld : t.pledge.boundaryPending = false) : TableLaw t := by
  have hfirst := tableFirst_free hheld
  refine ⟨fun _ => hset, ?_, fun hpending => ?_, ?_, hmoves.forall (fun r x => recordFields_move) fun r hr => ?_⟩
  · rw [horizonLaw_of_joined hafter, hmoves.keys, recordKeys_rebuiltTable, hfirst]
  · simp [hheld] at hpending
  · rw [gateLaw_iff, hfirst, hconfig]
    refine hmoves.forall (fun r x => gateAt_move) fun r hr => gateAt_mono False.elim ?_
    obtain ⟨j, d, hj, rfl⟩ := mem_rebuiltTable hr
    exact gateAt_rebuiltRecord _ _ _ hj d
  · obtain ⟨j, d, -, rfl⟩ := mem_rebuiltTable hr
    exact recordFields_rebuiltRecord _ _ _ j d

/-- The records after the write: their keys, each at its slot, OPEN only above the gate, and with its fields. -/
theorem writtenTable_laws {s : State} {c : Computation} {u : List CRecord} {A : Prop} (hgate1 : 1 ≤ s.ctrl.config.gateLead)
    (h : TableLaw s) (hbusy : s.pledge.comp = some c) (hmoves : TableMoves A True (writtenTable s c) u) :
    recordKeys u = recordKeys s.table ∧ (∀ r ∈ u, GateAt (tableFirst s) s.ctrl.config.gateLead False r) ∧ ∀ r ∈ u, RecordFields r := by
  obtain ⟨-, -, -, hgate, hfields⟩ := h
  refine ⟨hmoves.keys.trans (recordKeys_writtenTable s c), hmoves.forall (fun r x => gateAt_move) fun x hx => ?_,
    hmoves.forall (fun r x => recordFields_move) fun x hx => ?_⟩
  · obtain ⟨r, hr, rfl⟩ := List.mem_map.mp hx
    exact gateAt_written hbusy (hgate r hr) hgate1
  · obtain ⟨r, hr, rfl⟩ := List.mem_map.mp hx
    exact recordFields_written (hfields r hr)

theorem tableLaw_after {s t : State} (hconfig : ConfigForm s.ctrl.config) (h : TableLaw s) (hafter : TableAfter True s t) : TableLaw t := by
  obtain ⟨hset, hhorizon, hheld, hgate, hfields⟩ := id h
  obtain ⟨-, ⟨hgate1, hgate4⟩, -⟩ := hconfig
  cases hafter with
  | moved hmoves hanchored => exact tableLaw_moved h hmoves hanchored
  | idle hbefore hafter htable hheld' hcomp =>
    obtain ⟨hnone, hpending⟩ := (horizonLaw_of_unjoined hbefore).mp hhorizon
    refine ⟨fun hjoined => absurd hafter hjoined, (horizonLaw_of_unjoined hafter).mpr ⟨htable.trans hnone, hheld'.trans hpending⟩,
      fun hp => ?_, ?_, ?_⟩
    · rw [hheld', hpending] at hp
      cases hp
    · simp [GateLaw, htable, hnone]
    · simp [FieldsLaw, htable, hnone]
  | emptied hafter htable hheld' hcomp =>
    refine ⟨fun hjoined => absurd hafter hjoined, (horizonLaw_of_unjoined hafter).mpr ⟨htable, hheld'⟩, fun hp => ?_, ?_, ?_⟩
    · rw [hheld'] at hp
      cases hp
    · simp [GateLaw, htable]
    · simp [FieldsLaw, htable]
  | rebuilt hmoves hafter hset' hconfig hheld' => exact tableLaw_rebuilt hmoves hafter hset' hconfig hheld'
  | held hjoined hctrl htable hcurrent hset' hbefore hheld' hcomp hbusy =>
    have hfirst : tableFirst t = tableFirst s := by
      rw [tableFirst_held hheld', tableFirst_free hbefore, hcurrent, BitVec.add_sub_cancel]
    refine ⟨fun _ => hset'.trans (hset hjoined), ?_, fun _ => hcomp ▸ hbusy, ?_, ?_⟩
    · rw [horizonLaw_of_joined (by rwa [hctrl]), htable, hfirst]
      exact (horizonLaw_of_joined hjoined).mp hhorizon
    · rw [gateLaw_iff, htable, hfirst, hctrl, hcomp]
      exact hgate
    · rw [FieldsLaw, htable]
      exact hfields
  | slid hjoined hctrl htable hcurrent hset' hbefore hfree hheld' hcomp =>
    have hbegun : s.clock.current + 1 - 1 = s.clock.current := BitVec.add_sub_cancel _ _
    obtain ⟨hkeys, hslots, hfields'⟩ := slideTable_laws (c := s.clock.current + 1) hgate1 hgate4
      (by rw [hbegun, ← tableFirst_free hbefore]; exact (horizonLaw_of_joined hjoined).mp hhorizon)
      (fun r hr => gateAt_mono (Awaiting := s.pledge.comp.any (·.boundary) = true) (by simp [hfree]) (by rw [hbegun, ← tableFirst_free hbefore]; exact hgate r hr)) hfields
    have hfirst : tableFirst t = s.clock.current + 1 := (tableFirst_free hheld').trans hcurrent
    refine ⟨fun _ => hset'.trans (hset hjoined), ?_, fun hp => ?_, ?_, ?_⟩
    · rw [horizonLaw_of_joined (by rwa [hctrl]), htable, hfirst, hkeys]
    · simp [hheld'] at hp
    · rw [gateLaw_iff, htable, hfirst, hctrl]
      exact fun x hx => gateAt_mono (fun _ => hcomp) (hslots x hx)
    · rw [FieldsLaw, htable]
      exact hfields'
  | written c hbusy hmoves hctrl hcurrent hset' hbefore hheld' =>
    obtain ⟨hkeys, hslots, hfields'⟩ := writtenTable_laws hgate1 h hbusy hmoves
    have hfirst : tableFirst t = tableFirst s := by rw [tableFirst_free hheld', tableFirst_free hbefore, hcurrent]
    refine ⟨fun hjoined => hset'.trans (hset (by rwa [← hctrl])), ?_, fun hp => ?_, ?_, hfields'⟩
    · by_cases hunjoined : s.ctrl.station = .unjoined
      · obtain ⟨hnone, -⟩ := (horizonLaw_of_unjoined hunjoined).mp hhorizon
        refine (horizonLaw_of_unjoined (by rwa [hctrl])).mpr ⟨?_, hheld'⟩
        simpa [recordKeys, hnone] using hkeys
      · rw [horizonLaw_of_joined (by rwa [hctrl]), hkeys, hfirst]
        exact (horizonLaw_of_joined hunjoined).mp hhorizon
    · simp [hheld'] at hp
    · rw [gateLaw_iff, hfirst, hctrl]
      exact fun x hx => gateAt_mono False.elim (hslots x hx)
  | writtenSlid c hbusy u hmoves htable hctrl hcurrent hset' hbefore hheld' hcomp =>
    have hjoined : s.ctrl.station ≠ .unjoined := fun hunjoined => by
      simp [((horizonLaw_of_unjoined hunjoined).mp hhorizon).2] at hbefore
    have hfirst := tableFirst_held hbefore
    obtain ⟨hkeys, hslots, hfields'⟩ := writtenTable_laws hgate1 h hbusy hmoves
    rw [hfirst] at hslots
    rw [(horizonLaw_of_joined hjoined).mp hhorizon, hfirst] at hkeys
    obtain ⟨hkeys', hslots', hfields''⟩ := slideTable_laws hgate1 hgate4 hkeys hslots hfields'
    have hfirst' : tableFirst t = s.clock.current := (tableFirst_free hheld').trans hcurrent
    refine ⟨fun _ => hset'.trans (hset hjoined), ?_, fun hp => ?_, ?_, ?_⟩
    · rw [horizonLaw_of_joined (by rwa [hctrl]), htable, hfirst', hkeys']
    · simp [hheld'] at hp
    · rw [gateLaw_iff, htable, hfirst', hctrl]
      exact fun x hx => gateAt_mono (fun _ => hcomp) (hslots' x hx)
    · rw [FieldsLaw, htable]
      exact hfields''

theorem idle_of_horizonLaw {s : State} (h : HorizonLaw s) (hunjoined : s.ctrl.station = .unjoined) :
    s.pledge.boundaryPending = false := ((horizonLaw_of_unjoined hunjoined).mp h).2

theorem tableAfter_of_tableLaw {i : Instr} {s t : State} (h : TableLaw s) (heffect : Effect i s t) : TableAfter True s t := by
  obtain ⟨hset, hhorizon, -⟩ := h
  exact tableAfter_effect (fun _ => recordKeys_nodup hhorizon) (.inl hset) (idle_of_horizonLaw hhorizon) heffect

/-- A millisecond counts the holds down. -/
theorem tableMoves_tick (A Keyed : Prop) (s : State) : TableMoves A Keyed s.table (tick s).table :=
  tableMoves_map fun _ _ => .single .countHold

theorem anchored_tick (s : State) : Anchored s (tick s) := by
  refine ⟨Iff.rfl, ?_, ?_, rfl, rfl, ?_, ?_⟩
  · simp only [tick, tickClock]
    split <;> rfl
  · simp only [tick, tickClock]
    split <;> rfl
  · simp [tick, PledgeEngine.tick]
  · cases hcomp : s.pledge.comp <;> simp [tick, PledgeEngine.tick, hcomp]

/-- The premises of O53. -/
def TableLaws (s : State) : Prop := ConfigForm s.ctrl.config ∧ TableLaw s

theorem tableLaws_effect {i : Instr} {s t : State} (h : TableLaws s) (heffect : Effect i s t) : TableLaw t :=
  tableLaw_after h.1 h.2 (tableAfter_of_tableLaw h.2 heffect)

theorem tableLaws_of_sameButAnswers {s t : State} (hsame : SameButAnswers s t) (h : TableLaws s) : TableLaws t := by
  obtain ⟨_, _, rfl⟩ := hsame
  exact h

/-- Settles O53: each effect leaves the records changed one by one, fresh, slid or written, and each form keeps the laws. -/
theorem horizonKept : Obligations.HorizonKept := by
  unfold Obligations.HorizonKept
  intro s t hs h
  refine step_keeps (P := TableLaws) (Q := TableLaw) (fun _ _ hu => hu) (fun _ _ hu => hu)
    (fun u hu => tableLaw_moved hu.2 (tableMoves_tick True True u) (anchored_tick u)) ?_ hs h
  refine exec_keeps (fun _ _ => tableLaws_of_sameButAnswers) (fun u v hsame hu => ?_) fun _ _ _ => tableLaws_effect
  obtain ⟨_, _, rfl⟩ := hsame
  exact hu

end Sys2Proof.Machine

/-! PROOFS. Every step keeps takes within caps, nothing held outside ACTIVE, and pledges, energy and bands in form (R2, R25, R38,
R40, R41, R43, R47, R112). -/

namespace Sys2Proof.Machine

variable {Allocating Keyed : Prop}

/-! ### Takes within caps -/

/-- The order of take and cap; an OPEN record has no cap. -/
def TakeForm (r : CRecord) : Prop := (r.state = .opened → r.cap = none) ∧ TakeOrder r

theorem takeForm_of_fields {r : CRecord} (hfields : RecordFields r) (h : TakeOrder r) : TakeForm r := by
  obtain ⟨-, -, -, hcap, -⟩ := hfields
  exact ⟨fun hopen => by simpa [hopen] using hcap, h⟩

theorem takeForm_withApplied {r : CRecord} (band : Nat) (a : Award) (h : TakeForm r) : TakeForm (r.withApplied band a) := by
  obtain ⟨hempty, htake, hcap, -⟩ := h
  unfold CRecord.withApplied
  split
  next hopen =>
    have hzero : r.take = 0 := by simpa [hempty hopen] using htake
    simp [TakeForm, TakeOrder, CRecord.freeze, hzero]
  next => exact ⟨nofun, htake, hcap, nofun⟩
  next hawarded => exact ⟨by simp [hawarded], htake, hcap, nofun⟩
  next hrunning => exact ⟨by simp [hrunning], htake, hcap, nofun⟩

theorem takeForm_withdraw {r : CRecord} (q : Reason) (h : TakeForm r) : TakeForm (r.withdraw q) := by
  unfold CRecord.withdraw
  dsimp only
  split
  · exact h
  next hcommitted => simp [TakeForm, TakeOrder, CRecord.withTake, hcommitted]

theorem takeForm_move {r x : CRecord} (h : TakeForm r) (hmove : RecordMove Allocating True r x) : TakeForm x := by
  obtain ⟨hempty, htake, hcap, hnone⟩ := id h
  cases hmove with
  | take t hallowed hmeant =>
    obtain ⟨haward, hwithin⟩ := hmeant trivial
    exact ⟨hempty, hwithin htake, hcap, fun hno => by simp [show r.award = none from hno] at haward⟩
  | applied band a => exact takeForm_withApplied band a h
  | replaced a hmeant => exact ⟨hempty, htake, hcap, nofun⟩
  | withdrawn q => exact takeForm_withdraw q h
  | _ => exact h

theorem takeForm_lowerCap {r : CRecord} (fresh : Nat) (hcommitted : r.state ≠ .opened) (h : TakeForm r) :
    TakeForm (r.lowerCap fresh) := by
  obtain ⟨-, htake, hcap, hnone⟩ := h
  have hlow : min (r.cap.getD 0) fresh ≤ r.frozen.getD 0 := (Nat.min_le_left _ _).trans hcap
  refine ⟨fun hopen => absurd (lowerCap_state r fresh ▸ hopen) hcommitted, ?_⟩
  unfold CRecord.lowerCap
  dsimp only
  split
  next hlt =>
    refine ⟨le_rfl, hlow, fun hno => ?_⟩
    have hzero := hnone hno
    show min (r.cap.getD 0) fresh = 0
    omega
  next hge => exact ⟨Nat.le_of_not_lt hge, hlow, hnone⟩

theorem takeForm_written {s : State} {c : Computation} {r : CRecord} (h : TakeForm r) : TakeForm (writtenRecord s c r) := by
  obtain ⟨hempty, htake, hcap, hnone⟩ := id h
  refine writtenRecord_preserves (fun hopen => ?_) (fun _ => h) fun hcommitted => takeForm_lowerCap _ hcommitted h
  have hzero : r.take = 0 := by simpa [hempty hopen] using htake
  simp [TakeForm, TakeOrder, CRecord.freeze, hzero]

theorem takeForm_openRecord (k : Word) (d : Direction) : TakeForm (openRecord k d) := by
  simp [TakeForm, TakeOrder, openRecord]

theorem takeForm_rebuiltRecord (c : StationConfig) (p : PledgeEngine) (first : Word) (j : Nat) (d : Direction) :
    TakeForm (rebuiltRecord c p first j d) := by
  unfold rebuiltRecord
  split
  · by_cases hj : j = 0 <;> simp [TakeForm, TakeOrder, zeroRecord, openRecord, hj]
  · exact takeForm_openRecord _ d

theorem RecordMove.mono {A B : Prop} {r x : CRecord} (himp : A → B) (h : RecordMove A Keyed r x) : RecordMove B Keyed r x := by
  cases h with
  | take t hallowed hmeant => exact .take t (himp hallowed) hmeant
  | startHold n hallowed => exact .startHold n (himp hallowed)
  | stopHold => exact .stopHold
  | countHold => exact .countHold
  | evalPending b hallowed => exact .evalPending b fun htrue => himp (hallowed htrue)
  | sent n => exact .sent n
  | running f => exact .running f
  | applied band a => exact .applied band a
  | replaced a hmeant => exact .replaced a hmeant
  | withdrawn q => exact .withdrawn q

/-! ### A record law after an effect -/

/-- What an effect keeps of every record: shown for the elementary changes, the write, a record that becomes RUNNING, and fresh
ones. -/
theorem records_after {s t : State} {L : CRecord → Prop} (hafter : TableAfter Keyed s t) (hs : ∀ r ∈ s.table, L r)
    (hmove : ∀ r x, L r → RecordMove (MayAllocate s) Keyed r x → L x) (hwritten : ∀ c ∈ s.pledge.comp, ∀ r, L r → L (writtenRecord s c r))
    (hrunning : ∀ r, L r → L r.toRunning) (hopen : ∀ k d, L (openRecord k d)) (hrebuilt : ∀ c p first j d, L (rebuiltRecord c p first j d)) :
    ∀ r ∈ t.table, L r := by
  have hslide {c : Word} {u : List CRecord} (hu : ∀ r ∈ u, L r) : ∀ r ∈ slideTable c u, L r := by
    intro x hx
    rcases mem_slideTable hx with ⟨r, hr, -, -, rfl⟩ | ⟨hmem, -, -⟩ | ⟨d, rfl⟩
    · exact hrunning r (hu r hr)
    · exact hu x hmem
    · exact hopen _ d
  have hwrite {c : Computation} (hbusy : s.pledge.comp = some c) {u : List CRecord}
      (hmoves : TableMoves (MayAllocate s) Keyed (writtenTable s c) u) : ∀ r ∈ u, L r := by
    refine hmoves.forall hmove fun x hx => ?_
    obtain ⟨r, hr, rfl⟩ := List.mem_map.mp hx
    exact hwritten c hbusy r (hs r hr)
  cases hafter with
  | moved hmoves => exact hmoves.forall hmove hs
  | idle _ _ htable | held _ _ htable => rwa [htable]
  | emptied _ htable => simp [htable]
  | rebuilt hmoves =>
    refine hmoves.forall (fun r x hr hx => hmove r x hr (hx.mono False.elim)) fun r hr => ?_
    obtain ⟨j, d, -, rfl⟩ := mem_rebuiltTable hr
    exact hrebuilt _ _ _ j d
  | slid _ _ htable =>
    rw [htable]
    exact hslide hs
  | written c hbusy hmoves => exact hwrite hbusy hmoves
  | writtenSlid c hbusy u hmoves htable =>
    rw [htable]
    exact hslide (hwrite hbusy hmoves)

/-- The premises of O54. -/
def TakeLaws (s : State) : Prop := TableLaws s ∧ TakeLaw s

theorem takeForms {s : State} (h : TakeLaws s) : ∀ r ∈ s.table, TakeForm r := by
  obtain ⟨⟨-, -, -, -, -, hfields⟩, htakes⟩ := h
  exact fun r hr => takeForm_of_fields (hfields r hr) (htakes r hr)

theorem takeLaw_effect {i : Instr} {s t : State} (h : TakeLaws s) (heffect : Effect i s t) : TakeLaw t := by
  have hforms := records_after (tableAfter_of_tableLaw h.1.2 heffect) (takeForms h) (fun _ _ => takeForm_move)
    (fun _ _ _ => takeForm_written) (fun _ hr => ⟨nofun, hr.2⟩) takeForm_openRecord takeForm_rebuiltRecord
  exact fun r hr => (hforms r hr).2

theorem fieldsLaw_effect {i : Instr} {s t : State} (h : TableLaws s) (heffect : Effect i s t) : FieldsLaw t := by
  obtain ⟨-, -, -, -, hfields⟩ := tableLaws_effect h heffect
  exact hfields

theorem takeLaw_tick {s : State} (h : TakeLaws s) : FieldsLaw (tick s) ∧ TakeLaw (tick s) := by
  have hmoves := tableMoves_tick True True s
  obtain ⟨⟨-, -, -, -, -, hfields⟩, -⟩ := id h
  exact ⟨hmoves.forall (fun _ _ => recordFields_move) hfields,
    fun r hr => (hmoves.forall (fun _ _ => takeForm_move) (takeForms h) r hr).2⟩

/-- Settles O54: the order of take and cap survives every change of a record. -/
theorem takesKeptWithinCaps : Obligations.TakesKeptWithinCaps := by
  unfold Obligations.TakesKeptWithinCaps
  intro s t hs h
  obtain ⟨hconfig, htable, htakes⟩ := hs
  refine step_keeps (P := TakeLaws) (Q := fun u => FieldsLaw u ∧ TakeLaw u) (fun _ _ hu => hu) (fun _ _ hu => hu)
    (fun _ => takeLaw_tick) ?_ ⟨⟨hconfig, htable⟩, htakes⟩ h
  refine exec_keeps (fun u v hsame hu => ?_) (fun u v hsame hu => ?_)
    fun _ _ _ hu heffect => ⟨fieldsLaw_effect hu.1 heffect, takeLaw_effect hu heffect⟩
  · obtain ⟨_, _, rfl⟩ := hsame
    exact hu
  · obtain ⟨_, _, rfl⟩ := hsame
    exact hu

/-! ### Nothing held outside ACTIVE -/

/-- What a record holds outside ACTIVE: nothing (R2, R112). -/
def Quiet (r : CRecord) : Prop :=
  r.live.getD 0 = 0 ∧ r.cap.getD 0 = 0 ∧ r.take = 0 ∧ r.hold = none ∧ r.evalPending = false

theorem quiet_move {r x : CRecord} (h : Quiet r) (hmove : RecordMove False Keyed r x) : Quiet x := by
  obtain ⟨hlive, hcap, htake, hhold, hpending⟩ := id h
  cases hmove with
  | take _ hallowed | startHold _ hallowed => exact hallowed.elim
  | stopHold => exact ⟨hlive, hcap, htake, rfl, hpending⟩
  | countHold => exact ⟨hlive, hcap, htake, by simp [CRecord.tick, countDown, hhold], hpending⟩
  | evalPending b hallowed => exact ⟨hlive, hcap, htake, hhold, by simpa using hallowed⟩
  | applied band a =>
    unfold CRecord.withApplied
    split
    · exact ⟨rfl, hlive, htake, hhold, hpending⟩
    all_goals exact h
  | withdrawn q =>
    unfold CRecord.withdraw
    dsimp only
    split
    · exact ⟨rfl, hcap, htake, hhold, hpending⟩
    · exact ⟨hlive, rfl, rfl, hhold, hpending⟩
  | _ => exact h

/-- A record that leaves ACTIVE holds nothing; a committed one has no live pledge, and an OPEN one no cap and no take. -/
theorem quiet_depart {r : CRecord} (q : Reason) (hfields : RecordFields r) (h : TakeOrder r) :
    Quiet (CRecord.withdraw { r with hold := none, evalPending := false } q) := by
  obtain ⟨hlive, -, -, hcap, -⟩ := hfields
  obtain ⟨htake, -, -⟩ := h
  unfold CRecord.withdraw
  dsimp only
  split
  next hopen =>
    have hnone : r.cap = none := by simpa [show r.state = .opened from hopen] using hcap
    exact ⟨rfl, by simp [hnone], by simpa [hnone] using htake, rfl, rfl⟩
  next hcommitted =>
    have hnone : r.live = none := by simpa [show r.state ≠ .opened from hcommitted] using hlive
    exact ⟨by simp [CRecord.withTake, hnone], rfl, rfl, rfl, rfl⟩

theorem quiet_written {s : State} {c : Computation} {r : CRecord} (hinactive : isActive s = false) (h : Quiet r) :
    Quiet (writtenRecord s c r) := by
  obtain ⟨hlive, hcap, htake, hhold, hpending⟩ := id h
  have hfresh : writtenFresh s c r = 0 := by simp [writtenFresh, hinactive]
  refine writtenRecord_preserves (fun _ => ?_) (fun _ => ?_) fun _ => ?_
  · rw [hfresh]
    exact ⟨rfl, rfl, htake, hhold, hpending⟩
  · rw [hfresh]
    exact ⟨rfl, hcap, htake, hhold, hpending⟩
  · rw [hfresh]
    unfold CRecord.lowerCap
    dsimp only
    split
    next hlt => simp [htake] at hlt
    next => exact ⟨hlive, by simp, htake, hhold, hpending⟩

theorem quiet_openRecord (k : Word) (d : Direction) : Quiet (openRecord k d) := by simp [Quiet, openRecord]

theorem quiet_rebuiltRecord (c : StationConfig) (p : PledgeEngine) (first : Word) (j : Nat) (d : Direction) :
    Quiet (rebuiltRecord c p first j d) := by
  unfold rebuiltRecord
  split
  · simp [Quiet, zeroRecord, openRecord]
  · exact quiet_openRecord _ d

/-- Outside ACTIVE the Allocation Unit does not act: no take is held that a write could lower. -/
theorem not_mayAllocate {s : State} (hinactive : isActive s = false) (hquiet : ∀ r ∈ s.table, Quiet r) : ¬ MayAllocate s := by
  rintro (hactive | ⟨c, -, hlowered⟩)
  · simp [hactive] at hinactive
  · refine hlowered ?_
    have hnone : (s.table.filter fun r => (writtenRecord s c r).take < r.take) = [] := by
      refine List.filter_eq_nil_iff.mpr fun r hr => ?_
      obtain ⟨-, -, htake, -⟩ := hquiet r hr
      simp [htake]
    rw [loweredPairs, hnone, List.map_nil]

/-- The table a departure from ACTIVE leaves: every record withdrawn, its hold stopped and its pending flag clear. -/
def DepartedTable (s t : State) : Prop :=
  ∃ q u, TableMoves False True s.table u ∧
    t.table = u.map fun r => CRecord.withdraw { r with hold := none, evalPending := false } q

theorem departed_requestInActive (q : SuspendReason) {s u : State} (hmoves : TableMoves False True s.table u.table)
    (hactive : u.ctrl.station = .active) : DepartedTable s (requestInActive q u) := by
  unfold requestInActive
  rw [if_pos (by simp [isActive, hactive])]
  exact ⟨q.toReason, u.table, hmoves, suspendStation_table q u⟩

theorem departed_endJudgePeriod {s : State} (hactive : s.ctrl.station = .active) :
    (endJudgePeriod s).ctrl.station = .active ∨ DepartedTable s (endJudgePeriod s) := by
  have hcounted (good : Bool) (meanD : Int) (m : DeliveryMonitor) :
      TableMoves False True s.table ((startJudging (countVerdict good meanD s)).setMon m).table := by
    simpa using tableMoves_countVerdict good meanD s
  unfold endJudgePeriod badVerdict
  dsimp only
  split
  · exact .inl (by simpa using hactive)
  · split
    · obtain ⟨q, u, hmoves, htable⟩ := departed_requestInActive .delivery (hcounted _ _ _) (by simpa using hactive)
      exact .inr ⟨q, u, hmoves, by simpa using htable⟩
    · exact .inl (by simpa using hactive)

/-- The station leaves ACTIVE out of the cluster, or with every record withdrawn. -/
theorem effect_departs {i : Instr} {s t : State} (hactive : s.ctrl.station = .active) (heffect : Effect i s t) :
    t.ctrl.station = .active ∨ t.table = [] ∨ DepartedTable s t := by
  have hjoined : s.ctrl.station ≠ .unjoined := by simp [hactive]
  cases heffect with
  | powerOn | restart => exact .inr (.inl rfl)
  | join haccepted =>
    rw [joinRefusal_of_joined hjoined] at haccepted
    cases haccepted
  | leave hstation | leaveSuspended hstation | clearSuspend hstation | enterActive hstation => simp [hactive] at hstation
  | configure x hi items hstation => exact absurd hstation hjoined
  | setClock k n hn hstation => exact absurd hstation hjoined
  | beginLeaving => exact .inr (.inr ⟨.leave, s.table, tableMoves_refl _, beginLeaving_table s⟩)
  | setState x hi b =>
    exact .inl (takenState_preserves (P := fun u => u.ctrl.station = .active) (fun _ hu => by simpa using hu)
      (fun u hu => by simpa using hu) (by simpa [storeState_ctrl] using hactive))
  | setBaseline b | setPrice b | setAvailability b =>
    rw [takenSetting_keeps (·.ctrl) (by simp) (by simp)]
    exact .inl hactive
  | staleLimit =>
    refine .inl ?_
    unfold reachStaleLimit
    dsimp only
    split
    · simpa [beginStale_ctrl] using hactive
    · exact hactive
  | warn | unwarn => exact .inl hactive
  | filtered =>
    unfold requestSupply
    rw [if_pos (.inl hactive)]
    exact .inr (.inr ⟨_, _, tableMoves_refl _, suspendStation_table .supply _⟩)
  | loseFeedback =>
    refine .inr (.inr (departed_requestInActive _ ?_ (by simpa using hactive)))
    simpa using tableMoves_refl s.table
  | endJudgePeriod => exact (departed_endJudgePeriod hactive).imp_right .inr
  | endTransmission =>
    unfold endTransmission
    split
    · exact .inl hactive
    · simp [hactive]
  | _ => exact .inl (by simpa using hactive)

/-- The premises of O55. -/
def InactiveLaws (s : State) : Prop := TakeLaws s ∧ InactiveLaw s

theorem quiet_of_departed {s t : State} (h : TakeLaws s) (hdeparted : DepartedTable s t) : ∀ r ∈ t.table, Quiet r := by
  obtain ⟨q, u, hmoves, htable⟩ := hdeparted
  obtain ⟨⟨-, -, -, -, -, hfields⟩, -⟩ := id h
  have hfields' := hmoves.forall (fun _ _ => recordFields_move) hfields
  have htakes' := hmoves.forall (fun _ _ => takeForm_move) (takeForms h)
  rw [htable]
  intro x hx
  obtain ⟨r, hr, rfl⟩ := List.mem_map.mp hx
  exact quiet_depart q (hfields' r hr) (htakes' r hr).2

theorem inactiveLaw_effect {i : Instr} {s t : State} (h : InactiveLaws s) (heffect : Effect i s t) : InactiveLaw t := by
  obtain ⟨htakes, hinactive⟩ := h
  intro hafter
  by_cases hactive : s.ctrl.station = .active
  · rcases effect_departs hactive heffect with hstill | hnone | hdeparted
    · exact absurd hstill hafter
    · simp [hnone]
    · exact quiet_of_departed htakes hdeparted
  · have hquiet : ∀ r ∈ s.table, Quiet r := hinactive hactive
    have hisActive : isActive s = false := by simpa [isActive] using hactive
    have hnot := not_mayAllocate hisActive hquiet
    exact records_after (tableAfter_of_tableLaw htakes.1.2 heffect) hquiet
      (fun _ _ hr hmove => quiet_move hr (hmove.mono hnot)) (fun _ _ _ => quiet_written hisActive) (fun _ hr => hr) quiet_openRecord
      quiet_rebuiltRecord

theorem inactiveLaw_tick {s : State} (h : InactiveLaw s) : InactiveLaw (tick s) := fun hafter =>
  (tableMoves_tick False True s).forall (fun _ _ => quiet_move) (h hafter)

/-- Settles O55: outside ACTIVE no change gives a record anything to hold, and a departure from ACTIVE empties every record. -/
theorem nothingHeldOutsideActive : Obligations.NothingHeldOutsideActive := by
  unfold Obligations.NothingHeldOutsideActive
  intro s t hs h
  obtain ⟨hconfig, htable, htakes, hinactive⟩ := hs
  refine step_keeps (P := InactiveLaws) (Q := fun u => FieldsLaw u ∧ TakeLaw u ∧ InactiveLaw u) (fun _ _ hu => hu)
    (fun _ _ hu => hu) (fun u hu => ?_) ?_ ⟨⟨⟨hconfig, htable⟩, htakes⟩, hinactive⟩ h
  · obtain ⟨hfields', htakes'⟩ := takeLaw_tick hu.1
    exact ⟨hfields', htakes', inactiveLaw_tick hu.2⟩
  · refine exec_keeps (fun u v hsame hu => ?_) (fun u v hsame hu => ?_)
      fun _ _ _ hu heffect => ⟨fieldsLaw_effect hu.1.1 heffect, takeLaw_effect hu.1 heffect, inactiveLaw_effect hu heffect⟩
    · obtain ⟨_, _, rfl⟩ := hsame
      exact hu
    · obtain ⟨_, _, rfl⟩ := hsame
      exact hu

end Sys2Proof.Machine

/-! PROOFS. Every step keeps pledges and caps in form, and energy and bands in range (R38, R40, R41, R43, R45 to R47). -/

namespace Sys2Proof.Machine

/-! ### The fresh pledge -/

theorem pledgeForm_zero (c : StationConfig) : PledgeForm c 0 := by simp [PledgeForm]

theorem pledgeForm_min {c : StationConfig} {a b : Nat} (ha : PledgeForm c a) (hb : PledgeForm c b) : PledgeForm c (min a b) := by
  rcases Nat.le_total a b with h | h
  · rwa [Nat.min_eq_left h]
  · rwa [Nat.min_eq_right h]

/-- Baselines within the ratings. -/
def RatedBaselines (c : StationConfig) (xs : List Int) : Prop := ∀ b ∈ xs, -(c.chargeMax : Int) ≤ b ∧ b ≤ c.dischargeMax

theorem rawPledge_le (c : StationConfig) (p : PledgeEngine) {x : Computation} (j : Nat) (d : Direction) (isOpen : Bool)
    (hbaselines : RatedBaselines c x.baselines) : rawPledge c p x j d isOpen ≤ pScale c := by
  have hbaseline : -(c.chargeMax : Int) ≤ x.baselines.getD j 0 ∧ x.baselines.getD j 0 ≤ c.dischargeMax := by
    rw [List.getD_eq_getElem?_getD]
    cases hj : x.baselines[j]? with
    | none => simp
    | some b => exact hbaselines b (List.mem_of_getElem? hj)
  have hroom : ratingHeadroom c x j d ≤ pScale c := by
    unfold ratingHeadroom pScale
    cases d <;> dsimp only <;> omega
  unfold rawPledge
  split
  · exact Nat.zero_le _
  · exact (Nat.min_le_right _ _).trans hroom

theorem pledgeForm_quantised (c : StationConfig) (errors : Nat) {raw : Nat} (hraw : raw ≤ pScale c) :
    PledgeForm c (quantised c errors raw) := by
  unfold quantised
  dsimp only
  split
  · exact pledgeForm_zero c
  next hmin =>
    have hderated : raw * (16 - errors) / 16 ≤ raw := by
      have := Nat.mul_le_mul_left raw (Nat.sub_le 16 errors)
      omega
    refine ⟨Nat.mul_mod_left _ _, .inr (Nat.le_of_not_lt hmin), ?_⟩
    omega

theorem pledgeForm_writtenFresh {s : State} {c : Computation} (r : CRecord)
    (hbaselines : RatedBaselines s.ctrl.config c.baselines) : PledgeForm s.ctrl.config (writtenFresh s c r) := by
  unfold writtenFresh
  split
  · exact pledgeForm_quantised _ _ (rawPledge_le _ _ _ _ _ hbaselines)
  · exact pledgeForm_zero _

/-! ### Pledges and caps of the records -/

/-- Live pledge and cap in form. -/
def PledgedForm (c : StationConfig) (r : CRecord) : Prop := PledgeForm c (r.live.getD 0) ∧ PledgeForm c (r.cap.getD 0)

variable {Allocating Keyed : Prop} {cfg : StationConfig}

theorem pledgedForm_move {r x : CRecord} (h : PledgedForm cfg r) (hmove : RecordMove Allocating Keyed r x) : PledgedForm cfg x := by
  obtain ⟨hlive, hcap⟩ := id h
  cases hmove with
  | applied band a =>
    unfold CRecord.withApplied
    split
    · exact ⟨pledgeForm_zero cfg, hlive⟩
    all_goals exact h
  | withdrawn q =>
    unfold CRecord.withdraw
    dsimp only
    split
    · exact ⟨pledgeForm_zero cfg, hcap⟩
    · exact ⟨hlive, pledgeForm_zero cfg⟩
  | _ => exact h

theorem pledgedForm_written {s : State} {c : Computation} {r : CRecord} (hbaselines : RatedBaselines s.ctrl.config c.baselines)
    (h : PledgedForm s.ctrl.config r) : PledgedForm s.ctrl.config (writtenRecord s c r) := by
  have hfresh := pledgeForm_writtenFresh r hbaselines
  refine writtenRecord_preserves (fun _ => ⟨pledgeForm_zero _, hfresh⟩) (fun _ => ⟨hfresh, h.2⟩) fun _ => ?_
  unfold CRecord.lowerCap
  dsimp only
  split <;> exact ⟨h.1, pledgeForm_min h.2 hfresh⟩

theorem pledgedForm_openRecord (k : Word) (d : Direction) : PledgedForm cfg (openRecord k d) :=
  ⟨pledgeForm_zero cfg, pledgeForm_zero cfg⟩

theorem pledgedForm_rebuiltRecord (c : StationConfig) (p : PledgeEngine) (first : Word) (j : Nat) (d : Direction) :
    PledgedForm cfg (rebuiltRecord c p first j d) := by
  unfold rebuiltRecord
  split <;> exact ⟨pledgeForm_zero cfg, pledgeForm_zero cfg⟩

/-! ### The Pledge Engine -/

/-- The Pledge Engine's figures in range: the baselines of a computation in flight, energy, accumulator and bands. -/
def EngineForm (c : StationConfig) (p : PledgeEngine) : Prop :=
  (∀ x ∈ p.comp, RatedBaselines c x.baselines) ∧
  (p.eHost ≤ p.eCeil ∧ p.eFloor ≤ p.eCeil ∧ p.eCeil ≤ 10000 ∧ -2147483648 ≤ p.acc ∧ p.acc ≤ 2147483647) ∧
  (p.raiseBand ≤ 15 ∧ p.lowerBand ≤ 15)

/-- The same of a state, at the configuration `cfg`. -/
def EngineKept (cfg : StationConfig) (s : State) : Prop := s.ctrl.config = cfg ∧ EngineForm cfg s.pledge

theorem engineKept_congr {s t : State} (hconfig : t.ctrl.config = s.ctrl.config) (hpledge : t.pledge = s.pledge)
    (h : EngineKept cfg s) : EngineKept cfg t := by
  unfold EngineKept at h ⊢
  rwa [hconfig, hpledge]

theorem engineKept_recompute {s : State} (h : EngineKept cfg s) : EngineKept cfg (recompute s) :=
  engineKept_congr (by simp) (by simp) h

theorem ratedBaselines_snapshot (b r p : Bool) (s : State) : RatedBaselines s.ctrl.config (snapshot b r p s).baselines := by
  intro x hx
  obtain ⟨j, -, rfl⟩ := List.mem_map.mp hx
  unfold baselineOf
  split
  · exact clampInt_bounds _ (by omega)
  · omega

theorem engineKept_startComputation (b r p : Bool) {s : State} (h : EngineKept cfg s) : EngineKept cfg (startComputation b r p s) := by
  obtain ⟨rfl, -, henergy, hband⟩ := h
  refine ⟨by simp, fun x hx => ?_, henergy, hband⟩
  obtain rfl := Option.some.inj hx
  exact ratedBaselines_snapshot b r p (s.setPledge (pruneEntries s.clock.current s.pledge))

theorem engineKept_triggerComputation (r : Bool) {s : State} (h : EngineKept cfg s) : EngineKept cfg (triggerComputation r s) := by
  unfold triggerComputation
  split
  · split
    · exact h
    · exact engineKept_startComputation _ _ _ h
  · exact h

theorem engineKept_suspendStation (q : SuspendReason) {s : State} (h : EngineKept cfg s) : EngineKept cfg (suspendStation q s) :=
  engineKept_congr (by simp) (by simp) h

theorem engineKept_enterListening {s : State} (h : EngineKept cfg s) : EngineKept cfg (enterListening s) :=
  supplyWhenFiltered_keeps (fun q _ _ => engineKept_suspendStation q) (s := s.setCtrl _) h

theorem engineKept_enterActive {s : State} (h : EngineKept cfg s) : EngineKept cfg (enterActive s) := by
  unfold enterActive
  dsimp only
  generalize hu : beginJudging _ = u
  have hbegun : EngineKept cfg u := hu ▸ engineKept_congr (by simp) (by simp) h
  refine entryRequests_keeps (fun q _ _ => engineKept_suspendStation q) (fun _ _ hv => hv) ?_
  split
  · exact engineKept_triggerComputation _ (engineKept_triggerComputation _ hbegun)
  · exact engineKept_triggerComputation _ hbegun

theorem engineKept_performBoundary {s : State} (h : EngineKept cfg s) : EngineKept cfg (performBoundary s) := by
  refine ⟨by simpa using h.1, ?_⟩
  simp only [performBoundary, recompute_frame, State.setPledge_pledge, State.setTable_pledge, handInterval_frame]
  exact h.2

theorem engineKept_issueBoundary {s : State} (h : EngineKept cfg s) : EngineKept cfg (issueBoundary s) := by
  have htable {u : State} (hu : EngineKept cfg u) : EngineKept cfg (boundaryAtTable u) := by
    unfold boundaryAtTable
    split
    · split
      · exact hu
      · exact engineKept_startComputation _ _ _ (engineKept_performBoundary hu)
    · exact hu
  refine engineKept_recompute (htable ?_)
  exact engineKept_congr (s := s) (by simp) (by simp) h

theorem engineKept_naturalBoundary {s : State} (h : EngineKept cfg s) : EngineKept cfg (naturalBoundary s) := by
  unfold naturalBoundary
  split
  · exact engineKept_issueBoundary h
  · exact h

theorem engineKept_performMarkBoundary (m : ForwardMark) {s : State} (h : EngineKept cfg s) : EngineKept cfg (performMarkBoundary m s) := by
  unfold performMarkBoundary
  dsimp only
  split
  · generalize hu : State.setClock _ _ = u
    have hbegun : EngineKept cfg u := hu ▸ h
    exact engineKept_congr (s := issueBoundary u) (by simp) (by simp) (engineKept_issueBoundary hbegun)
  · refine engineKept_issueBoundary ?_
    exact h

theorem engineKept_performRebuild (k : Word) (n : Nat) {s : State} (h : EngineKept cfg s) : EngineKept cfg (performRebuild k n s) := by
  refine ⟨by simpa using h.1, ?_⟩
  unfold performRebuild
  dsimp only
  split
  · simp only [rebuildHorizon, recompute_frame, recomputePhase_frame, State.setPledge_pledge, purgeQueue_frame]
    exact h.2
  · simp only [recompute_frame, recomputePhase_frame]
    exact h.2

theorem engineKept_afterWrite {s : State} (h : EngineKept cfg s) : EngineKept cfg (afterWrite s) := by
  unfold afterWrite
  dsimp only
  split
  · refine engineKept_startComputation _ _ _ (engineKept_performBoundary ?_)
    exact h
  · split
    · refine engineKept_startComputation _ _ _ ?_
      exact h
    · obtain ⟨hconfig, -, henergy, hband⟩ := h
      refine ⟨by simpa using hconfig, ?_⟩
      simp only [lockEnds_frame, State.setPledge_pledge]
      exact ⟨nofun, henergy, hband⟩

theorem engineKept_endComputation (c : Computation) {s : State} (h : EngineKept cfg s) : EngineKept cfg (endComputation c s) := by
  obtain ⟨l, hl⟩ := formLadders_pledge (frozenPairs s c) (s.setTable (writtenTable s c))
  refine engineKept_afterWrite ⟨by simpa using h.1, ?_⟩
  simp only [pledgeInsert_frame, foldl_noteLowered_frame, hl]
  exact h.2

theorem engineKept_endJudgePeriod {s : State} (h : EngineKept cfg s) : EngineKept cfg (endJudgePeriod s) := by
  have hset {u : State} (m : DeliveryMonitor) (hu : EngineKept cfg u) : EngineKept cfg (u.setMon m) := hu
  have hgood {u : State} (hu : EngineKept cfg u) : EngineKept cfg (goodVerdict u) := by
    unfold goodVerdict
    split
    · exact hset _ hu
    · split
      · exact hset _ hu
      · exact engineKept_triggerComputation _ (hset _ hu)
  have hbad {u : State} (hu : EngineKept cfg u) : EngineKept cfg (badVerdict u) := by
    unfold badVerdict
    dsimp only
    split
    · exact engineKept_triggerComputation _ (requestInActive_keeps (fun q _ _ => engineKept_suspendStation q) (hset _ hu))
    · exact engineKept_triggerComputation _ (hset _ hu)
  have hcounted (good : Bool) (meanD : Int) : EngineKept cfg (startJudging (countVerdict good meanD s)) :=
    engineKept_congr (by simp) (by simp) h
  unfold endJudgePeriod
  dsimp only
  split
  · exact hgood (hcounted _ _)
  · exact hbad (hcounted _ _)

theorem engineKept_storeState {b : StateBody} {s : State} (hrange : stateInRange b = true) (h : EngineKept cfg s) :
    EngineKept cfg (storeState b s) := by
  obtain ⟨hconfig, hcomp, -, hband⟩ := h
  simp only [stateInRange, Bool.and_eq_true, decide_eq_true_eq] at hrange
  exact ⟨by simpa [storeState_ctrl] using hconfig, hcomp, ⟨Nat.min_le_right _ _, hrange.1, hrange.2, by simp [storeState], by simp [storeState]⟩, hband⟩

theorem engineKept_storePrice {b : PriceBody} {s : State} (hrange : priceInRange b = true) (h : EngineKept cfg s) :
    EngineKept cfg (storePrice b s) := by
  obtain ⟨hconfig, hcomp, henergy, -⟩ := h
  simp only [priceInRange, Bool.and_eq_true, decide_eq_true_eq] at hrange
  exact ⟨hconfig, hcomp, henergy, hrange⟩

theorem engineKept_endMeasurement {s : State} (h : EngineKept cfg s) : EngineKept cfg (endMeasurement s) := by
  obtain ⟨hconfig, hcomp, ⟨hhost, hfloor, hceil, -, -⟩, hband⟩ := h
  obtain ⟨hlow, hhigh⟩ := clampInt_bounds (lo := -2147483648) (hi := 2147483647) (s.pledge.acc + (roundDiv s.mon.samples 1000 +
    baselineOf s.ctrl.config (pruneEntries s.clock.current s.pledge) s.clock.current)) (by decide)
  exact ⟨hconfig, hcomp, ⟨hhost, hfloor, hceil, hlow, hhigh⟩, hband⟩

theorem engineKept_reset (cfg : StationConfig) : EngineForm cfg PledgeEngine.reset := by
  refine ⟨nofun, ?_, ?_⟩ <;> decide

theorem engineKept_returnToUnjoined {s : State} (h : EngineKept cfg s) : EngineKept cfg (returnToUnjoined s) := by
  obtain ⟨hconfig, -, henergy, hband⟩ := h
  refine ⟨by simpa using hconfig, ?_⟩
  simp only [returnToUnjoined, recompute_frame, State.setMon_pledge, State.setEntryDue_pledge, State.setLine_pledge,
    State.setPledge_pledge, State.setCtrl_pledge, handInterval_frame]
  exact ⟨nofun, henergy, hband⟩

theorem engineKept_endTransmission {s : State} (h : EngineKept cfg s) : EngineKept cfg (endTransmission s) := by
  have hline (l : LineInterface) : EngineKept cfg (s.setLine l) := h
  unfold endTransmission
  split
  · exact hline _
  · dsimp only
    split
    · exact engineKept_returnToUnjoined (hline _)
    · exact hline _

theorem engineKept_reachStaleLimit {s : State} (h : EngineKept cfg s) : EngineKept cfg (reachStaleLimit s) := by
  unfold reachStaleLimit
  dsimp only
  split
  · refine engineKept_triggerComputation _ (engineKept_congr (s := s) ?_ ?_ h) <;> simp
  · exact h

theorem engineKept_effect {i : Instr} {s t : State} (h : EngineKept cfg s) (heffect : Effect i s t) :
    t = powerOnState s ∨ (∃ items, s.ctrl.station = .unjoined ∧ t = storeConfiguration items s) ∨ EngineKept cfg t := by
  cases heffect with
  | powerOn => exact .inl rfl
  | configure x hi items hstation => exact .inr (.inl ⟨items, hstation, rfl⟩)
  | restart => exact .inr (.inr ⟨h.1, engineKept_reset cfg⟩)
  | join =>
    refine .inr (.inr (joinStation_preserves (fun _ => engineKept_triggerComputation _) (engineKept_enterListening ?_)))
    exact ⟨h.1, h.2⟩
  | leave => exact .inr (.inr (engineKept_returnToUnjoined h))
  | leaveSuspended => exact .inr (.inr (engineKept_congr (by simp) (by simp) (engineKept_returnToUnjoined h)))
  | clearSuspend =>
    refine .inr (.inr (clearSuspension_preserves (fun _ => engineKept_triggerComputation _) (engineKept_enterListening ?_)))
    exact h
  | setClock | rebuild => exact .inr (.inr (engineKept_performRebuild _ _ h))
  | setState x hi b hfree hrange =>
    exact .inr (.inr (takenState_preserves (fun _ => engineKept_startComputation _ _ _) (fun _ => engineKept_triggerComputation _)
      (engineKept_storeState hrange h)))
  | setBaseline b => exact .inr (.inr (takenSetting_preserves (fun _ => engineKept_startComputation _ _ _) h))
  | setPrice b hfree hrange =>
    exact .inr (.inr (takenSetting_preserves (fun _ => engineKept_startComputation _ _ _) (engineKept_storePrice hrange h)))
  | setAvailability b =>
    refine .inr (.inr (takenSetting_preserves (fun _ => engineKept_startComputation _ _ _) ⟨by simpa using h.1, ?_⟩))
    rw [storeAvailability_pledge]
    exact h.2
  | boundary => exact .inr (.inr (engineKept_naturalBoundary h))
  | markBoundary m => exact .inr (.inr (engineKept_performMarkBoundary m h))
  | endComputation c => exact .inr (.inr (engineKept_endComputation c h))
  | refresh => exact .inr (.inr (engineKept_triggerComputation _ h))
  | enterActive => exact .inr (.inr (engineKept_enterActive h))
  | staleLimit => exact .inr (.inr (engineKept_reachStaleLimit h))
  | endMeasurement => exact .inr (.inr (engineKept_endMeasurement h))
  | endJudgePeriod => exact .inr (.inr (engineKept_endJudgePeriod h))
  | endTransmission => exact .inr (.inr (engineKept_endTransmission h))
  | _ => exact .inr (.inr (engineKept_congr (by simp) (by simp) h))

/-! ### The laws together -/

/-- The premises of O56. -/
def PledgeLaws (s : State) : Prop :=
  UnjoinedLaw s ∧ (∀ r ∈ s.table, PledgedForm s.ctrl.config r) ∧ EngineForm s.ctrl.config s.pledge

theorem pledgeLaws_iff (s : State) : PledgeLaws s ↔ UnjoinedLaw s ∧ PledgeLaw s ∧ EnergyLaw s ∧ BandLaw s := by
  simp only [PledgeLaws, PledgeLaw, EnergyLaw, BandLaw, PledgedForm, EngineForm, RatedBaselines]
  tauto

/-- Out of the cluster nothing is pledged and no computation is in flight. -/
theorem pledged_of_empty {s : State} (hempty : EmptyParts s) : (∀ r ∈ s.table, PledgedForm cfg r) ∧ ∀ x ∈ s.pledge.comp,
    RatedBaselines cfg x.baselines := by
  obtain ⟨htable, -, -, -, -, hcomp, -⟩ := hempty
  simp [htable, hcomp]

theorem pledgedRecords_effect {i : Instr} {s t : State} (h : PledgeLaws s) (heffect : Effect i s t) :
    ∀ r ∈ t.table, PledgedForm s.ctrl.config r := by
  obtain ⟨hunjoined, hrecords, hbaselines, -⟩ := h
  by_cases hunset : t = nextInterval s
  · simpa [hunset] using hrecords
  · have hafter : TableAfter False s t :=
      tableAfter_effect False.elim (.inr hunset) (fun hout => (hunjoined hout).2.2.2.2.2.2.1) heffect
    exact records_after hafter hrecords (fun _ _ => pledgedForm_move) (fun c hc _ => pledgedForm_written (hbaselines c hc))
      (fun _ hr => hr) pledgedForm_openRecord pledgedForm_rebuiltRecord

/-- What O56 concludes. -/
def PledgedLaws (s : State) : Prop := (∀ r ∈ s.table, PledgedForm s.ctrl.config r) ∧ EngineForm s.ctrl.config s.pledge

theorem pledgedLaws_effect {i : Instr} {s t : State} (h : PledgeLaws s) (heffect : Effect i s t) : PledgedLaws t := by
  obtain ⟨hunjoined, hrecords, hengine⟩ := id h
  rcases engineKept_effect ⟨rfl, hengine⟩ heffect with rfl | ⟨items, hout, rfl⟩ | ⟨hconfig, hengine'⟩
  · exact ⟨by simp [powerOnState, State.reset], engineKept_reset _⟩
  · obtain ⟨-, henergy, hband⟩ := hengine
    have hempty : EmptyParts (storeConfiguration items s) :=
      emptyParts_congr (by simp) (by simp) (by simp) (by simp) (hunjoined hout)
    obtain ⟨hrecords', hcomp'⟩ := pledged_of_empty (cfg := (storeConfiguration items s).ctrl.config) hempty
    exact ⟨hrecords', hcomp', by simpa using henergy, by simpa using hband⟩
  · have hrecords' := pledgedRecords_effect h heffect
    exact ⟨hconfig ▸ hrecords', hconfig ▸ hengine'⟩

theorem pledgedLaws_tick {s : State} (h : PledgeLaws s) : PledgedLaws (tick s) := by
  obtain ⟨-, hrecords, hcomp, henergy, hband⟩ := h
  refine ⟨(tableMoves_tick False False s).forall (fun _ _ => pledgedForm_move) hrecords, fun x hx => ?_, henergy, hband⟩
  obtain ⟨c, hc, rfl⟩ := Option.mem_map.mp hx
  exact hcomp c hc

/-- Settles O56: every pledge is formed by the quantum from baselines within the ratings; the ratings change out of the cluster
alone, where nothing is pledged. -/
theorem pledgesKeptInForm : Obligations.PledgesKeptInForm := by
  unfold Obligations.PledgesKeptInForm
  intro s t hs h
  rw [← pledgeLaws_iff] at hs
  have hkept : PledgedLaws t := by
    refine step_keeps (P := PledgeLaws) (fun _ _ hu => hu) (fun _ _ hu => hu) (fun _ => pledgedLaws_tick) ?_ hs h
    refine exec_keeps (fun u v hsame hu => ?_) (fun u v hsame hu => ?_) fun _ _ _ => pledgedLaws_effect
    · obtain ⟨_, _, rfl⟩ := hsame
      exact hu
    · obtain ⟨_, _, rfl⟩ := hsame
      exact hu
  obtain ⟨hrecords, hcomp, henergy, hband⟩ := hkept
  exact ⟨⟨hrecords, hcomp⟩, henergy, hband⟩

end Sys2Proof.Machine

/-! PROOFS. Every step keeps the setpoint what its inputs give, and the held D the D formed last (R143 to R147). -/

namespace Sys2Proof.Machine

/-! ### The held D -/

/-- A changed D is handed over, so the held D follows the D formed (R147). -/
theorem heldDelta_recompute {s : State} (h : HeldDeltaLaw s) : HeldDeltaLaw (recompute s) := by
  unfold HeldDeltaLaw at h ⊢
  unfold recompute
  dsimp only
  split
  next hsame => simpa [hsame] using h
  next =>
    unfold handOverDelta
    dsimp only
    split <;> simp [startSettling]

/-- What the setpoint is formed from, where the station is ACTIVE. -/
def SameInputs (s t : State) : Prop :=
  isActive t = isActive s ∧ t.ctrl.config = s.ctrl.config ∧ ∀ d, runningTake t.table d = runningTake s.table d

/-- The setpoint's own figures stand: what is formed, what it is formed from, and the held D. -/
def SameSetpoint (s t : State) : Prop :=
  (t.act.level = s.act.level ∧ t.act.dir = s.act.dir ∧ t.act.delta = s.act.delta ∧ t.act.duty = s.act.duty ∧
    t.act.heldFreq = s.act.heldFreq ∧ t.act.heldState = s.act.heldState) ∧ t.mon.heldD = s.mon.heldD

/-- The setpoint in form: what its inputs give, and handed over. -/
def SetpointForm (s : State) : Prop := ActivationLaw s ∧ HeldDeltaLaw s

theorem setpointForm_recompute {s : State} (h : HeldDeltaLaw s) : SetpointForm (recompute s) :=
  ⟨recompute_activation s, heldDelta_recompute h⟩

/-- Outside ACTIVE the setpoint is neutral, whatever else is held. -/
theorem formed_of_inactive {s : State} (h : isActive s = false) :
    formedLevel s = (0, none) ∧ formedDelta s = 0 ∧ formedDuty s = Config.neutralDuty := by
  have hlevel : formedLevel s = (0, none) := by simp [formedLevel, h]
  have hdelta : formedDelta s = 0 := by simp [formedDelta, hlevel, setpointDelta]
  exact ⟨hlevel, hdelta, by simp [formedDuty, hdelta, dutyFor]⟩

theorem activationLaw_of_inactive {s : State} (h : isActive s = false) :
    ActivationLaw s ↔ s.act.level = 0 ∧ s.act.dir = none ∧ s.act.delta = 0 ∧ s.act.duty = Config.neutralDuty := by
  obtain ⟨hlevel, hdelta, hduty⟩ := formed_of_inactive h
  rw [ActivationLaw, hlevel, hdelta, hduty]

theorem setpointForm_of_inactive {s t : State} (hs : isActive s = false) (ht : isActive t = false) (hsame : SameSetpoint s t)
    (h : SetpointForm s) : SetpointForm t := by
  obtain ⟨hact, hheld⟩ := h
  obtain ⟨⟨hlevel, hdir, hdelta, hduty, -, -⟩, hmon⟩ := hsame
  refine ⟨?_, ?_⟩
  · rw [activationLaw_of_inactive ht, hlevel, hdir, hdelta, hduty]
    exact (activationLaw_of_inactive hs).mp hact
  · rwa [HeldDeltaLaw, hmon, hdelta]

theorem setpointForm_congr {s t : State} (hinputs : SameInputs s t) (hphase : t.act.phase = s.act.phase) (hsame : SameSetpoint s t)
    (h : SetpointForm s) : SetpointForm t := by
  obtain ⟨⟨alevel, adir, adelta, aduty⟩, hheld⟩ := h
  obtain ⟨hactive, hconfig, htakes⟩ := hinputs
  obtain ⟨⟨hlevel, hdir, hdelta, hduty, hfreq, hstate⟩, hmon⟩ := hsame
  have hformed : formedLevel t = formedLevel s := by
    unfold formedLevel
    rw [hactive, hstate, hfreq, hconfig, hphase]
  have hformedDelta : formedDelta t = formedDelta s := by
    unfold formedDelta
    rw [hformed]
    cases (formedLevel s).2 with
    | none => rfl
    | some d => simp only [takeToward, htakes]
  have hformedDuty : formedDuty t = formedDuty s := by
    unfold formedDuty
    rw [hformedDelta, hconfig]
  refine ⟨⟨?_, ?_, ?_, ?_⟩, ?_⟩
  · rw [hformed, hlevel, alevel]
  · rw [hformed, hdir, adir]
  · rw [hformedDelta, hdelta, adelta]
  · rw [hformedDuty, hduty, aduty]
  · rwa [HeldDeltaLaw, hmon, hdelta]

/-- Nothing the setpoint reads has changed. -/
theorem setpointForm_of_frame {s t : State} (hctrl : t.ctrl = s.ctrl) (htable : t.table = s.table) (hact : t.act = s.act)
    (hmon : t.mon.heldD = s.mon.heldD) (h : SetpointForm s) : SetpointForm t :=
  setpointForm_congr ⟨by simp [isActive, hctrl], by rw [hctrl], by simp [htable]⟩ (by rw [hact])
    ⟨by simp [hact], hmon⟩ h

/-! ### The running take -/

/-- Changes that leave state, direction and take of the RUNNING records leave the running take. -/
theorem runningTake_map {f : CRecord → CRecord} {table : List CRecord} (d : Direction)
    (hstate : ∀ r ∈ table, ((f r).state = .running ↔ r.state = .running) ∧ (f r).dir = r.dir)
    (htake : ∀ r ∈ table, r.state = .running → (f r).take = r.take) :
    runningTake (table.map f) d = runningTake table d := by
  induction table with
  | nil => rfl
  | cons r rest ih =>
    obtain ⟨⟨hrunning, hdir⟩, hrest⟩ := List.forall_mem_cons.mp hstate
    obtain ⟨hhead, htail⟩ := List.forall_mem_cons.mp htake
    have ih' := ih hrest htail
    unfold runningTake at ih' ⊢
    simp only [List.map_cons, List.find?_cons]
    by_cases hr : r.state = .running ∧ r.dir = d
    · have hf : (f r).state = .running ∧ (f r).dir = d := ⟨hrunning.mpr hr.1, hdir.trans hr.2⟩
      simp [hr, hf, hhead hr.1]
    · have hf : ¬ ((f r).state = .running ∧ (f r).dir = d) := by
        rwa [hrunning, hdir]
      have hr' : (r.state == .running && r.dir == d) = false := by simpa [Bool.and_eq_true] using hr
      have hf' : ((f r).state == .running && (f r).dir == d) = false := by simpa [Bool.and_eq_true] using hf
      rw [hr', hf']
      exact ih'

theorem setpointForm_table {s : State} {table : List CRecord} (htakes : ∀ d, runningTake table d = runningTake s.table d)
    (h : SetpointForm s) : SetpointForm (s.setTable table) :=
  setpointForm_congr (s := s) (t := s.setTable table) ⟨rfl, rfl, htakes⟩ rfl ⟨⟨rfl, rfl, rfl, rfl, rfl, rfl⟩, rfl⟩ h

theorem runningTake_updRec {s : State} {k : Word} {d : Direction} {f : CRecord → CRecord} (e : Direction)
    (hstate : ∀ r, ((f r).state = .running ↔ r.state = .running) ∧ (f r).dir = r.dir)
    (htake : ∀ r ∈ s.table, r.is k d = true → r.state = .running → (f r).take = r.take) :
    runningTake (s.updRec k d f).table e = runningTake s.table e := by
  refine runningTake_map e (fun r _ => ?_) fun r hr hrunning => ?_
  · by_cases hkey : r.is k d = true
    · simpa [hkey] using hstate r
    · simp [hkey]
  · by_cases hkey : r.is k d = true
    · simpa [hkey] using htake r hr hkey hrunning
    · simp [hkey]

/-! ### The operations of the Allocation Unit -/

/-- The setpoint is in form, and each record stands under a key of its own. -/
def SetpointKeyed (s : State) : Prop := SetpointForm s ∧ (recordKeys s.table).Nodup

theorem setpointKeyed_of_frame {s t : State} (hctrl : t.ctrl = s.ctrl) (htable : t.table = s.table) (hact : t.act = s.act)
    (hmon : t.mon.heldD = s.mon.heldD) (h : SetpointKeyed s) : SetpointKeyed t :=
  ⟨setpointForm_of_frame hctrl htable hact hmon h.1, htable ▸ h.2⟩

theorem setpointKeyed_recompute {s : State} (hheld : HeldDeltaLaw s) (hkeys : (recordKeys s.table).Nodup) :
    SetpointKeyed (recompute s) := ⟨setpointForm_recompute hheld, by simpa using hkeys⟩

theorem recordKeys_updRec {s : State} {k : Word} {d : Direction} {f : CRecord → CRecord}
    (hkey : ∀ r, (f r).interval = r.interval ∧ (f r).dir = r.dir) : recordKeys (s.updRec k d f).table = recordKeys s.table :=
  recordKeys_mapRec k d f s.table hkey

theorem nodup_updRec {s : State} {k : Word} {d : Direction} {f : CRecord → CRecord}
    (hkey : ∀ r, (f r).interval = r.interval ∧ (f r).dir = r.dir) (h : (recordKeys s.table).Nodup) :
    (recordKeys (s.updRec k d f).table).Nodup := by rwa [recordKeys_updRec hkey]

theorem setpointKeyed_updRec {s : State} {k : Word} {d : Direction} {f : CRecord → CRecord}
    (hkey : ∀ r, (f r).interval = r.interval ∧ (f r).dir = r.dir) (hstate : ∀ r, (f r).state = .running ↔ r.state = .running)
    (htake : ∀ r ∈ s.table, r.is k d = true → r.state = .running → (f r).take = r.take) (h : SetpointKeyed s) :
    SetpointKeyed (s.updRec k d f) := by
  refine ⟨setpointForm_table (s := s) (fun e => ?_) h.1, nodup_updRec hkey h.2⟩
  exact runningTake_updRec e (fun r => ⟨hstate r, (hkey r).2⟩) htake

theorem setpointKeyed_noteTakeChange {s : State} {k : Word} {d : Direction} (running : Bool) (hheld : HeldDeltaLaw s)
    (hkeys : (recordKeys s.table).Nodup) (h : running = false → SetpointKeyed s) : SetpointKeyed (noteTakeChange k d running s) := by
  have hkeys' : (recordKeys (s.updRec k d fun r => { r with hold := some (holdMs s.ctrl.config) }).table).Nodup :=
    nodup_updRec (fun _ => ⟨rfl, rfl⟩) hkeys
  cases running with
  | true =>
    refine setpointKeyed_recompute (s := raiseEvent .take _) ?_ (by simpa using hkeys')
    simpa [HeldDeltaLaw] using hheld
  | false =>
    have hnoted := setpointKeyed_updRec (k := k) (d := d) (f := fun r => { r with hold := some (holdMs s.ctrl.config) })
      (fun _ => ⟨rfl, rfl⟩) (fun _ => Iff.rfl) (fun _ _ _ _ => rfl) (h rfl)
    exact setpointKeyed_of_frame (t := raiseEvent .take _) (by simp) (by simp) (by simp) (by simp) hnoted

theorem setpointKeyed_changeTake {s : State} {k : Word} {d : Direction} {r : CRecord} (n : Nat)
    (hr : findRec s.table k d = some r) (h : SetpointKeyed s) : SetpointKeyed (changeTake k d n s) := by
  have hkeys : (recordKeys (s.updRec k d fun r => r.withTake n).table).Nodup :=
    nodup_updRec (fun _ => ⟨rfl, rfl⟩) h.2
  unfold changeTake
  rw [hr]
  dsimp only
  split
  · exact h
  · refine setpointKeyed_noteTakeChange _ h.1.2 hkeys fun hnot => ?_
    refine setpointKeyed_updRec (fun _ => ⟨rfl, rfl⟩) (fun _ => Iff.rfl) (fun x hx hkey hrunning => ?_) h
    obtain rfl := eq_of_findRec h.2 hr hx hkey
    simp [hrunning] at hnot

theorem withApplied_running (r : CRecord) (band : Nat) (a : Award) :
    ((r.withApplied band a).state = .running ↔ r.state = .running) ∧ (r.withApplied band a).take = r.take ∧
    (r.withApplied band a).interval = r.interval ∧ (r.withApplied band a).dir = r.dir := by
  unfold CRecord.withApplied
  split <;> simp_all [CRecord.freeze]

theorem setpointKeyed_allocation : AllocationKeeps SetpointKeyed where
  raise _ _ h := setpointKeyed_of_frame (by simp) (by simp) (by simp) (by simp) h
  entryDue _ _ h := setpointKeyed_of_frame rfl rfl rfl rfl h
  enqueueTake _ _ _ _ _ h := setpointKeyed_of_frame (by simp) (by simp) (by simp) (by simp) h
  changeTake _ _ _ _ n hr _ _ _ h := setpointKeyed_changeTake n hr h
  setEvalPending _ _ _ _ _ h := setpointKeyed_updRec (fun _ => ⟨rfl, rfl⟩) (fun _ => Iff.rfl) (fun _ _ _ _ => rfl) h
  applied s _ d _ a _ h :=
    setpointKeyed_updRec (fun r => (withApplied_running r (bandOf s.pledge d) a).2.2) (fun r => (withApplied_running r _ a).1)
      (fun r _ _ _ => (withApplied_running r _ a).2.1) h
  replaced _ _ _ _ _ _ _ _ h := setpointKeyed_updRec (fun _ => ⟨rfl, rfl⟩) (fun _ => Iff.rfl) (fun _ _ _ _ => rfl) h

/-! ### The operations of the other blocks -/

theorem heldDelta_congr {s t : State} (hact : t.act.delta = s.act.delta) (hmon : t.mon.heldD = s.mon.heldD) (h : HeldDeltaLaw s) :
    HeldDeltaLaw t := by
  unfold HeldDeltaLaw at h ⊢
  rw [hact, hmon, h]

theorem setpointForm_raiseEvent (e : Event) {s : State} (h : SetpointForm s) : SetpointForm (raiseEvent e s) :=
  setpointForm_of_frame (by simp) (by simp) (by simp) (by simp) h

/-- A withdrawal ends with a recomputation. -/
theorem setpointForm_withdrawProcedure (q : Reason) (sel : CRecord → Bool) {s : State} (h : HeldDeltaLaw s) :
    SetpointForm (withdrawProcedure q sel s) := by
  unfold withdrawProcedure
  refine setpointForm_recompute (heldDelta_congr (s := s) ?_ ?_ h) <;> simp

theorem setpointForm_suspendStation (q : SuspendReason) {s : State} (h : HeldDeltaLaw s) : SetpointForm (suspendStation q s) := by
  have hleft (c : Controller) : HeldDeltaLaw ((leaveActive s).setCtrl c) :=
    heldDelta_congr (s := s) (by simp) (by simp [leaveActive, stopWindow]) h
  unfold suspendStation
  dsimp only
  exact setpointForm_raiseEvent _ (setpointForm_withdrawProcedure _ _ (hleft _))

theorem setpointForm_requestInActive (q : SuspendReason) {s : State} (h : SetpointForm s) : SetpointForm (requestInActive q s) :=
  requestInActive_keeps (fun q _ _ hu => setpointForm_suspendStation q hu.2) h

theorem setpointForm_requestSupply {s : State} (h : SetpointForm s) : SetpointForm (requestSupply s) :=
  requestSupply_keeps (fun q _ _ hu => setpointForm_suspendStation q hu.2) h

theorem setpointForm_triggerComputation (r : Bool) {s : State} (h : SetpointForm s) : SetpointForm (triggerComputation r s) :=
  setpointForm_of_frame (by simp) (by simp) (by simp) (by simp) h

theorem setpointForm_startComputation (b r p : Bool) {s : State} (h : SetpointForm s) : SetpointForm (startComputation b r p s) :=
  setpointForm_of_frame (by simp) (by simp) (by simp) (by simp) h

theorem heldD_beginJudging (s : State) : (beginJudging s).mon.heldD = s.mon.heldD := by
  unfold beginJudging
  split <;> simp [startSettling]

theorem setpointForm_enterActive {s : State} (h : SetpointForm s) : SetpointForm (enterActive s) := by
  have hentered : SetpointForm (recompute (beginStale ((s.setCtrl { s.ctrl with station := .active, listening := none }).setEntryDue true))) := by
    refine setpointForm_recompute (heldDelta_congr (s := s) ?_ ?_ h.2) <;> simp
  generalize hu : recompute _ = u at hentered
  have hbegun : SetpointForm (triggerComputation false (beginJudging u)) :=
    setpointForm_triggerComputation _ (setpointForm_of_frame (by simp) (by simp) (by simp) (heldD_beginJudging u) hentered)
  unfold enterActive
  dsimp only
  rw [hu]
  refine entryRequests_keeps (fun q _ _ hv => setpointForm_suspendStation q hv.2)
    (fun u n hv => setpointForm_of_frame (by simp) (by simp) (by simp) (by simp) hv) ?_
  split
  · exact setpointForm_triggerComputation _ hbegun
  · exact hbegun

theorem setpointForm_supplyWhenFiltered {s : State} (h : SetpointForm s) : SetpointForm (supplyWhenFiltered s) :=
  supplyWhenFiltered_keeps (fun q _ _ hu => setpointForm_suspendStation q hu.2) h

theorem setpointForm_beginLeaving {s : State} (h : HeldDeltaLaw s) : SetpointForm (beginLeaving s) := by
  unfold beginLeaving
  exact setpointForm_withdrawProcedure _ _ (heldDelta_congr (s := s) (by simp) (by simp [leaveActive, stopWindow]) h)

theorem setpointForm_returnToUnjoined {s : State} (h : HeldDeltaLaw s) : SetpointForm (returnToUnjoined s) := by
  unfold returnToUnjoined
  refine setpointForm_recompute (heldDelta_congr (s := s) ?_ ?_ h) <;> simp

theorem setpointForm_clearErrors {s : State} (h : SetpointForm s) : SetpointForm (clearErrors s) :=
  setpointForm_of_frame (t := clearErrors s) rfl rfl rfl rfl h

/-- The entry into LISTENING from a state that is not ACTIVE. -/
theorem setpointForm_enterListening {s : State} (hinactive : isActive s = false) (h : SetpointForm s) :
    SetpointForm (enterListening s) := by
  unfold enterListening
  exact setpointForm_supplyWhenFiltered (setpointForm_of_inactive (s := s) hinactive rfl ⟨⟨rfl, rfl, rfl, rfl, rfl, rfl⟩, rfl⟩ h)

theorem setpointForm_joinStation {s : State} (haccepted : joinRefusal s = none) (h : SetpointForm s) :
    SetpointForm (joinStation s) := by
  have hinactive : isActive s = false := by simp [isActive, (joinRefusal_none haccepted).1]
  refine joinStation_preserves (fun _ => setpointForm_triggerComputation _) (setpointForm_enterListening ?_ ?_)
  · exact hinactive
  · exact setpointForm_of_inactive (s := s) hinactive hinactive ⟨⟨rfl, rfl, rfl, rfl, rfl, rfl⟩, rfl⟩ h

theorem setpointForm_clearSuspension {s : State} (hstation : s.ctrl.station = .suspended) (h : SetpointForm s) :
    SetpointForm (clearSuspension s) := by
  have hinactive : isActive s = false := by simp [isActive, hstation]
  exact clearSuspension_preserves (fun _ => setpointForm_triggerComputation _)
    (setpointForm_enterListening (s := clearErrors s) hinactive (setpointForm_clearErrors h))

theorem setpointForm_powerOnState (s : State) : SetpointForm (powerOnState s) := by
  refine ⟨(activationLaw_of_inactive rfl).mpr ?_, rfl⟩
  exact ⟨rfl, rfl, rfl, rfl⟩

theorem setpointForm_restartState (s : State) : SetpointForm (restartState s) := by
  refine ⟨(activationLaw_of_inactive rfl).mpr ?_, rfl⟩
  exact ⟨rfl, rfl, rfl, rfl⟩

/-! ### The Frequency Meter -/

theorem setpointForm_setFreq (f : FrequencyMeter) {s : State} (h : SetpointForm s) : SetpointForm (s.setFreq f) :=
  setpointForm_of_frame (s := s) (t := s.setFreq f) rfl rfl rfl rfl h

theorem setpointForm_handOverInvalid {s : State} (h : HeldDeltaLaw s) : SetpointForm (handOverInvalid s) :=
  setpointForm_recompute (s := s.setAct _) h

theorem setpointForm_invalidPeriod {s : State} (h : SetpointForm s) : SetpointForm (invalidPeriod s) := by
  unfold invalidPeriod
  split
  · split
    · exact setpointForm_handOverInvalid (setpointForm_raiseEvent _ (setpointForm_setFreq _ h)).2
    · exact setpointForm_setFreq _ h
  · exact setpointForm_setFreq _ h

theorem setpointForm_invalidPeriods (n : Nat) {s : State} (h : SetpointForm s) : SetpointForm (invalidPeriods n s) := by
  induction n generalizing s with
  | zero => exact h
  | succ n ih => exact ih (setpointForm_invalidPeriod h)

theorem setpointForm_recordMisses (count : Nat) {s : State} (h : SetpointForm s) : SetpointForm (recordMisses count s) := by
  unfold recordMisses
  dsimp only
  split
  · exact h
  · exact setpointForm_invalidPeriods _ (setpointForm_setFreq _ h)

theorem setpointForm_validPeriod (n : Nat) {s : State} (h : SetpointForm s) : SetpointForm (validPeriod n s) := by
  unfold validPeriod
  dsimp only
  split
  · exact setpointForm_recompute (s := State.setAct _ _) (setpointForm_setFreq _ (setpointForm_setFreq _ h)).2
  · exact setpointForm_setFreq _ h

theorem setpointForm_takeCrossing (count : Nat) {s : State} (h : SetpointForm s) : SetpointForm (takeCrossing count s) := by
  unfold takeCrossing crossingFrom newReference
  split
  · split
    · exact h
    · exact setpointForm_setFreq _ (setpointForm_invalidPeriod h)
    · exact setpointForm_setFreq _ (setpointForm_validPeriod _ h)
    · exact setpointForm_setFreq _ (setpointForm_invalidPeriod h)
  · exact setpointForm_setFreq _ h

/-- A CONFIGURE is stored in UNJOINED, where the setpoint is neutral. -/
theorem setpointForm_storeConfiguration (items : List Item) {s : State} (hstation : s.ctrl.station = .unjoined) (h : SetpointForm s) :
    SetpointForm (storeConfiguration items s) := by
  have hinactive : isActive s = false := by simp [isActive, hstation]
  have hstored (c : StationConfig) : SetpointForm (s.setCtrl { s.ctrl with config := c }) :=
    setpointForm_of_inactive (s := s) hinactive hinactive ⟨⟨rfl, rfl, rfl, rfl, rfl, rfl⟩, rfl⟩ h
  have hreset : SetpointForm (thresholdReset items (s.setCtrl { s.ctrl with config := storeItems items s.ctrl.config })) := by
    unfold thresholdReset
    split
    · exact setpointForm_clearErrors (hstored _)
    · exact hstored _
  unfold storeConfiguration meterReconfigured
  dsimp only
  split
  · exact hreset
  · split
    · exact setpointForm_handOverInvalid (setpointForm_raiseEvent _ (setpointForm_setFreq _ hreset)).2
    · exact setpointForm_setFreq _ hreset

/-! ### Boundaries and rebuilds -/

theorem heldDelta_performBoundary {s : State} (h : HeldDeltaLaw s) : HeldDeltaLaw (performBoundary s) := by
  unfold performBoundary
  refine heldDelta_recompute (heldDelta_congr (s := s) ?_ ?_ h) <;> simp

theorem heldDelta_boundaryAtTable {s : State} (h : HeldDeltaLaw s) : HeldDeltaLaw (boundaryAtTable s) := by
  unfold boundaryAtTable
  split
  · split
    · exact h
    · exact heldDelta_congr (by simp) (by simp) (heldDelta_performBoundary h)
  · exact h

theorem setpointForm_issueBoundary {s : State} (h : HeldDeltaLaw s) : SetpointForm (issueBoundary s) := by
  unfold issueBoundary
  refine setpointForm_recompute (heldDelta_boundaryAtTable (heldDelta_congr (s := s) ?_ ?_ h)) <;> simp [recomputePhase]

theorem setpointForm_setClock (c : IntervalClock) {s : State} (h : SetpointForm s) : SetpointForm (s.setClock c) :=
  setpointForm_of_frame (s := s) (t := s.setClock c) rfl rfl rfl rfl h

theorem setpointForm_naturalBoundary {s : State} (h : SetpointForm s) : SetpointForm (naturalBoundary s) := by
  unfold naturalBoundary
  split
  · exact setpointForm_issueBoundary (setpointForm_setClock _ h).2
  · exact setpointForm_setClock _ h

theorem setpointForm_performMarkBoundary (m : ForwardMark) {s : State} (h : SetpointForm s) : SetpointForm (performMarkBoundary m s) := by
  unfold performMarkBoundary replaceSecond
  dsimp only
  split
  · exact setpointForm_setClock _ (setpointForm_issueBoundary (setpointForm_setClock _ (setpointForm_setClock _ h)).2)
  · exact setpointForm_issueBoundary (setpointForm_setClock _ (setpointForm_setClock _ h)).2

theorem setpointForm_performRebuild (k : Word) (n : Nat) {s : State} (h : HeldDeltaLaw s) : SetpointForm (performRebuild k n s) := by
  unfold performRebuild
  refine setpointForm_recompute (heldDelta_congr (s := s) ?_ ?_ h)
  · split <;> simp [recomputePhase, setClockTo]
  · split <;> simp [setClockTo]

/-! ### The end of a computation -/

/-- Which pairs are RUNNING stands, since an award makes no record RUNNING and none other. -/
theorem runningPairs_of_moves {t u : List CRecord} {Allocating Keyed : Prop} (h : TableMoves Allocating Keyed t u) :
    u.map (fun r => (r.interval, r.dir, r.state == .running)) = t.map (fun r => (r.interval, r.dir, r.state == .running)) := by
  induction h with
  | nil => rfl
  | @cons r x t u hhead _ ih =>
    have hpair : (x.interval, x.dir, x.state == .running) = (r.interval, r.dir, r.state == .running) := by
      refine hhead.keeps (L := fun y => (y.interval, y.dir, y.state == .running) = (r.interval, r.dir, r.state == .running))
        (fun y z hy hmove => ?_) rfl
      have hstate : (z.state == .running) = (y.state == .running) := by
        rcases hmove.state with hsame | ⟨hbefore | hbefore, hafter⟩
        · rw [hsame]
        · rw [hbefore, hafter]; rfl
        · rw [hbefore, hafter]; rfl
      rw [hmove.key.1, hmove.key.2, hstate, hy]
    rw [List.map_cons, List.map_cons, hpair, ih]

/-- Whether the record of a pair is RUNNING. -/
def RunsAt (s : State) (kd : Word × Direction) : Prop := ∃ r, findRec s.table kd.1 kd.2 = some r ∧ r.state = .running

theorem runsAt_of_moves {s u : State} {Allocating Keyed : Prop} (hkeys : (recordKeys s.table).Nodup)
    (h : TableMoves Allocating Keyed s.table u.table) {kd : Word × Direction} (hruns : RunsAt s kd) : RunsAt u kd := by
  obtain ⟨r, hr, hrunning⟩ := hruns
  obtain ⟨hmem, hinterval, hdir⟩ := findRec_some hr
  have hpair : (kd.1, kd.2, true) ∈ u.table.map fun r => (r.interval, r.dir, r.state == .running) := by
    rw [runningPairs_of_moves h]
    exact List.mem_map.mpr ⟨r, hmem, by simp [hrunning, hinterval, hdir]⟩
  obtain ⟨x, hx, heq⟩ := List.mem_map.mp hpair
  obtain ⟨hxinterval, hxdir, hxrunning⟩ : x.interval = kd.1 ∧ x.dir = kd.2 ∧ x.state = .running := by simpa using heq
  exact ⟨x, hxinterval ▸ hxdir ▸ findRec_of_mem (h.keys ▸ hkeys) hx, hxrunning⟩

theorem setpointKeyed_enqueue (k : NoticeKey) (w : Option WithdrawContent) {s : State} (h : SetpointKeyed s) :
    SetpointKeyed (enqueue k w s) := setpointKeyed_of_frame (by simp) (by simp) (by simp) (by simp) h

theorem setpointKeyed_noteLowered {s : State} {kd : Word × Direction} (hheld : HeldDeltaLaw s) (hkeys : (recordKeys s.table).Nodup)
    (h : ¬ RunsAt s kd → SetpointForm s) : SetpointKeyed (noteLowered s kd) := by
  unfold noteLowered
  refine setpointKeyed_allocation.triggerEvaluation kd (setpointKeyed_enqueue _ _
    (setpointKeyed_noteTakeChange _ hheld hkeys fun hnot => ⟨h fun ⟨r, hr, hrunning⟩ => ?_, hkeys⟩))
  simp [hr, hrunning] at hnot

/-- The held D follows D, and each record stands under a key of its own. -/
def HeldKeyed (s : State) : Prop := HeldDeltaLaw s ∧ (recordKeys s.table).Nodup

theorem heldKeyed_of_frame {s t : State} (htable : t.table = s.table) (hact : t.act = s.act) (hmon : t.mon.heldD = s.mon.heldD)
    (h : HeldKeyed s) : HeldKeyed t :=
  ⟨heldDelta_congr (by rw [hact]) hmon h.1, htable ▸ h.2⟩

theorem heldKeyed_updRec {s : State} {k : Word} {d : Direction} {f : CRecord → CRecord}
    (hkey : ∀ r, (f r).interval = r.interval ∧ (f r).dir = r.dir) (h : HeldKeyed s) : HeldKeyed (s.updRec k d f) :=
  ⟨h.1, nodup_updRec hkey h.2⟩

theorem heldKeyed_raiseEvent (e : Event) {s : State} (h : HeldKeyed s) : HeldKeyed (raiseEvent e s) :=
  heldKeyed_of_frame (by simp) (by simp) (by simp) h

theorem heldKeyed_enqueue (k : NoticeKey) (w : Option WithdrawContent) {s : State} (h : HeldKeyed s) : HeldKeyed (enqueue k w s) :=
  heldKeyed_of_frame (by simp) (by simp) (by simp) h

theorem heldKeyed_noteTakeChange (k : Word) (d : Direction) (running : Bool) {s : State} (h : HeldKeyed s) :
    HeldKeyed (noteTakeChange k d running s) := by
  have hnoted : HeldKeyed (raiseEvent .take (s.updRec k d fun r => { r with hold := some (holdMs s.ctrl.config) })) :=
    heldKeyed_raiseEvent _ (heldKeyed_updRec (f := fun r => { r with hold := some (holdMs s.ctrl.config) }) (fun _ => ⟨rfl, rfl⟩) h)
  unfold noteTakeChange
  dsimp only
  split
  · exact ⟨heldDelta_recompute hnoted.1, by simpa using hnoted.2⟩
  · exact hnoted

theorem heldKeyed_allocation : AllocationKeeps HeldKeyed where
  raise _ _ h := heldKeyed_raiseEvent _ h
  entryDue _ _ h := h
  enqueueTake _ _ _ _ _ h := heldKeyed_enqueue _ _ h
  changeTake s k d r n hr _ _ _ h := by
    unfold changeTake
    rw [hr]
    dsimp only
    split
    · exact h
    · exact heldKeyed_noteTakeChange k d _ (heldKeyed_updRec (f := fun r => r.withTake n) (fun _ => ⟨rfl, rfl⟩) h)
  setEvalPending _ _ _ _ _ h := heldKeyed_updRec (fun _ => ⟨rfl, rfl⟩) h
  applied s _ d _ a _ h := heldKeyed_updRec (fun r => (withApplied_running r (bandOf s.pledge d) a).2.2) h
  replaced _ _ _ _ _ _ _ _ h := heldKeyed_updRec (fun _ => ⟨rfl, rfl⟩) h

theorem heldKeyed_noteLowered (kd : Word × Direction) {s : State} (h : HeldKeyed s) : HeldKeyed (noteLowered s kd) := by
  unfold noteLowered
  exact heldKeyed_allocation.triggerEvaluation kd (heldKeyed_enqueue _ _ (heldKeyed_noteTakeChange _ _ _ h))

/-- A RUNNING record among the lowered brings its take to the setpoint; without one the setpoint stands. -/
theorem setpointKeyed_loweredNoted {pairs : Report} {s : State} (hheld : HeldKeyed s)
    (h : (¬ ∃ kd ∈ pairs, RunsAt s kd) → SetpointForm s) : SetpointKeyed (pairs.foldl noteLowered s) := by
  induction pairs generalizing s with
  | nil => exact ⟨h (by simp), hheld.2⟩
  | cons kd rest ih =>
    have hmoves : TableMoves True False s.table (noteLowered s kd).table :=
      (movedFrom_noteLowered nofun trivial kd (movedFrom_self fun _ => trivial)).2
    refine ih (heldKeyed_noteLowered kd hheld) fun hrest => (setpointKeyed_noteLowered hheld.1 hheld.2 fun hkd => h ?_).1
    rintro ⟨x, hx, hruns⟩
    rcases List.mem_cons.mp hx with rfl | hx
    · exact hkd hruns
    · exact hrest ⟨x, hx, runsAt_of_moves hheld.2 hmoves hruns⟩

theorem lowerCap_take (r : CRecord) (n : Nat) :
    ((r.lowerCap n).take = r.take ∨ (r.lowerCap n).take < r.take) ∧ (r.lowerCap n).state = r.state ∧
      (r.lowerCap n).interval = r.interval ∧ (r.lowerCap n).dir = r.dir := by
  unfold CRecord.lowerCap
  dsimp only
  split
  next hlt => exact ⟨.inr hlt, rfl, rfl, rfl⟩
  next => exact ⟨.inl rfl, rfl, rfl, rfl⟩

theorem writtenRecord_key (s : State) (c : Computation) (r : CRecord) :
    (writtenRecord s c r).interval = r.interval ∧ (writtenRecord s c r).dir = r.dir := by
  refine writtenRecord_preserves (L := fun x => x.interval = r.interval ∧ x.dir = r.dir) (fun _ => ⟨rfl, rfl⟩) (fun _ => ⟨rfl, rfl⟩)
    fun _ => (lowerCap_take r _).2.2

/-- The write makes no record RUNNING and leaves none that is. -/
theorem writtenRecord_running (s : State) (c : Computation) (r : CRecord) :
    (writtenRecord s c r).state = .running ↔ r.state = .running := by
  refine writtenRecord_preserves (L := fun x => x.state = .running ↔ r.state = .running) (fun hopen => ?_) (fun _ => Iff.rfl)
    fun _ => by rw [(lowerCap_take r _).2.1]
  simp [CRecord.freeze, hopen]

theorem writtenRecord_take (s : State) (c : Computation) (r : CRecord) :
    (writtenRecord s c r).take = r.take ∨ (writtenRecord s c r).take < r.take :=
  writtenRecord_preserves (L := fun x => x.take = r.take ∨ x.take < r.take) (fun _ => .inl rfl) (fun _ => .inl rfl)
    fun _ => (lowerCap_take r _).1

/-- Where no RUNNING record is lowered the single write leaves the setpoint. -/
theorem setpointForm_written {s : State} {c : Computation} (hkeys : (recordKeys s.table).Nodup) (h : SetpointForm s)
    (hnone : ¬ ∃ kd ∈ loweredPairs s c, RunsAt (s.setTable (writtenTable s c)) kd) : SetpointForm (s.setTable (writtenTable s c)) := by
  refine setpointForm_table (s := s) (fun d => runningTake_map d (fun r _ => ⟨writtenRecord_running s c r, (writtenRecord_key s c r).2⟩)
    fun r hr hrunning => (writtenRecord_take s c r).resolve_right fun hlowered => ?_) h
  obtain ⟨hinterval, hdir⟩ := writtenRecord_key s c r
  have hmem : writtenRecord s c r ∈ writtenTable s c := List.mem_map.mpr ⟨r, hr, rfl⟩
  have hfound := findRec_of_mem ((recordKeys_writtenTable s c).symm ▸ hkeys) hmem
  rw [hinterval, hdir] at hfound
  exact hnone ⟨(r.interval, r.dir), List.mem_map.mpr ⟨r, List.mem_filter.mpr ⟨hr, by simpa using hlowered⟩, rfl⟩,
    _, hfound, (writtenRecord_running s c r).mpr hrunning⟩

theorem setpointKeyed_setPledge (p : PledgeEngine) {s : State} (h : SetpointKeyed s) : SetpointKeyed (s.setPledge p) :=
  setpointKeyed_of_frame (s := s) (t := s.setPledge p) rfl rfl rfl rfl h

theorem setpointForm_afterWrite {s : State} (h : SetpointKeyed s) : SetpointForm (afterWrite s) := by
  unfold afterWrite
  dsimp only
  split
  · refine setpointForm_startComputation _ _ _ ?_
    unfold performBoundary
    exact setpointForm_recompute (heldDelta_congr (s := s) (by simp) (by simp) h.1.2)
  · split
    · exact setpointForm_startComputation _ _ _ (setpointKeyed_setPledge _ h).1
    · exact (setpointKeyed_allocation.lockEnds (setpointKeyed_setPledge _ (setpointKeyed_setPledge _ h))).1

theorem setpointKeyed_pledgeInsert (wanted : Bool) {s : State} (h : SetpointKeyed s) : SetpointKeyed (pledgeInsert wanted s) := by
  unfold pledgeInsert
  split
  · exact setpointKeyed_enqueue _ _ h
  · exact h

theorem setpointForm_endComputation (c : Computation) {s : State} (h : SetpointKeyed s) : SetpointForm (endComputation c s) := by
  have hladders : ∀ kd, RunsAt (formLadders (frozenPairs s c) (s.setTable (writtenTable s c))) kd ↔ RunsAt (s.setTable (writtenTable s c)) kd :=
    fun kd => by simp [RunsAt]
  have hheld : HeldKeyed (formLadders (frozenPairs s c) (s.setTable (writtenTable s c))) := by
    refine heldKeyed_of_frame (s := s.setTable (writtenTable s c)) (by simp) (by simp) (by simp) ⟨h.1.2, ?_⟩
    simpa [recordKeys_writtenTable] using h.2
  refine setpointForm_afterWrite (setpointKeyed_pledgeInsert _ (setpointKeyed_loweredNoted hheld fun hnone => ?_))
  simp only [hladders] at hnone
  exact setpointForm_of_frame (by simp) (by simp) (by simp) (by simp) (setpointForm_written h.2 h.1 hnone)

/-! ### The effects -/

theorem setpointForm_updRunning (f : Direction → RunFields → RunFields) {s : State} (h : SetpointForm s) :
    SetpointForm (s.updRunning f) := by
  unfold State.updRunning
  refine setpointForm_table (s := s) (fun d => runningTake_map d (fun r _ => ?_) fun r _ _ => ?_) h
  · split <;> exact ⟨Iff.rfl, rfl⟩
  · split <;> rfl

theorem setpointForm_setMon {m : DeliveryMonitor} {s : State} (hmon : m.heldD = s.mon.heldD) (h : SetpointForm s) :
    SetpointForm (s.setMon m) := setpointForm_of_frame (s := s) (t := s.setMon m) rfl rfl rfl hmon h

theorem setpointForm_endMeasurement {s : State} (h : SetpointForm s) : SetpointForm (endMeasurement s) := by
  unfold endMeasurement accumulateDelivered
  refine setpointForm_setMon (by simp) (setpointForm_updRunning _ ?_)
  exact setpointForm_of_frame (s := s) (t := s.setPledge _) rfl rfl rfl rfl h

theorem setpointForm_goodVerdict {s : State} (h : SetpointForm s) : SetpointForm (goodVerdict s) := by
  unfold goodVerdict
  split
  · exact setpointForm_setMon rfl h
  · split
    · exact setpointForm_setMon rfl h
    · exact setpointForm_triggerComputation _ (setpointForm_setMon rfl h)

theorem setpointForm_badVerdict {s : State} (h : SetpointForm s) : SetpointForm (badVerdict s) := by
  unfold badVerdict
  dsimp only
  split
  · exact setpointForm_triggerComputation _ (setpointForm_requestInActive _ (setpointForm_setMon rfl h))
  · exact setpointForm_triggerComputation _ (setpointForm_setMon rfl h)

theorem setpointForm_endJudgePeriod {s : State} (h : SetpointForm s) : SetpointForm (endJudgePeriod s) := by
  have hcounted (good : Bool) (meanD : Int) : SetpointForm (startJudging (countVerdict good meanD s)) :=
    setpointForm_setMon rfl (setpointForm_updRunning _ h)
  unfold endJudgePeriod
  dsimp only
  split
  · exact setpointForm_goodVerdict (hcounted _ _)
  · exact setpointForm_badVerdict (hcounted _ _)

theorem setpointForm_storeAvailability (b : AvailabilityBody) {s : State} (h : SetpointForm s) : SetpointForm (storeAvailability b s) := by
  have howner (p q : PledgeEngine) (d : Direction) {u : State} (hu : SetpointForm u) : SetpointForm (ownerWithdrawal p q d u) := by
    unfold ownerWithdrawal
    split
    · exact setpointForm_withdrawProcedure _ _ hu.2
    · exact hu
  have hstored : SetpointForm (storeAvails b s) := setpointForm_of_frame (by simp) (by simp) (by simp) (by simp) h
  unfold storeAvailability
  dsimp only
  split
  · exact howner _ _ _ (howner _ _ _ hstored)
  · exact hstored

theorem setpointForm_storeState (b : StateBody) {s : State} (h : SetpointForm s) : SetpointForm (storeState b s) :=
  setpointForm_congr ⟨by simp [isActive, storeState_ctrl], by simp [storeState_ctrl], by simp⟩ (by simp)
    ⟨⟨by simp, by simp, by simp, by simp, by simp, by simp⟩, by simp⟩ h

theorem setpointForm_setCtrl {c : Controller} {s : State} (hstation : c.station = s.ctrl.station) (hconfig : c.config = s.ctrl.config)
    (h : SetpointForm s) : SetpointForm (s.setCtrl c) :=
  setpointForm_congr (s := s) (t := s.setCtrl c) ⟨by simp [isActive, hstation], hconfig, fun _ => rfl⟩ rfl
    ⟨⟨rfl, rfl, rfl, rfl, rfl, rfl⟩, rfl⟩ h

theorem setpointForm_reachStaleLimit {s : State} (h : SetpointForm s) : SetpointForm (reachStaleLimit s) := by
  unfold reachStaleLimit beginStale
  dsimp only
  split
  · refine setpointForm_triggerComputation _ ?_
    split
    · exact setpointForm_raiseEvent _ (setpointForm_setCtrl rfl rfl (setpointForm_setCtrl rfl rfl h))
    · exact setpointForm_setCtrl rfl rfl h
  · exact setpointForm_setCtrl rfl rfl h

theorem setpointForm_completeRun {s : State} (h : SetpointForm s) : SetpointForm (completeRun s) := by
  have hline (l : LineInterface) : SetpointForm (s.setLine l) := setpointForm_of_frame (s := s) (t := s.setLine l) rfl rfl rfl rfl h
  unfold completeRun startSending noteSent
  split
  · exact h
  · split
    · dsimp only
      split
      · exact setpointForm_table (s := s.setLine _) (runningTake_updRec (s := s.setLine _) · (fun _ => ⟨Iff.rfl, rfl⟩) fun _ _ _ _ => rfl)
          (hline _)
      all_goals exact hline _
    · exact hline _

theorem setpointForm_endTransmission {s : State} (h : SetpointForm s) : SetpointForm (endTransmission s) := by
  have hline (l : LineInterface) : SetpointForm (s.setLine l) := setpointForm_of_frame (s := s) (t := s.setLine l) rfl rfl rfl rfl h
  unfold endTransmission
  split
  · exact hline _
  · dsimp only
    split
    · exact setpointForm_returnToUnjoined (hline _).2
    · exact hline _

theorem setpointKeyed_setView (view : List Peer) {s : State} (h : SetpointKeyed s) : SetpointKeyed (s.setView view) :=
  setpointKeyed_of_frame (s := s) (t := s.setView view) rfl rfl rfl rfl h

theorem setpointKeyed_dropFront {s : State} (h : SetpointKeyed s) : SetpointKeyed (dropFront s) :=
  setpointKeyed_of_frame (by simp) (by simp) (by simp) (by simp) h

theorem setpointKeyed_takeFrame (n : Notice) (update : Peer → Peer × Report) {s : State} (h : SetpointKeyed s) :
    SetpointKeyed (takeFrame n update s) :=
  setpointKeyed_allocation.takeFrame h fun _ _ _ => ⟨setpointKeyed_setView _ h, fun _ _ => setpointKeyed_setView _ h⟩

theorem setpointKeyed_makeStale (id : Nat) (p : Peer) {s : State} (h : SetpointKeyed s) : SetpointKeyed (makeStale id p s) := by
  unfold makeStale
  dsimp only
  split
  · exact setpointKeyed_setView _ h
  · exact setpointKeyed_allocation.actOnReport _ (setpointKeyed_setView _ h)

/-- Every effect leaves the setpoint what its inputs give. -/
theorem setpointForm_effect {i : Instr} {s t : State} (hkeyed : SetpointKeyed s) (heffect : Effect i s t) : SetpointForm t := by
  have h := hkeyed.1
  cases heffect with
  | nothing => exact h
  | powerOn => exact setpointForm_powerOnState s
  | restart => exact setpointForm_restartState s
  | configure x hi items hstation => exact setpointForm_storeConfiguration items hstation h
  | join haccepted => exact setpointForm_joinStation haccepted h
  | leave => exact setpointForm_returnToUnjoined h.2
  | leaveSuspended => exact setpointForm_clearErrors (setpointForm_returnToUnjoined h.2)
  | beginLeaving => exact setpointForm_beginLeaving h.2
  | clearSuspend hstation => exact setpointForm_clearSuspension hstation h
  | setClock | rebuild => exact setpointForm_performRebuild _ _ h.2
  | setState x hi b =>
    exact takenState_preserves (fun _ => setpointForm_startComputation _ _ _) (fun _ => setpointForm_triggerComputation _)
      (setpointForm_storeState b h)
  | setBaseline b =>
    exact takenSetting_preserves (fun _ => setpointForm_startComputation _ _ _)
      (setpointForm_of_frame (by simp) (by simp) (by simp) (by simp) h)
  | setPrice b =>
    exact takenSetting_preserves (fun _ => setpointForm_startComputation _ _ _)
      (setpointForm_of_frame (by simp) (by simp) (by simp) (by simp) h)
  | setAvailability b => exact takenSetting_preserves (fun _ => setpointForm_startComputation _ _ _) (setpointForm_storeAvailability b h)
  | inject k d a => exact (setpointKeyed_enqueue _ _ (setpointKeyed_allocation.acceptAward hkeyed)).1
  | boundary => exact setpointForm_naturalBoundary h
  | markBoundary m => exact setpointForm_performMarkBoundary m h
  | endComputation c => exact setpointForm_endComputation c hkeyed
  | refresh => exact setpointForm_triggerComputation _ (setpointForm_of_frame (by simp) (by simp) (by simp) (by simp) h)
  | enterActive => exact setpointForm_enterActive h
  | staleLimit => exact setpointForm_reachStaleLimit h
  | warn | unwarn => exact setpointForm_setCtrl rfl rfl h
  | filtered => exact setpointForm_requestSupply (setpointForm_setCtrl rfl rfl h)
  | crossing count => exact setpointForm_takeCrossing count (setpointForm_setFreq _ (setpointForm_recordMisses count h))
  | missedPeriod => exact setpointForm_invalidPeriod (setpointForm_setFreq _ (setpointForm_setFreq _ h))
  | pwmPeriod => exact setpointForm_congr (s := s) ⟨rfl, rfl, fun _ => rfl⟩ rfl ⟨⟨rfl, rfl, rfl, rfl, rfl, rfl⟩, rfl⟩ h
  | loseFeedback => exact setpointForm_requestInActive _ (setpointForm_of_frame (s := s) (by simp) (by simp) (by simp) (by simp [stopWindow]) h)
  | endMeasurement => exact setpointForm_endMeasurement h
  | endJudgePeriod => exact setpointForm_endJudgePeriod h
  | completeRun => exact setpointForm_completeRun h
  | endTransmission => exact setpointForm_endTransmission h
  | frame n rest update => exact (setpointKeyed_takeFrame n update (setpointKeyed_dropFront hkeyed)).1
  | award n rest k d a => exact (setpointKeyed_allocation.acceptAward (setpointKeyed_takeFrame n _ (setpointKeyed_dropFront hkeyed))).1
  | peerStale id p => exact (setpointKeyed_makeStale id p hkeyed).1
  | peerRemoved id p => exact (setpointKeyed_allocation.actOnReport _ (setpointKeyed_setView _ hkeyed)).1
  | holdExpiry k d r =>
    exact (setpointKeyed_allocation.expireHold (setpointKeyed_updRec (fun _ => ⟨rfl, rfl⟩) (fun _ => Iff.rfl) (fun _ _ _ _ => rfl)
      hkeyed)).1
  | startJudging | feedback => exact setpointForm_setMon rfl h
  | _ => exact setpointForm_of_frame (by simp) (by simp) (by simp) (by simp) h

theorem setpointForm_tick {s : State} (h : SetpointForm s) : SetpointForm (tick s) := by
  have htakes (d : Direction) : runningTake (tick s).table d = runningTake s.table d :=
    runningTake_map d (fun _ _ => ⟨Iff.rfl, rfl⟩) fun _ _ _ => rfl
  exact setpointForm_congr (s := s) (t := tick s) ⟨rfl, rfl, htakes⟩ rfl ⟨⟨rfl, rfl, rfl, rfl, rfl, rfl⟩, rfl⟩ h

/-- The premises of O59. -/
def SetpointLaws (s : State) : Prop := HorizonLaw s ∧ SetpointForm s

/-- Settles O59: what changes a setpoint input ends in a recomputation, or leaves what the setpoint reads. -/
theorem setpointKept : Obligations.SetpointKept := by
  unfold Obligations.SetpointKept
  intro s t hs h
  refine step_keeps (P := SetpointLaws) (Q := SetpointForm) (fun _ _ hu => hu) (fun _ _ hu => hu)
    (fun _ hu => setpointForm_tick hu.2) ?_ hs h
  refine exec_keeps (fun u v hsame hu => ?_) (fun u v hsame hu => ?_)
    fun _ _ _ hu heffect => setpointForm_effect ⟨hu.2, recordKeys_nodup hu.1⟩ heffect
  · obtain ⟨_, _, rfl⟩ := hsame
    exact hu
  · obtain ⟨_, _, rfl⟩ := hsame
    exact hu

end Sys2Proof.Machine

/-! PROOFS. Rules for what the blocks share: events raised, entries inserted, the setpoint formed anew, and a withdrawal of the
whole table (R71, R112, R144, R145, R147, R157, R158, R162). -/

namespace Sys2Proof.Machine

/-! ### Events -/

theorem Raised.trans {e : Event} {m n : Nat} {s t u : State} (h : Raised e m s t) (h' : Raised e n t u) : Raised e (m + n) s u := by
  obtain ⟨hflag, hagain⟩ := h
  obtain ⟨hflag', hagain'⟩ := h'
  rcases m with _ | _ | m <;> rcases n with _ | _ | n <;> 
    simp [Raised, hflag, hflag', hagain, hagain', show ∀ a b : Nat, 1 < a + 1 + 1 + (b + 1 + 1) by omega]

/-- Events and again flags that stand. -/
theorem raised_of_host {s t : State} (h : t.host = s.host) (e : Event) : Raised e 0 s t := by
  simp [Raised, flagSet, againSet, h]

theorem raised_raiseEvent (e : Event) (s : State) : Raised e 1 s (raiseEvent e s) := by
  obtain ⟨hflag, hagain⟩ := raiseEvent_bits e s e.bit
  simp [Raised, flagSet, againSet, hflag, hagain] 

theorem raised_raiseEvent_of_ne {e f : Event} (h : e ≠ f) (s : State) : Raised e 0 s (raiseEvent f s) := by
  obtain ⟨hflag, hagain⟩ := raiseEvent_bits f s e.bit
  have hbit : e.bit ≠ f.bit := fun hsame => h (event_bit_injective hsame)
  simp [Raised, flagSet, againSet, hflag, hagain, hbit]

theorem raised_raiseWhen (b : Bool) (e : Event) (s : State) : Raised e b.toNat s (raiseWhen b e s) := by
  cases b with
  | true => exact raised_raiseEvent e s
  | false => exact raised_of_host rfl e

theorem raised_raiseWhen_of_ne {e f : Event} (h : e ≠ f) (b : Bool) (s : State) : Raised e 0 s (raiseWhen b f s) := by
  cases b with
  | true => exact raised_raiseEvent_of_ne h s
  | false => exact raised_of_host rfl e

theorem Raised.flagSet {e : Event} {n : Nat} {s t : State} (h : Raised e n s t) (hset : flagSet e s = true) : flagSet e t = true := by
  rw [h.1, hset, Bool.true_or]

/-- No flag is cleared. -/
def FlagsKept (s t : State) : Prop := ∀ e, flagSet e s = true → flagSet e t = true

theorem flagsKept_of_host {s t : State} (h : t.host = s.host) : FlagsKept s t := fun e => (raised_of_host h e).flagSet

theorem FlagsKept.trans {s t u : State} (h : FlagsKept s t) (h' : FlagsKept t u) : FlagsKept s u := fun e he => h' e (h e he)

theorem flagsKept_raiseEvent (f : Event) (s : State) : FlagsKept s (raiseEvent f s) := fun e => flagSet_raiseEvent_of f e s

theorem flagsKept_raiseWhen (b : Bool) (f : Event) (s : State) : FlagsKept s (raiseWhen b f s) := by
  cases b with
  | true => exact flagsKept_raiseEvent f s
  | false => exact flagsKept_of_host rfl

theorem flagsKept_enqueue (k : NoticeKey) (w : Option WithdrawContent) (s : State) : FlagsKept s (enqueue k w s) := by
  unfold enqueue
  dsimp only
  generalize hu : s.setLine _ = u
  exact FlagsKept.trans (hu ▸ flagsKept_of_host rfl) (flagsKept_raiseWhen _ _ u)

theorem raised_enqueue {e : Event} (h : e ≠ .queueDrop) (k : NoticeKey) (w : Option WithdrawContent) (s : State) :
    Raised e 0 s (enqueue k w s) := by
  unfold enqueue
  dsimp only
  generalize hu : s.setLine _ = u
  exact Raised.trans (hu ▸ raised_of_host rfl e) (raised_raiseWhen_of_ne h _ u)

/-- The log, the mask and the answers are no part of an event. -/
@[simp] theorem raiseEvent_host (e : Event) (s : State) : (raiseEvent e s).host.log = s.host.log ∧ (raiseEvent e s).host.mask = s.host.mask ∧
    (raiseEvent e s).host.held = s.host.held ∧ (raiseEvent e s).host.sdo = s.host.sdo := by
  unfold raiseEvent
  split <;> simp

@[simp] theorem raiseWhen_host (b : Bool) (e : Event) (s : State) : (raiseWhen b e s).host.log = s.host.log ∧
    (raiseWhen b e s).host.mask = s.host.mask ∧ (raiseWhen b e s).host.held = s.host.held ∧
    (raiseWhen b e s).host.sdo = s.host.sdo := by
  cases b with
  | true => exact raiseEvent_host e s
  | false => exact ⟨rfl, rfl, rfl, rfl⟩

@[simp] theorem enqueue_host (k : NoticeKey) (w : Option WithdrawContent) (s : State) : (enqueue k w s).host.log = s.host.log ∧
    (enqueue k w s).host.mask = s.host.mask ∧ (enqueue k w s).host.held = s.host.held ∧ (enqueue k w s).host.sdo = s.host.sdo := by
  simp [enqueue]

/-! ### The setpoint formed anew -/

theorem recompute_act (s : State) : (recompute s).act = { s.act with
    level := (formedLevel s).1, dir := (formedLevel s).2, delta := formedDelta s, duty := formedDuty s } := by
  unfold recompute
  dsimp only
  split <;> simp

/-- What a recomputation hands over, from a state with the same D and the same monitor (R147, R154). -/
theorem deltaHanded_recompute {s u : State} (hdelta : u.act.delta = s.act.delta) (hmon : u.mon = s.mon)
    (hconfig : u.ctrl.config = s.ctrl.config) : DeltaHanded s (recompute u) := by
  have hformed : (recompute u).act.delta = formedDelta u := by rw [recompute_act]
  refine ⟨fun hsame => ?_, fun hchanged hnear => ?_, fun hchanged hfar => ?_⟩
  all_goals
    rw [hformed] at *
    unfold recompute
  · rw [if_pos (by rw [hdelta, hsame])]
    exact hmon
  · rw [if_neg (by rwa [hdelta]), handOverDelta, if_neg (by simpa [hmon] using hnear)]
    simp [hmon]
  · rw [if_neg (by rwa [hdelta]), handOverDelta, if_pos (by simpa [hmon] using hfar)]
    simp [startSettling, hmon, hconfig]

theorem neutral_of_activationLaw {s : State} (hlaw : ActivationLaw s) (hinactive : isActive s = false) : Neutral s :=
  (activationLaw_of_inactive hinactive).mp hlaw

/-- The setpoint that its inputs give already stands (R143, R144). -/
theorem recompute_of_activationLaw {s : State} (h : ActivationLaw s) : recompute s = s := by
  obtain ⟨hlevel, hdir, hdelta, hduty⟩ := h
  unfold recompute
  dsimp only
  rw [if_pos hdelta.symm, ← hlevel, ← hdir, ← hdelta, ← hduty]
  rfl

end Sys2Proof.Machine

/-! PROOFS. What an insert leaves of an entry for its key, and the WITHDRAW entry of a withdrawal (R70, R71, R73, R158). -/

namespace Sys2Proof.Machine

/-! ### The head's draw -/

/-- An entry but for its draw. -/
def Redrawn (x y : QEntry) : Prop := y = { x with draw := y.draw }

theorem redrawn_refl (x : QEntry) : Redrawn x x := rfl

theorem redrawn_beginRun (l : LineInterface) : List.Forall₂ Redrawn l.queue (beginRun l).queue := by
  unfold beginRun
  split
  next h => simp [h]
  next e rest h =>
    rw [h]
    exact .cons rfl (List.forall₂_same.mpr fun x _ => redrawn_refl x)

/-- What the transmitter does with a changed queue leaves every entry but for a new head's draw (R62). -/
theorem redrawn_settleHead (old : Option NoticeKey) (l : LineInterface) : List.Forall₂ Redrawn l.queue (settleHead old l).queue := by
  have hself : List.Forall₂ Redrawn l.queue l.queue := List.forall₂_same.mpr fun x _ => redrawn_refl x
  unfold settleHead
  split
  · split
    · exact hself
    · exact redrawn_beginRun { l with tx := .waiting }
  · split
    · exact hself
    · split
      · exact hself
      · exact redrawn_beginRun l
  · exact hself
  · exact hself

theorem mem_of_redrawn {q q' : List QEntry} (h : List.Forall₂ Redrawn q q') {x : QEntry} (hx : x ∈ q) : ∃ y ∈ q', Redrawn x y := by
  induction h with
  | nil => exact absurd hx List.not_mem_nil
  | cons hhead _ ih =>
    rcases List.mem_cons.mp hx with rfl | hx
    · exact ⟨_, List.mem_cons_self, hhead⟩
    · obtain ⟨y, hy, hxy⟩ := ih hx
      exact ⟨y, List.mem_cons_of_mem _ hy, hxy⟩

theorem of_mem_redrawn {q q' : List QEntry} (h : List.Forall₂ Redrawn q q') {y : QEntry} (hy : y ∈ q') : ∃ x ∈ q, Redrawn x y := by
  induction h with
  | nil => exact absurd hy List.not_mem_nil
  | cons hhead _ ih =>
    rcases List.mem_cons.mp hy with rfl | hy
    · exact ⟨_, List.mem_cons_self, hhead⟩
    · obtain ⟨x, hx, hxy⟩ := ih hy
      exact ⟨x, List.mem_cons_of_mem _ hx, hxy⟩

/-! ### Inserts -/

variable {cur : Word} {k : NoticeKey} {w : Option WithdrawContent} {q : List QEntry}

theorem insertQueue_of_room (h : q.find? (·.key == k) = none) (hroom : q.length < 12) :
    insertQueue cur k w q = (appendGroup (newEntry k w) q, false) := by
  unfold insertQueue
  rw [h]
  exact if_pos hroom

/-- An absent key at a full queue: an entry makes room, or the insert is dropped; QUEUE_DROP either way. -/
theorem insertQueue_of_full (h : q.find? (·.key == k) = none) (hfull : 12 ≤ q.length) :
    (insertQueue cur k w q).2 = true := by
  unfold insertQueue
  rw [h]
  dsimp only
  rw [if_neg (by simpa [Config.queueLimit] using hfull)]
  split <;> rfl

theorem insertQueue_of_waiting {e : QEntry} (h : q.find? (·.key == k) = some e) (hwaits : e.inFlight = false) :
    insertQueue cur k w q = (q.map fun x => if x.key = k then x.coalesce cur w else x, false) := by
  unfold insertQueue
  rw [h]
  simp [hwaits]

theorem insertQueue_of_flight {e : QEntry} (h : q.find? (·.key == k) = some e) (hflight : e.inFlight = true) :
    insertQueue cur k w q = (q.map fun x => if x.key = k then x.renew cur w else x, false) := by
  unfold insertQueue
  rw [h]
  simp [hflight]

theorem mem_appendGroup (e : QEntry) (q : List QEntry) : e ∈ appendGroup e q :=
  (appendGroup_perm e q).mem_iff.mpr List.mem_cons_self

theorem enqueue_line (k : NoticeKey) (w : Option WithdrawContent) (s : State) : (enqueue k w s).line =
    settleHead (headKey s.line.queue) { s.line with queue := (insertQueue s.clock.current k w s.line.queue).1 } := by
  simp [enqueue]

/-- What an insert makes of the queue stands in it, but for a new head's draw. -/
theorem mem_enqueue {s : State} {x : QEntry} (hx : x ∈ (insertQueue s.clock.current k w s.line.queue).1) :
    ∃ y ∈ (enqueue k w s).line.queue, Redrawn x y := by
  rw [enqueue_line]
  exact mem_of_redrawn (redrawn_settleHead _ _) hx

theorem of_mem_enqueue {s : State} {y : QEntry} (hy : y ∈ (enqueue k w s).line.queue) :
    ∃ x ∈ (insertQueue s.clock.current k w s.line.queue).1, Redrawn x y := by
  rw [enqueue_line] at hy
  exact of_mem_redrawn (redrawn_settleHead _ _) hy

theorem queueDrop_enqueue {s : State} (h : (insertQueue s.clock.current k w s.line.queue).2 = true) :
    flagSet .queueDrop (enqueue k w s) = true := by
  simp [enqueue, h, raiseWhen]

/-- The entry found for a key and what a rewrite of it leaves. -/
theorem mem_map_found {f : QEntry → QEntry} {e : QEntry} (h : q.find? (·.key == k) = some e) :
    e.key = k ∧ f e ∈ q.map fun x => if x.key = k then f x else x := by
  have hkey : e.key = k := by simpa using List.find?_some h
  exact ⟨hkey, List.mem_map.mpr ⟨e, List.mem_of_find?_eq_some h, if_pos hkey⟩⟩

theorem mem_insertQueue_of_waiting {e : QEntry} (h : q.find? (·.key == k) = some e) (hwaits : e.inFlight = false) :
    e.key = k ∧ e.coalesce cur w ∈ (insertQueue cur k w q).1 := by
  rw [insertQueue_of_waiting h hwaits]
  exact mem_map_found h

theorem mem_insertQueue_of_flight {e : QEntry} (h : q.find? (·.key == k) = some e) (hflight : e.inFlight = true) :
    e.key = k ∧ e.renew cur w ∈ (insertQueue cur k w q).1 := by
  rw [insertQueue_of_flight h hflight]
  exact mem_map_found h

theorem mem_insertQueue_of_room (h : q.find? (·.key == k) = none) (hroom : q.length < 12) :
    newEntry k w ∈ (insertQueue cur k w q).1 := by
  rw [insertQueue_of_room h hroom]
  exact mem_appendGroup _ _

theorem initialSends_withdraw (w : WithdrawContent) : initialSends .withdraw (some w) = withdrawSends w := by
  simp [initialSends, withdrawSends]

/-- The WITHDRAW entry of an insert by Table 4-7. -/
theorem withdrawQueued_enqueue {w : WithdrawContent} {s u t : State} (hline : u.line = s.line) (hclock : u.clock = s.clock)
    (hqueue : t.line = (enqueue .withdraw (some w) u).line) (hflags : FlagsKept (enqueue .withdraw (some w) u) t) :
    WithdrawQueued w s t := by
  have hstands {x : QEntry} (hx : x ∈ (insertQueue u.clock.current .withdraw (some w) u.line.queue).1) :
      ∃ y ∈ t.line.queue, Redrawn x y := hqueue ▸ mem_enqueue hx
  rw [hline, hclock] at hstands
  refine ⟨fun hnone hroom => ?_, fun hnone hfull => ?_, fun e he hwaits c hc => ?_, fun e he hflight => ?_⟩
  · obtain ⟨y, hy, hxy⟩ := hstands (mem_insertQueue_of_room hnone hroom)
    exact ⟨y, hy, by rw [hxy]; rfl, by rw [hxy]; rfl, by rw [hxy]; exact initialSends_withdraw w⟩
  · refine hflags _ (queueDrop_enqueue ?_)
    rw [hline]
    exact insertQueue_of_full hnone hfull
  · obtain ⟨hkey, hmem⟩ := mem_insertQueue_of_waiting (w := some w) (cur := s.clock.current) (Option.mem_def.mp he) hwaits
    obtain ⟨y, hy, hxy⟩ := hstands hmem
    have hcontent : mergedContent s.clock.current e.content (some w) = some (mergeWithdraw s.clock.current c w) := by
      rw [Option.mem_def.mp hc]; rfl
    refine ⟨y, hy, ?_, ?_, ?_⟩ <;> rw [hxy]
    · exact hkey
    · exact hcontent
    · simp only [QEntry.coalesce, hcontent, hkey]
      exact initialSends_withdraw _
  · obtain ⟨hkey, hmem⟩ := mem_insertQueue_of_flight (w := some w) (cur := s.clock.current) (Option.mem_def.mp he) hflight
    obtain ⟨y, hy, hxy⟩ := hstands hmem
    refine ⟨y, hy, ?_⟩
    rw [hxy]
    unfold QEntry.renew
    dsimp only
    cases e.renewal <;> exact ⟨hkey, rfl, rfl, rfl⟩

/-! ### A withdrawal of the whole table -/

theorem withdraw_withdrawn (q : Reason) (r : CRecord) : (r.withdraw q).withdrawn = some (moreSevere r.withdrawn q) := by
  unfold CRecord.withdraw
  dsimp only
  cases r.withdrawn with
  | none => rfl
  | some old =>
    simp only [moreSevere, Reason.worse, ← not_lt]
    split <;> simp_all

/-- A withdrawn record that runs has min take 0 (R27). -/
theorem withdraw_run (q : Reason) {r : CRecord} (hcommitted : r.state ≠ .opened) :
    (r.withdraw q).run = r.run.map fun f => { f with minTake := 0 } := by
  simp [CRecord.withdraw, hcommitted, CRecord.withTake]

theorem withdrawnRecord_withdraw (q : Reason) (r : CRecord) : WithdrawnRecord q r (r.withdraw q) := by
  obtain ⟨⟨hstate, hfrozen, hband, haward, hinterval, hdir, -, -, hsent, -⟩, hopened, hcommitted⟩ := withdraw_fields r q
  refine ⟨hinterval, hdir, hstate, withdraw_withdrawn _ _, haward, hfrozen, hband, hsent, hopened, fun hnot => ?_⟩
  obtain ⟨hcap, htake, hlive⟩ := hcommitted hnot
  refine ⟨hlive, hcap, htake, ?_, ?_⟩ <;> rw [withdraw_run q hnot] <;> simp [Function.comp_def]

theorem allWithdrawn_map (q : Reason) (table : List CRecord) :
    AllWithdrawn q table (table.map fun r => CRecord.withdraw { r with hold := none, evalPending := false } q) := by
  refine ⟨List.length_map _, fun i r hr => ⟨_, by rw [List.getElem?_map, hr]; rfl,
    withdrawnRecord_withdraw q { r with hold := none, evalPending := false }, ?_, ?_⟩⟩ <;> simp

/-- The WITHDRAW entry of all horizon intervals: the first of the table, and all 8 flags (R158). -/
theorem withdrawContent_whole (q : Reason) {s : State} (hkeys : recordKeys s.table = horizonPairs (tableFirst s)) :
    withdrawContent q s (fun _ => true) = ⟨q, tableFirst s, 0xFF⟩ := by
  have hslots : affectedSlots s (fun _ => true) = [0, 0, 1, 1, 2, 2, 3, 3, 4, 4, 5, 5, 6, 6, 7, 7] := by
    have hpairs : affectedSlots s (fun _ => true) = (recordKeys s.table).map fun kd => slotOf (tableFirst s) kd.1 := by
      simp [affectedSlots, recordKeys, List.filter_true, Function.comp_def]
    rw [hpairs, hkeys]
    simp [horizonPairs, List.range_succ]
  unfold withdrawContent
  dsimp only
  rw [hslots]
  simp [atSlot]

theorem flagSet_recompute {e : Event} {s : State} (h : flagSet e s = true) : flagSet e (recompute s) = true :=
  flagsKept_of_host (by simp) e h

/-- A withdrawal procedure over the whole table, of a state with the holds stopped. -/
theorem withdrawnWhole_withdrawProcedure {q : Reason} {s u t : State}
    (htable : u.table = s.table.map fun r => { r with hold := none, evalPending := false })
    (hline : u.line = s.line) (hclock : u.clock = s.clock) (hpledge : u.pledge = s.pledge)
    (htableAfter : t.table = (withdrawProcedure q (fun _ => true) u).table) (hlineAfter : t.line = (withdrawProcedure q (fun _ => true) u).line)
    (hflags : FlagsKept (withdrawProcedure q (fun _ => true) u) t) : WithdrawnWhole q s t := by
  have hkeys : recordKeys u.table = recordKeys s.table := by simp [htable, recordKeys, Function.comp_def]
  have hfirst : tableFirst u = tableFirst s := by simp [tableFirst, hclock, hpledge]
  have hraised : flagSet .withdrawn (withdrawProcedure q (fun _ => true) u) = true := by
    unfold withdrawProcedure
    exact flagSet_recompute (flagSet_raiseEvent _ _)
  refine ⟨?_, fun hjoined hlaw => ?_, hflags _ hraised⟩
  · rw [htableAfter, withdrawProcedure_table, htable, List.map_map]
    exact allWithdrawn_map _ _
  · rw [horizonLaw_of_joined hjoined, ← hkeys, ← hfirst] at hlaw
    rw [← hfirst, ← withdrawContent_whole q hlaw]
    have hwithdrawn : ∃ v : State, v.line = s.line ∧ v.clock = s.clock ∧
        withdrawProcedure q (fun _ => true) u =
          recompute (raiseEvent .withdrawn (enqueue .withdraw (some (withdrawContent q u fun _ => true)) v)) :=
      ⟨u.setTable (u.table.map fun r => r.withdraw q), hline, hclock, by simp [withdrawProcedure]⟩
    obtain ⟨v, hvline, hvclock, hprocedure⟩ := hwithdrawn
    rw [hprocedure] at hlineAfter hflags
    refine withdrawQueued_enqueue hvline hvclock (by rw [hlineAfter]; simp) (FlagsKept.trans ?_ hflags)
    exact FlagsKept.trans (flagsKept_raiseEvent .withdrawn _) (flagsKept_of_host (by simp))

theorem withdrawnWhole_suspendStation (q : SuspendReason) (s : State) : WithdrawnWhole q.toReason s (suspendStation q s) := by
  unfold suspendStation
  refine withdrawnWhole_withdrawProcedure (u := State.setCtrl _ _) ?_ ?_ ?_ ?_ (by simp) (by simp) (flagsKept_raiseEvent _ _)
  all_goals simp [leaveActive, stopHolds]

theorem activationLaw_of_frame {s t : State} (hctrl : t.ctrl = s.ctrl) (htable : t.table = s.table) (hact : t.act = s.act)
    (h : ActivationLaw s) : ActivationLaw t := by
  obtain ⟨hlevel, hdir, hdelta, hduty⟩ := h
  have hformed : formedLevel t = formedLevel s := by simp [formedLevel, isActive, hctrl, hact]
  have hformedDelta : formedDelta t = formedDelta s := by simp [formedDelta, hformed, htable]
  have hformedDuty : formedDuty t = formedDuty s := by simp [formedDuty, hformedDelta, hctrl]
  unfold ActivationLaw
  rw [hformed, hformedDelta, hformedDuty, hact]
  exact ⟨hlevel, hdir, hdelta, hduty⟩

theorem activationLaw_withdrawProcedure (q : Reason) (sel : CRecord → Bool) (s : State) :
    ActivationLaw (withdrawProcedure q sel s) := recompute_activation _

theorem activationLaw_raiseEvent (e : Event) {s : State} (h : ActivationLaw s) : ActivationLaw (raiseEvent e s) :=
  activationLaw_of_frame (by simp) (by simp) (by simp) h

/-- A suspension (R12): the station state, the setpoint neutral, the window stopped, and what stands. -/
theorem suspendStation_neutral (q : SuspendReason) (s : State) : Neutral (suspendStation q s) := by
  refine neutral_of_activationLaw ?_ (by simp [isActive])
  exact activationLaw_raiseEvent _ (activationLaw_withdrawProcedure _ _ _)

theorem flagSet_suspendStation (q : SuspendReason) (s : State) : flagSet .suspended (suspendStation q s) = true :=
  flagSet_raiseEvent _ _

end Sys2Proof.Machine

/-! PROOFS. The supply warning, suspensions and their end, LEAVE and what an accepted INTERVAL_MARK does (R8 to R14, R18 to R21). -/

namespace Sys2Proof.Machine

/-! ### A suspension and what stands -/

/-- Table, line, clock, engine and whether the station is joined are what a withdrawal is read against. -/
theorem withdrawnWhole_congr {q : Reason} {s u t : State} (hstation : u.ctrl.station = .unjoined ↔ s.ctrl.station = .unjoined)
    (htable : u.table = s.table) (hline : u.line = s.line) (hclock : u.clock = s.clock) (hfirst : tableFirst u = tableFirst s)
    (h : WithdrawnWhole q u t) : WithdrawnWhole q s t := by
  obtain ⟨hall, hqueued, hflag⟩ := h
  refine ⟨htable ▸ hall, fun hjoined hlaw => ?_, hflag⟩
  have hjoined' : u.ctrl.station ≠ .unjoined := fun hu => hjoined (hstation.mp hu)
  rw [horizonLaw_of_joined hjoined, ← htable, ← hfirst] at hlaw
  have hentry := hqueued hjoined' ((horizonLaw_of_joined hjoined').mpr hlaw)
  rw [hfirst] at hentry
  unfold WithdrawQueued at hentry ⊢
  rwa [hline, hclock] at hentry

theorem suspendStation_log (q : SuspendReason) (s : State) :
    (suspendStation q s).host.log = s.host.log ∧ (suspendStation q s).host.mask = s.host.mask := by
  simp [suspendStation, withdrawProcedure, leaveActive, stopHolds]

theorem withdrawnWhole_setCtrl {c : Controller} {q : SuspendReason} {s : State} (hjoined : s.ctrl.station ≠ .unjoined)
    (hstation : c.station ≠ .unjoined) : WithdrawnWhole q.toReason s (suspendStation q (s.setCtrl c)) :=
  withdrawnWhole_congr (u := s.setCtrl c) (iff_of_false hstation hjoined) rfl rfl rfl rfl (withdrawnWhole_suspendStation q _)

theorem exec_supplyWarningActive_eq (s : State) : exec .supplyWarningActive s = .next (if s.ctrl.swarn then s
    else s.setCtrl { s.ctrl with swarn := true, filter := .timing Config.supplyFilterMs }) := rfl

theorem exec_supplyFilterExpiry_eq (s : State) : exec .supplyFilterExpiry s =
    .next (if s.ctrl.filter.isTiming then requestSupply (s.setCtrl { s.ctrl with filter := .active }) else s) := rfl

theorem requestSupply_of_station {s : State} (h : s.ctrl.station = .active ∨ s.ctrl.station = .listening) :
    requestSupply s = suspendStation .supply s := if_pos h

theorem requestSupply_of_other {s : State} (hactive : s.ctrl.station ≠ .active) (hlistening : s.ctrl.station ≠ .listening) :
    requestSupply s = s := if_neg (by simp [hactive, hlistening])

theorem requestInActive_of_active {q : SuspendReason} {s : State} (h : s.ctrl.station = .active) :
    requestInActive q s = suspendStation q s := if_pos (by simp [isActive, h])

theorem requestInActive_of_other {q : SuspendReason} {s : State} (h : s.ctrl.station ≠ .active) :
    requestInActive q s = s := if_neg (by simp [isActive, h])

/-- Settles O18: each row of the filter, and the suspension for SUPPLY. -/
theorem supplyWarningFiltered : Obligations.SupplyWarningFiltered := by
  unfold Obligations.SupplyWarningFiltered
  intro s
  refine ⟨fun hswarn => ?_, rfl, fun htiming hactive hlistening => ?_, fun htiming hstation => ?_⟩
  · rw [exec_supplyWarningActive_eq, if_neg (by simp [hswarn])]
    rfl
  · rw [exec_supplyFilterExpiry_eq, if_pos htiming, requestSupply_of_other (by exact hactive) (by exact hlistening)]
    rfl
  · have hrequest : exec .supplyFilterExpiry s =
        .next (suspendStation .supply (s.setCtrl { s.ctrl with filter := .active })) := by
      rw [exec_supplyFilterExpiry_eq, if_pos htiming, requestSupply_of_station (by exact hstation)]
    have hjoined : s.ctrl.station ≠ .unjoined := by rcases hstation with h | h <;> simp [h]
    refine ⟨_, hrequest, by simp, by simp, by simp, by simp, withdrawnWhole_setCtrl hjoined hjoined, suspendStation_neutral _ _,
      flagSet_suspendStation _ _, by simp, by simp, by simp, by simp, ?_, ?_, by simp⟩
    · exact (suspendStation_mon .supply _).2
    · exact (suspendStation_log .supply _).1

/-! ### INTERVAL_MARK accepted -/

theorem ditherPhase_eq (c : StationConfig) (k : Word) :
    ditherPhase c k = (c.stationId * c.ditherX + k.toNat / c.rotation * c.ditherY) % 16 := rfl

/-- The phase of the interval the clock was set to (R139). -/
theorem performRebuild_phase (k : Word) (n : Nat) (s : State) : (performRebuild k n s).act.phase = ditherPhase s.ctrl.config k := by
  unfold performRebuild
  rw [recompute_act]
  dsimp only
  split <;> simp [recomputePhase, setClockTo]

theorem exec_intervalMark_accepted {n : Nat} {b : MarkBody} {s : State} (hleaving : s.ctrl.station ≠ .leaving)
    (hsecond : b.second.toNat ≤ 299) (hmark : s.clock.mark = none) (hrebuild : s.clock.rebuild = none)
    (hwithin : marksForward s = true → (b.interval - s.clock.current).toNat ≤ 7) :
    exec (.intervalMark ⟨n, some b⟩) s = .next (holdAnswer (plain .done) (acceptMark b (clockOut n s))) := by
  refine exec_intervalMark_of_accepted hleaving (serveMark_of_accepted (by omega) ?_ ?_)
  · simp [markInProgress, hmark, hrebuild]
  · rintro ⟨hforward, houtside⟩
    rw [marksForward_clockOut] at hforward
    have hle := hwithin hforward
    simp only [clockOut_frame] at houtside
    omega

/-- Settles O21: the rows of Table 2-3. -/
theorem intervalMarkAccepted : Obligations.IntervalMarkAccepted := by
  unfold Obligations.IntervalMarkAccepted
  intro n b s hsecond hmark hrebuild
  refine ⟨fun hstation => ?_, fun hstation => ?_, fun hstation hset => ⟨fun hsame => ?_, fun d hd1 hd7 hahead => ?_⟩⟩
  · have hnot : ¬ marksForward s = true := by simp [marksForward, hstation]
    refine ⟨_, exec_intervalMark_accepted (by simp [hstation]) hsecond hmark hrebuild fun h => absurd h hnot, rfl, ?_⟩
    have haccept : acceptMark b (clockOut n s) = performRebuild b.interval b.second.toNat (clockOut n s) := by
      simp [acceptMark, hnot, joined, hstation]
    rw [haccept]
    have hstands : (performRebuild b.interval b.second.toNat (clockOut n s)) =
        recompute (recomputePhase (setClockTo b.interval b.second.toNat (clockOut n s))) := by
      simp [performRebuild, joined, hstation, setClockTo]
    refine ⟨by simp [hstands, setClockTo, hmark], by simp [hstands, setClockTo], by simp [hstands, setClockTo],
      by simp [hstands, setClockTo], by simp [hstands, setClockTo], by simp [hstands, setClockTo], ?_⟩
    simpa [ditherPhase_eq] using performRebuild_phase b.interval b.second.toNat (clockOut n s)
  · have hnot : ¬ marksForward s = true := by simp [marksForward, hstation]
    rw [exec_intervalMark_accepted (by simp [hstation]) hsecond hmark hrebuild fun h => absurd h hnot]
    have haccept : acceptMark b (clockOut n s) = beginRebuild b (clockOut n s) := by
      simp [acceptMark, hnot, joined, hstation]
    rw [haccept]
    rfl
  · have hforward : marksForward s = true := (marksForward_iff s).mpr ⟨hset, hstation⟩
    have hzero : (b.interval - s.clock.current).toNat = 0 := by simp [hsame]
    have hleaving : s.ctrl.station ≠ .leaving := by rcases hstation with h | h <;> simp [h]
    rw [exec_intervalMark_accepted hleaving hsecond hmark hrebuild fun _ => by omega]
    have haccept : acceptMark b (clockOut n s) = replaceSecond b.second.toNat (clockOut n s) := by
      simp [acceptMark, hforward, hzero]
    rw [haccept]
    rfl
  · have hforward : marksForward s = true := (marksForward_iff s).mpr ⟨hset, hstation⟩
    have hoffset : (b.interval - s.clock.current).toNat = d := by
      rw [hahead]; bv_omega
    have hleaving : s.ctrl.station ≠ .leaving := by rcases hstation with h | h <;> simp [h]
    rw [exec_intervalMark_accepted hleaving hsecond hmark hrebuild fun _ => by omega]
    have haccept : acceptMark b (clockOut n s) = beginMark d b.second.toNat (clockOut n s) := by
      simp [acceptMark, hforward, hoffset, show d ≠ 0 by omega]
    rw [haccept]
    rfl

/-! ### LEAVE -/

/-- States with the same records and the same events and log. -/
def SameRecords (s t : State) : Prop :=
  t.table = s.table ∧ t.host.log = s.host.log ∧ t.host.flags = s.host.flags ∧ t.host.again = s.host.again

theorem sameRecords_raiseEvent (e : Event) {s t : State} (h : SameRecords s t) : SameRecords (raiseEvent e s) (raiseEvent e t) := by
  obtain ⟨htable, hlog, hflags, hagain⟩ := h
  have hset : flagSet e t = flagSet e s := by simp [flagSet, hflags]
  unfold raiseEvent
  rw [hset]
  split <;> simp [SameRecords, htable, hlog, hflags, hagain]

theorem sameRecords_handRecord (r : CRecord) {s t : State} (h : SameRecords s t) : SameRecords (handRecord s r) (handRecord t r) := by
  have hset {log : List Settlement} : SameRecords (s.setHost { s.host with log := log }) (t.setHost { t.host with log := log }) :=
    ⟨h.1, rfl, h.2.2.1, h.2.2.2⟩
  unfold handRecord addSettlement
  dsimp only
  rw [h.2.1]
  split
  · refine sameRecords_raiseEvent _ ?_
    unfold raiseWhen
    split
    · exact sameRecords_raiseEvent _ hset
    · exact hset
  · exact h

theorem sameRecords_handInterval (k : Word) {s t : State} (h : SameRecords s t) : SameRecords (handInterval k s) (handInterval k t) := by
  have hfold : ∀ (rs : List CRecord) {u v : State}, SameRecords u v → SameRecords (rs.foldl handRecord u) (rs.foldl handRecord v) := by
    intro rs
    induction rs with
    | nil => exact fun h => h
    | cons r rest ih => exact fun h => ih (sameRecords_handRecord r h)
  unfold handInterval
  rw [h.1]
  exact hfold _ h

theorem sameRecords_clockOut (n : Nat) (s : State) : SameRecords s (clockOut n s) := by simp [SameRecords]

/-- What a hand-over makes of log and events is the same during a transaction. -/
theorem handInterval_clockOut (k : Word) (n : Nat) (s : State) :
    (handInterval k (clockOut n s)).host.log = (handInterval k s).host.log ∧
    (handInterval k (clockOut n s)).host.flags = (handInterval k s).host.flags := by
  obtain ⟨-, hlog, hflags, -⟩ := sameRecords_handInterval k (sameRecords_clockOut n s)
  exact ⟨hlog, hflags⟩

theorem outOfCluster_returnToUnjoined (s : State) : OutOfCluster (returnToUnjoined s) := by
  have hneutral : Neutral (returnToUnjoined s) := by
    refine neutral_of_activationLaw (recompute_activation _) ?_
    simp [isActive]
  unfold returnToUnjoined at hneutral ⊢
  refine ⟨?_, ?_, ?_, ?_, ?_, ?_, ?_, ?_, ?_, ?_, ?_, ?_, ?_, ?_, ?_, ?_, hneutral⟩ <;>
    simp [PledgeEngine.idle, LineInterface.off, LineInterface.reset]

theorem outOfCluster_congr {s t : State} (hctrl : t.ctrl = s.ctrl) (htable : t.table = s.table) (hpledge : t.pledge = s.pledge)
    (hline : t.line = s.line) (hview : t.view = s.view) (hact : t.act = s.act) (h : OutOfCluster s) : OutOfCluster t := by
  unfold OutOfCluster Neutral at h ⊢
  rwa [hctrl, htable, hpledge, hline, hview, hact]

/-- What a return to UNJOINED leaves beside the cluster's state. -/
theorem returnToUnjoined_stands (s : State) :
    (returnToUnjoined s).host = (handInterval (tableFirst s) s).host ∧ (returnToUnjoined s).mon.errors = s.mon.errors ∧
    (returnToUnjoined s).ctrl.config = s.ctrl.config ∧ (returnToUnjoined s).line.rxBad = s.line.rxBad ∧
    (returnToUnjoined s).line.rxDropped = s.line.rxDropped := by
  have herrors : (returnToUnjoined s).mon.errors = s.mon.errors := by
    unfold returnToUnjoined
    exact (monitorSame_recompute _).2.1.trans (by simp)
  exact ⟨by simp [returnToUnjoined], herrors, by simp [returnToUnjoined], by simp [returnToUnjoined, LineInterface.off],
    by simp [returnToUnjoined, LineInterface.off]⟩

theorem handInterval_mask (k : Word) (s : State) : (handInterval k s).host.mask = s.host.mask := by
  refine foldl_keeps _ (fun u => u.host.mask) (fun u r => ?_) _ _
  unfold handRecord addSettlement
  split <;> simp

theorem exec_leave_served (n : Nat) {s t : State} {a : Answer} (hleaving : s.ctrl.station ≠ .leaving)
    (hserved : serveLeave () (clockOut n s) = (t, a)) : exec (.leave ⟨n, some ()⟩) s = .next (holdAnswer a t) := by
  change Host.Outcome.next (hostCommand ⟨n, some ()⟩ false serveLeave s) = _
  rw [hostCommand_served _ _ _ _ _ (.inl hleaving), hserved]

theorem exec_leave_refused (n : Nat) {s : State} (h : s.ctrl.station = .unjoined ∨ s.ctrl.station = .leaving) :
    exec (.leave ⟨n, some ()⟩) s = .next (answeredOnly n (plain .refusedState) s) := by
  rcases h with hunjoined | hleaving
  · rw [exec_leave_served n (t := clockOut n s) (a := plain .refusedState) (by simp [hunjoined]) (by simp [serveLeave, hunjoined])]
    rfl
  · exact congrArg _ (hostCommand_leaving n () serveLeave s hleaving)

/-- LEAVE from LISTENING and SUSPENDED. -/
theorem exec_leave_atOnce (n : Nat) {s : State} (h : s.ctrl.station = .listening ∨ s.ctrl.station = .suspended) :
    exec (.leave ⟨n, some ()⟩) s = .next (holdAnswer (plain .done) (if s.ctrl.station = .suspended then
      clearErrors (returnToUnjoined (clockOut n s)) else returnToUnjoined (clockOut n s))) := by
  refine exec_leave_served n (by rcases h with h | h <;> simp [h]) ?_
  rcases h with h | h <;> simp [serveLeave, h]

theorem exec_leave_active (n : Nat) {s : State} (h : s.ctrl.station = .active) :
    exec (.leave ⟨n, some ()⟩) s = .next (holdAnswer (plain .done) (beginLeaving (clockOut n s))) :=
  exec_leave_served n (by simp [h]) (by simp [serveLeave, h])

theorem beginLeaving_mon (s : State) : (beginLeaving s).mon.window = .stopped ∧ (beginLeaving s).mon.errors = s.mon.errors := by
  unfold beginLeaving
  dsimp only
  obtain ⟨-, herrors, hstopped⟩ := monitorSame_withdrawProcedure .leave (fun _ => true)
    ((leaveActive s).setCtrl { (leaveActive s).ctrl with station := .leaving, leaving := some Config.leavingMs })
  exact ⟨hstopped.mpr (by simp [leaveActive, stopWindow]), herrors.trans (by simp [leaveActive, stopWindow])⟩

theorem withdrawnWhole_beginLeaving (s : State) : WithdrawnWhole .leave s (beginLeaving s) := by
  unfold beginLeaving
  refine withdrawnWhole_withdrawProcedure (u := State.setCtrl _ _) ?_ ?_ ?_ ?_ rfl rfl fun _ h => h
  all_goals simp [leaveActive, stopHolds]

theorem beginLeaving_neutral (s : State) : Neutral (beginLeaving s) :=
  neutral_of_activationLaw (activationLaw_withdrawProcedure _ _ _) (by simp [isActive])

/-- A withdrawal during a transaction, and its answer. -/
theorem withdrawnWhole_answered {q : Reason} {n : Nat} {a : Answer} {s t : State} (h : WithdrawnWhole q (clockOut n s) t) :
    WithdrawnWhole q s (holdAnswer a t) := by
  obtain ⟨hall, hqueued, hflag⟩ := withdrawnWhole_congr (s := s) (by simp) (by simp) (by simp) (by simp) (by simp [tableFirst]) h
  exact ⟨hall, hqueued, hflag⟩

theorem beginLeaving_log (s : State) : (beginLeaving s).host.log = s.host.log := by
  simp [beginLeaving, withdrawProcedure, leaveActive, stopHolds]

/-- Settles O16: the rows of Table 1-5 and the end of the LEAVING timer. -/
theorem leaveByState : Obligations.LeaveByState := by
  unfold Obligations.LeaveByState
  refine ⟨fun n s => ⟨exec_leave_refused n, fun hstation => ?_, fun hstation => ?_⟩, fun s hstation htimer => ?_⟩
  · obtain ⟨hhost, herrors, -, hbad, hdropped⟩ := returnToUnjoined_stands (clockOut n s)
    obtain ⟨hlog, hflags⟩ := handInterval_clockOut (tableFirst s) n s
    have hfirst : tableFirst (clockOut n s) = tableFirst s := by simp [tableFirst]
    rw [hfirst] at hhost
    refine ⟨_, exec_leave_atOnce n hstation, ?_, rfl, ?_, ?_, ?_, ?_, ?_, ?_, ?_, ?_, ?_, ?_⟩
    · split
      · exact outOfCluster_congr rfl rfl rfl rfl rfl rfl (outOfCluster_returnToUnjoined (clockOut n s))
      · exact outOfCluster_congr rfl rfl rfl rfl rfl rfl (outOfCluster_returnToUnjoined (clockOut n s))
    all_goals split <;>
      simp [holdAnswer, clearErrors, hhost, hlog, hflags, herrors, hbad, hdropped, handInterval_mask]
  · refine ⟨_, exec_leave_active n hstation, by simp, by simp [Config.leavingMs], withdrawnWhole_answered (withdrawnWhole_beginLeaving _), ?_, ?_,
      rfl, ?_, by simp, by simp, by simp, by simp, ?_, by simp, by simp⟩
    · exact beginLeaving_neutral _
    · exact (beginLeaving_mon _).1
    · exact (beginLeaving_log _).trans (by simp)
    · exact (beginLeaving_mon _).2.trans (by simp)
  · obtain ⟨hhost, herrors, hconfig, -⟩ := returnToUnjoined_stands s
    refine ⟨returnToUnjoined s, ?_, outOfCluster_returnToUnjoined s, by rw [hhost], herrors, hconfig, by simp, by simp, ?_, by simp⟩
    · change Host.Outcome.next _ = _
      rw [if_pos ⟨hstation, htimer⟩]
    · rw [hhost, handInterval_mask]

/-! ### CLEAR_SUSPEND -/

theorem recompute_goodRun (s : State) : (recompute s).mon.goodRun = s.mon.goodRun := by
  unfold recompute handOverDelta
  dsimp only
  split
  · rfl
  · split <;> simp [startSettling]

theorem suspendStation_goodRun (q : SuspendReason) (s : State) : (suspendStation q s).mon.goodRun = s.mon.goodRun := by
  simp [suspendStation, withdrawProcedure, recompute_goodRun, leaveActive, stopHolds, stopWindow]

/-- A withdrawal is read off table, line and events. -/
theorem WithdrawnWhole.after {q : Reason} {s t u : State} (htable : u.table = t.table) (hline : u.line = t.line)
    (hflags : u.host.flags = t.host.flags) (h : WithdrawnWhole q s t) : WithdrawnWhole q s u := by
  unfold WithdrawnWhole WithdrawQueued flagSet at h ⊢
  rwa [htable, hline, hflags]

theorem enterListening_of_unfiltered {s : State} (h : s.ctrl.filter ≠ .active) : enterListening s = s.setCtrl { s.ctrl with
    station := .listening, suspendReason := none, listening := some (listeningMs s.ctrl.config) } := if_neg h

theorem enterListening_of_filtered {s : State} (h : s.ctrl.filter = .active) :
    enterListening s = suspendStation .supply (s.setCtrl { s.ctrl with
      station := .listening, suspendReason := none, listening := some (listeningMs s.ctrl.config) }) := by
  unfold enterListening supplyWhenFiltered
  rw [if_pos (by exact h), requestSupply_of_station (.inr rfl)]

theorem triggerComputation_comp (r : Bool) {s : State} (hjoined : s.ctrl.station ≠ .unjoined) :
    (triggerComputation r s).pledge.comp.isSome = true := by
  unfold triggerComputation
  rw [if_pos (by simp [joined, hjoined])]
  split
  next hbusy => exact hbusy
  next => rfl

theorem listeningMs_eq (c : StationConfig) : listeningMs c = 3 * c.refreshPeriod * 1000 := rfl

theorem exec_clearSuspend_refused (n : Nat) {s : State} (h : clearSuspendRefused s = true) :
    exec (.clearSuspend ⟨n, some ()⟩) s = .next (answeredOnly n (plain .refusedState) s) := by
  change Host.Outcome.next (hostCommand ⟨n, some ()⟩ false serveClearSuspend s) = _
  by_cases hleaving : s.ctrl.station = .leaving
  · rw [hostCommand_leaving _ _ _ _ hleaving]
  · have hrefused : clearSuspendRefused (clockOut n s) = true := by simpa [clearSuspendRefused] using h
    rw [hostCommand_served _ _ _ _ _ (.inl hleaving), serveClearSuspend, if_pos hrefused]
    rfl

theorem exec_clearSuspend_accepted (n : Nat) {s : State} (hstation : s.ctrl.station = .suspended)
    (h : clearSuspendRefused s = false) : exec (.clearSuspend ⟨n, some ()⟩) s =
      .next (holdAnswer (plain .done) (clearSuspension (clockOut n s))) := by
  change Host.Outcome.next (hostCommand ⟨n, some ()⟩ false serveClearSuspend s) = _
  have haccepted : ¬ clearSuspendRefused (clockOut n s) = true := by simpa [clearSuspendRefused] using h
  rw [hostCommand_served _ _ _ _ _ (.inl (by simp [hstation])), serveClearSuspend, if_neg haccepted]

/-- What the computation of a changed C leaves of an entry into LISTENING. -/
theorem clearSuspension_stands (s : State) : (clearSuspension s).ctrl = (enterListening (clearErrors s)).ctrl ∧
    (clearSuspension s).table = (enterListening (clearErrors s)).table ∧ (clearSuspension s).line = (enterListening (clearErrors s)).line ∧
    (clearSuspension s).host = (enterListening (clearErrors s)).host ∧ (clearSuspension s).mon = (enterListening (clearErrors s)).mon := by
  rw [clearSuspension_eq]
  split <;> simp

theorem clearSuspension_counts (s : State) : (clearSuspension s).mon.errors = 0 ∧ (clearSuspension s).mon.goodRun = 0 := by
  obtain ⟨-, -, -, -, hmon⟩ := clearSuspension_stands s
  rw [hmon]
  by_cases hfilter : s.ctrl.filter = .active
  · rw [enterListening_of_filtered (by exact hfilter)]
    exact ⟨(suspendStation_mon .supply _).2, suspendStation_goodRun .supply _⟩
  · rw [enterListening_of_unfiltered (by exact hfilter)]
    exact ⟨rfl, rfl⟩

/-- CLEAR_SUSPEND without a filtered warning: LISTENING, and a changed C triggers a computation. -/
theorem clearSuspension_unfiltered {s : State} (hfilter : s.ctrl.filter ≠ .active) :
    (clearSuspension s).ctrl = { s.ctrl with
      station := .listening, suspendReason := none, listening := some (listeningMs s.ctrl.config) } ∧
    (clearSuspension s).table = s.table ∧ (clearSuspension s).line = s.line ∧
    (s.mon.errors = 0 → (clearSuspension s).pledge = s.pledge) ∧
    (s.mon.errors ≠ 0 → (clearSuspension s).pledge.comp.isSome = true) := by
  obtain ⟨hctrl, htable, hline, -, -⟩ := clearSuspension_stands s
  have hentered := enterListening_of_unfiltered (s := clearErrors s) (by exact hfilter)
  refine ⟨by rw [hctrl, hentered]; rfl, by rw [htable, hentered]; rfl, by rw [hline, hentered]; rfl, fun hzero => ?_, fun hchanged => ?_⟩
  · rw [clearSuspension_eq, if_neg (by simp [hzero]), hentered]
    rfl
  · rw [clearSuspension_eq, if_pos (by simp [hchanged]), hentered]
    exact triggerComputation_comp false (by simp)

/-- CLEAR_SUSPEND beside a filtered warning: SUSPENDED for SUPPLY. -/
theorem clearSuspension_filtered {s : State} (hfilter : s.ctrl.filter = .active) (hstation : s.ctrl.station = .suspended) :
    (clearSuspension s).ctrl.station = .suspended ∧ (clearSuspension s).ctrl.suspendReason = some .supply ∧
    WithdrawnWhole .supply s (clearSuspension s) := by
  obtain ⟨hctrl, htable, hline, hhost, -⟩ := clearSuspension_stands s
  have hentered := enterListening_of_filtered (s := clearErrors s) (by exact hfilter)
  have hwithdrawn (c : Controller) (hc : c.station ≠ .unjoined) :
      WithdrawnWhole .supply s (suspendStation .supply ((clearErrors s).setCtrl c)) :=
    withdrawnWhole_congr (u := clearErrors s) Iff.rfl rfl rfl rfl rfl (withdrawnWhole_setCtrl (q := .supply) (by simp [hstation]) hc)
  refine ⟨by rw [hctrl, hentered]; simp, by rw [hctrl, hentered]; simp, WithdrawnWhole.after htable hline (by rw [hhost]) ?_⟩
  rw [hentered]
  exact hwithdrawn _ (by simp)

/-- Settles O17: the rows of Table 1-7, and SUPPLY at once where the filter is ACTIVE. -/
theorem clearSuspendByCause : Obligations.ClearSuspendByCause := by
  unfold Obligations.ClearSuspendByCause
  intro n s
  refine ⟨fun hrefused => exec_clearSuspend_refused n ((clearSuspendRefused_iff s).mpr hrefused), fun hstation hcause => ?_⟩
  have haccepted : clearSuspendRefused s = false :=
    Bool.eq_false_iff.mpr fun h => ((clearSuspendRefused_iff s).mp h).elim (absurd hstation) hcause
  obtain ⟨herrors, hgood⟩ := clearSuspension_counts (clockOut n s)
  refine ⟨_, exec_clearSuspend_accepted n hstation haccepted, by simp, by simpa using herrors, by simpa using hgood, by simp, by simp,
    by simp, by simp, by simp, fun hfilter => ?_, fun hfilter => ?_⟩
  · obtain ⟨hctrl, htable, hline, hsame, hcomp⟩ := clearSuspension_unfiltered (s := clockOut n s) (by simpa using hfilter)
    refine ⟨by simp [hctrl], by simp [hctrl], by simp [hctrl, listeningMs_eq], by simp [htable], by simp [hline], fun hzero => ?_,
      fun hchanged => ?_⟩
    · simpa using hsame (by simpa using hzero)
    · simpa using hcomp (by simpa using hchanged)
  · obtain ⟨hsuspended, hreason, hwithdrawn⟩ := clearSuspension_filtered (s := clockOut n s) (by simpa using hfilter) (by simpa using hstation)
    exact ⟨by simpa using hsuspended, by simpa using hreason, withdrawnWhole_answered hwithdrawn⟩

end Sys2Proof.Machine

/-! PROOFS. What an accepted JOIN leaves, the timers of the Station Controller and the Pledge Engine, and the end of the
listening period (R6, R7, R13, R15, R19, R51, R55, R60). -/

namespace Sys2Proof.Machine

/-! ### Triggers -/

theorem triggerComputation_of_free {s : State} (refresh : Bool) (hjoined : s.ctrl.station ≠ .unjoined) (hfree : s.pledge.comp = none) :
    triggerComputation refresh s = startComputation false refresh false s := by
  simp [triggerComputation, joined, busy, hjoined, hfree]

/-- A start snapshots the state-stale condition and carries its marks; what waits stands (R49). -/
theorem startComputation_marks (b r p : Bool) (s : State) :
    (startComputation b r p s).pledge.comp.map (·.stale) = some s.ctrl.stale ∧
    (startComputation b r p s).pledge.comp.map (·.boundary) = some b ∧
    (startComputation b r p s).pledge.comp.map (·.refresh) = some r ∧
    (startComputation b r p s).pledge.comp.map (·.price) = some p ∧
    (startComputation b r p s).pledge.rerun = s.pledge.rerun ∧ (startComputation b r p s).pledge.refresh = s.pledge.refresh := by
  simp [startComputation, snapshot, pruneEntries]

theorem triggerComputation_eq (r : Bool) (s : State) :
    triggerComputation r s = { s with pledge := (triggerComputation r s).pledge } := by
  unfold triggerComputation
  split
  · split <;> rfl
  · rfl

theorem triggerComputation_refresh (r : Bool) (s : State) : (triggerComputation r s).pledge.refresh = s.pledge.refresh := by
  unfold triggerComputation
  split
  · split
    · rfl
    · exact (startComputation_marks _ _ _ _).2.2.2.2.2
  · rfl

/-! ### The state-stale limit and the refresh timer -/

theorem beginStale_of_due {s : State} (hdue : staleDue s = true) (hfresh : s.ctrl.stale = false) :
    beginStale s = raiseEvent .stateStale (s.setCtrl { s.ctrl with stale := true }) := by
  simp [beginStale, hdue, hfresh]

theorem beginStale_of_not {s : State} (h : ¬ (staleDue s = true ∧ s.ctrl.stale = false)) : beginStale s = s := by
  unfold beginStale
  rw [if_neg (by simpa using h)]

theorem exec_stateStaleLimit_eq (s : State) : exec .stateStaleLimit s = .next (reachStaleLimit s) := rfl

/-- The state-stale timer at its limit, from a timer that has not passed it. -/
theorem reachStaleLimit_eq {s : State} (hbelow : s.ctrl.staleMs ≤ s.ctrl.config.staleLimit * 1000) :
    reachStaleLimit s = (let s1 := s.setCtrl { s.ctrl with staleMs := s.ctrl.config.staleLimit * 1000 }
      if isActive s1 && !s1.ctrl.stale then triggerComputation false (beginStale s1) else s1) := by
  have hmax : max s.ctrl.staleMs (s.ctrl.config.staleLimit * Config.msPerSecond) = s.ctrl.config.staleLimit * 1000 :=
    max_eq_right hbelow
  unfold reachStaleLimit
  rw [hmax]

/-- Settles O31: the onset in ACTIVE and its trigger, the timer alone elsewhere, and the refresh timer. -/
theorem timersTriggerComputations : Obligations.TimersTriggerComputations := by
  unfold Obligations.TimersTriggerComputations
  refine ⟨fun s hbelow => ⟨fun hactive hfresh => ?_, fun hnot => ?_⟩, fun s hruns => ?_⟩
  · have hreached : reachStaleLimit s = triggerComputation false (raiseEvent .stateStale
        (s.setCtrl { s.ctrl with staleMs := s.ctrl.config.staleLimit * 1000, stale := true })) := by
      rw [reachStaleLimit_eq hbelow]
      dsimp only
      rw [if_pos (by simp [isActive, hactive, hfresh]),
        beginStale_of_due (by simp [staleDue, Config.msPerSecond]) (by exact hfresh)]
      rfl
    generalize hu : raiseEvent .stateStale _ = u at hreached
    have hctrl : u.ctrl = { s.ctrl with staleMs := s.ctrl.config.staleLimit * 1000, stale := true } := by simp [← hu]
    have hjoined : u.ctrl.station ≠ .unjoined := by simp [hctrl, hactive]
    have hpledge : u.pledge = s.pledge := by simp [← hu]
    refine ⟨_, (exec_stateStaleLimit_eq s).trans (by rw [hreached]), by simp [hctrl], ?_, fun hfree => ?_, fun hbusy => ?_, by simp [← hu],
      by simp [← hu], by simp [← hu], by simp [← hu], by simp [← hu], by simp [← hu], by simp [← hu], by simp [← hu]⟩
    · exact flagsKept_of_host (by simp) _ (hu ▸ flagSet_raiseEvent _ _)
    · rw [triggerComputation_of_free _ hjoined (by rw [hpledge, hfree]), (startComputation_marks _ _ _ _).1, hctrl]
    · rw [triggerComputation_of_busy _ hjoined (by rw [hpledge, hbusy])]
      simp [hpledge]
  · rw [exec_stateStaleLimit_eq, reachStaleLimit_eq hbelow]
    dsimp only
    rw [if_neg (by rcases hnot with h | h <;> simp [isActive, h])]
    rfl
  · have hexec : exec .refreshTimerExpiry s = .next (triggerComputation true (restartRefresh s)) := by
      change Host.Outcome.next _ = _
      rw [if_pos hruns]
    refine ⟨_, hexec, triggerComputation_eq _ _, ?_, fun hjoined hfree => ?_, fun hjoined hbusy => ?_, fun hunjoined => ?_⟩
    · exact triggerComputation_refresh _ _
    · rw [triggerComputation_of_free _ (by exact hjoined) (by exact hfree)]
      obtain ⟨-, -, hmark, -, hrerun, -⟩ := startComputation_marks false true false (restartRefresh s)
      exact ⟨hmark, hrerun⟩
    · rw [triggerComputation_of_busy _ (by exact hjoined) (by exact hbusy)]
      exact ⟨rfl, by simp⟩
    · rw [triggerComputation_of_unjoined _ (by exact hunjoined)]
      exact ⟨rfl, rfl⟩

end Sys2Proof.Machine

/-! PROOFS. The end of the listening period, and what an accepted JOIN leaves (R6, R7, R13, R15, R19, R51, R60). -/

namespace Sys2Proof.Machine

/-! ### The entry into ACTIVE before the requests that apply -/

/-- Where the entry into ACTIVE begins the state-stale condition (R15). -/
abbrev StaleOnset (s : State) : Prop := s.ctrl.config.staleLimit * 1000 ≤ s.ctrl.staleMs ∧ s.ctrl.stale = false

theorem staleDue_iff (s : State) : staleDue s = true ↔ s.ctrl.config.staleLimit * 1000 ≤ s.ctrl.staleMs := decide_eq_true_iff

/-- The station in ACTIVE, its own takes waiting for the lock. -/
def activated (s : State) : State := (s.setCtrl { s.ctrl with station := .active, listening := none }).setEntryDue true

/-- The entry with setpoint and window formed, before its computation. -/
def entryFormed (s : State) : State := beginJudging (recompute (beginStale (activated s)))

/-- The entry with its computation and its onset's rerun request. -/
def entryTriggered (s : State) : State :=
  if StaleOnset s then triggerComputation false (triggerComputation false (entryFormed s)) else triggerComputation false (entryFormed s)

theorem enterActive_eq (s : State) : enterActive s = entryRequests (entryTriggered s) := by
  have honset : (staleDue (activated s) && !(activated s).ctrl.stale) = decide (StaleOnset s) := by
    rw [Bool.eq_iff_iff, Bool.and_eq_true, staleDue_iff]
    simp [activated]
  unfold enterActive entryTriggered
  dsimp only
  change entryRequests (if (staleDue (activated s) && !(activated s).ctrl.stale) = true then _ else _) = _
  rw [honset]
  simp only [decide_eq_true_eq]
  rfl

theorem beginStale_activated (s : State) : beginStale (activated s) = if StaleOnset s then
    raiseEvent .stateStale ((activated s).setCtrl { (activated s).ctrl with stale := true }) else activated s := by
  split
  next h => exact beginStale_of_due ((staleDue_iff _).mpr h.1) h.2
  next h => exact beginStale_of_not fun hdue => h ⟨(staleDue_iff _).mp hdue.1, hdue.2⟩

/-- What the entry leaves as it is. -/
theorem entryFormed_frame (s : State) : (entryFormed s).clock = s.clock ∧ (entryFormed s).table = s.table ∧
    (entryFormed s).pledge = s.pledge ∧ (entryFormed s).line = s.line ∧ (entryFormed s).view = s.view ∧
    (entryFormed s).entryTakesDue = true ∧ (entryFormed s).freq = s.freq ∧ (entryFormed s).pending = s.pending := by
  unfold entryFormed
  rw [beginStale_activated]
  split <;> simp [beginJudging_frame, activated]

theorem entryFormed_ctrl (s : State) : (entryFormed s).ctrl = { s.ctrl with
    station := .active, listening := none, stale := decide (StaleOnset s) || s.ctrl.stale } := by
  unfold entryFormed
  rw [beginStale_activated]
  split
  next h => simp [beginJudging_frame, activated, h]
  next h => simp [beginJudging_frame, activated, h]

theorem entryFormed_raised (s : State) : Raised .stateStale (if StaleOnset s then 1 else 0) s (entryFormed s) := by
  have hformed : Raised .stateStale 0 (beginStale (activated s)) (entryFormed s) :=
    raised_of_host (by simp [entryFormed, beginJudging_frame]) _
  have hbegun : Raised .stateStale (if StaleOnset s then 1 else 0) s (beginStale (activated s)) := by
    rw [beginStale_activated]
    split
    · exact Raised.trans (m := 0) (t := (activated s).setCtrl { (activated s).ctrl with stale := true }) (raised_of_host rfl _)
        (raised_raiseEvent _ _)
    · exact raised_of_host rfl _
  exact Raised.trans hbegun hformed

theorem entryFormed_window {s : State} (hfb : s.mon.fb = .present) : (entryFormed s).mon.window = .settling ∧
    (entryFormed s).mon.settling = some s.ctrl.config.settleTime ∧ (entryFormed s).mon.reference = (entryFormed s).mon.heldD := by
  have hstill : (recompute (beginStale (activated s))).mon.fb = .present :=
    (monitorSame_recompute _).1.trans (by simp [activated, hfb])
  unfold entryFormed beginJudging
  rw [if_pos hstill]
  simp [startSettling, beginStale_ctrl, activated]

theorem entryFormed_activation (s : State) : ActivationLaw (entryFormed s) :=
  activationLaw_of_frame (by simp [entryFormed, beginJudging_frame]) (by simp [entryFormed, beginJudging_frame])
    (by simp [entryFormed, beginJudging_frame]) (recompute_activation (beginStale (activated s)))

theorem entryTriggered_eq (s : State) : entryTriggered s = { entryFormed s with pledge := (entryTriggered s).pledge } := by
  unfold entryTriggered
  split
  · rw [triggerComputation_eq, triggerComputation_eq false (entryFormed s)]
  · exact triggerComputation_eq _ _

/-- The entry's computation carries the condition in its snapshot, and an onset asks for one more. -/
theorem entryTriggered_free {s : State} (hfree : s.pledge.comp = none) :
    (entryTriggered s).pledge.comp.map (·.stale) = some (entryFormed s).ctrl.stale ∧
    (entryTriggered s).pledge.comp.map (·.boundary) = some false ∧
    (entryTriggered s).pledge.rerun = if StaleOnset s then some (s.pledge.rerun.getD false) else s.pledge.rerun := by
  obtain ⟨-, -, hpledge, -⟩ := entryFormed_frame s
  have hjoined : (entryFormed s).ctrl.station ≠ .unjoined := by simp [entryFormed_ctrl]
  have hstarted := triggerComputation_of_free false hjoined (by rw [hpledge, hfree])
  obtain ⟨hstale, hboundary, -, -, hrerun, -⟩ := startComputation_marks false false false (entryFormed s)
  rw [hpledge] at hrerun
  unfold entryTriggered
  split
  · rw [hstarted, triggerComputation_of_busy _ (by simpa using hjoined) (startComputation_pledge _ _ _ _).2.2.2.2.2.2.2.2]
    exact ⟨hstale, hboundary, by simp [hrerun]⟩
  · rw [hstarted]
    exact ⟨hstale, hboundary, hrerun⟩

/-- A trigger beside a computation in flight sets the rerun request (R51). -/
theorem triggerComputation_waits {s : State} (refresh : Bool) (hjoined : s.ctrl.station ≠ .unjoined) (hbusy : s.pledge.comp.isSome = true) :
    (triggerComputation refresh s).pledge.comp = s.pledge.comp ∧
    (triggerComputation refresh s).pledge.rerun = some (refresh || s.pledge.rerun.getD false) := by
  rw [triggerComputation_of_busy _ hjoined hbusy]
  exact ⟨rfl, rfl⟩

theorem entryTriggered_busy {s : State} (hbusy : s.pledge.comp.isSome = true) :
    (entryTriggered s).pledge.comp = s.pledge.comp ∧ (entryTriggered s).pledge.rerun = some (s.pledge.rerun.getD false) := by
  obtain ⟨-, -, hpledge, -⟩ := entryFormed_frame s
  have hjoined : (entryFormed s).ctrl.station ≠ .unjoined := by simp [entryFormed_ctrl]
  obtain ⟨hcomp, hrerun⟩ := triggerComputation_waits false hjoined (by rw [hpledge, hbusy])
  rw [hpledge] at hcomp hrerun
  unfold entryTriggered
  split
  · obtain ⟨hcomp', hrerun'⟩ := triggerComputation_waits (s := triggerComputation false (entryFormed s)) false (by simpa using hjoined)
      (by rw [hcomp, hbusy])
    exact ⟨hcomp'.trans hcomp, by rw [hrerun', hrerun]; simp⟩
  · exact ⟨hcomp, by rw [hrerun]; simp⟩

theorem entryTriggered_comp (s : State) : (entryTriggered s).pledge.comp.isSome = true := by
  have hjoined : (entryFormed s).ctrl.station ≠ .unjoined := by simp [entryFormed_ctrl]
  unfold entryTriggered
  split
  · exact triggerComputation_comp false (by simpa using hjoined)
  · exact triggerComputation_comp false hjoined

theorem entryTriggered_held (s : State) : (entryTriggered s).pledge.boundaryPending = s.pledge.boundaryPending := by
  obtain ⟨-, -, hpledge, -⟩ := entryFormed_frame s
  have hheld (u : State) : (triggerComputation false u).pledge.boundaryPending = u.pledge.boundaryPending :=
    (anchored_triggerComputation false u).held
  unfold entryTriggered
  split
  · rw [hheld, hheld, hpledge]
  · rw [hheld, hpledge]

theorem entryTriggered_frame (s : State) : (entryTriggered s).ctrl = (entryFormed s).ctrl ∧ (entryTriggered s).clock = s.clock ∧
    (entryTriggered s).table = s.table ∧ (entryTriggered s).line = s.line ∧ (entryTriggered s).view = s.view ∧
    (entryTriggered s).entryTakesDue = true ∧ (entryTriggered s).freq = s.freq ∧ (entryTriggered s).mon = (entryFormed s).mon ∧
    (entryTriggered s).act = (entryFormed s).act ∧ (entryTriggered s).host = (entryFormed s).host ∧
    (entryTriggered s).pending = s.pending := by
  obtain ⟨hclock, htable, -, hline, hview, hdue, hfreq, hpending⟩ := entryFormed_frame s
  rw [entryTriggered_eq]
  exact ⟨rfl, hclock, htable, hline, hview, hdue, hfreq, rfl, rfl, rfl, hpending⟩

/-! ### The suspension at the entry -/

theorem raised_withdrawProcedure {e : Event} (hwithdrawn : e ≠ .withdrawn) (hdrop : e ≠ .queueDrop) (q : Reason) (sel : CRecord → Bool)
    (s : State) : Raised e 0 s (withdrawProcedure q sel s) := by
  unfold withdrawProcedure
  dsimp only
  generalize hu : s.setTable _ = u
  have htable : Raised e 0 s u := hu ▸ raised_of_host rfl e
  have hentered := htable.trans (raised_enqueue hdrop .withdraw (some (withdrawContent q s sel)) u)
  exact (hentered.trans (raised_raiseEvent_of_ne hwithdrawn _)).trans (raised_of_host (by simp) e)

theorem raised_suspendStation {e : Event} (hsuspended : e ≠ .suspended) (hwithdrawn : e ≠ .withdrawn) (hdrop : e ≠ .queueDrop)
    (q : SuspendReason) (s : State) : Raised e 0 s (suspendStation q s) := by
  unfold suspendStation
  dsimp only
  generalize hu : (leaveActive s).setCtrl _ = u
  have hleft : Raised e 0 s u := hu ▸ raised_of_host (by simp) e
  exact (hleft.trans (raised_withdrawProcedure hwithdrawn hdrop _ _ u)).trans (raised_raiseEvent_of_ne hsuspended _)

theorem exec_listeningTimerExpiry_eq {s : State} (hstation : s.ctrl.station = .listening) (htimer : s.ctrl.listening.isSome = true) :
    exec .listeningTimerExpiry s = .next (entryRequests (entryTriggered s)) := by
  change Host.Outcome.next _ = _
  rw [if_pos ⟨hstation, htimer⟩, enterActive_eq]

theorem entryRequests_of_present {s : State} (hfb : s.mon.fb = .present) (hfilter : s.ctrl.filter ≠ .active) : entryRequests s = s := by
  unfold entryRequests supplyWhenFiltered
  rw [if_neg (by simp [hfb]), if_neg hfilter]

theorem entryRequests_of_lost {s : State} (hfb : s.mon.fb = .lost) (hfilter : s.ctrl.filter ≠ .active) (hstation : s.ctrl.station = .active) :
    entryRequests s = suspendStation .inverter s := by
  unfold entryRequests
  rw [if_pos hfb, if_neg hfilter, requestInActive_of_active hstation]

theorem entryTriggered_fb (s : State) : (entryTriggered s).mon.fb = s.mon.fb := by
  obtain ⟨-, -, -, -, -, -, -, hmon, -⟩ := entryTriggered_frame s
  have hformed : (recompute (beginStale (activated s))).mon.fb = s.mon.fb := (monitorSame_recompute _).1.trans (by simp [activated])
  rw [hmon, entryFormed, beginJudging]
  split
  · simpa [startSettling] using hformed
  · exact hformed

/-- What both ends of the listening period leave: the state-stale condition, its event, and the entry's computation. -/
theorem entered_of {s t : State} (hctrl : t.ctrl.stale = (entryTriggered s).ctrl.stale ∧ t.ctrl.staleMs = (entryTriggered s).ctrl.staleMs)
    (hraised : Raised .stateStale 0 (entryTriggered s) t) (hpledge : t.pledge = (entryTriggered s).pledge) :
    (t.ctrl.stale = true ↔ StaleOnset s ∨ s.ctrl.stale = true) ∧ t.ctrl.staleMs = s.ctrl.staleMs ∧
    Raised .stateStale (if StaleOnset s then 1 else 0) s t ∧
    (s.pledge.comp = none → t.pledge.comp.map (·.stale) = some t.ctrl.stale ∧ t.pledge.comp.map (·.boundary) = some false ∧
      t.pledge.rerun = if StaleOnset s then some (s.pledge.rerun.getD false) else s.pledge.rerun) ∧
    (s.pledge.comp.isSome = true → t.pledge.comp = s.pledge.comp ∧ t.pledge.rerun = some (s.pledge.rerun.getD false)) := by
  obtain ⟨hsame, -, -, -, -, -, -, -, -, hhost, -⟩ := entryTriggered_frame s
  obtain ⟨hstale, hms⟩ := hctrl
  rw [hsame] at hstale hms
  refine ⟨?_, by rw [hms, entryFormed_ctrl], ?_, fun hfree => ?_, fun hbusy => ?_⟩
  · rw [hstale, entryFormed_ctrl]
    simp
  · exact ((entryFormed_raised s).trans (raised_of_host hhost _)).trans hraised
  · rw [hpledge, hstale]
    exact entryTriggered_free hfree
  · rw [hpledge]
    exact entryTriggered_busy hbusy

/-- Settles O19: the entry into ACTIVE, and the suspension for INVERTER that follows it in the same moment. -/
theorem listeningPeriodEnds : Obligations.ListeningPeriodEnds := by
  unfold Obligations.ListeningPeriodEnds
  intro s hstation htimer hfilter
  have hexec := exec_listeningTimerExpiry_eq hstation htimer
  obtain ⟨hctrl, hclock, htable, hline, hview, hdue, hfreq, hmon, hact, -, hpending⟩ := entryTriggered_frame s
  have hfilter' : (entryTriggered s).ctrl.filter ≠ .active := by rwa [hctrl, entryFormed_ctrl]
  refine ⟨fun hfb => ?_, fun hfb => ?_⟩
  · rw [entryRequests_of_present ((entryTriggered_fb s).trans hfb) hfilter'] at hexec
    obtain ⟨hwindow, hsettling, hreference⟩ := entryFormed_window hfb
    refine ⟨_, hexec, by rw [hctrl, entryFormed_ctrl], by rw [hctrl, entryFormed_ctrl], by rw [hctrl, entryFormed_ctrl], htable, hview,
      hline, hclock, hfreq, entryTriggered_comp s, hdue, by rw [hmon, hwindow], by rw [hmon, hsettling], by rw [hmon, hreference], ?_, ?_,
      hpending⟩
    · refine activationLaw_of_frame hctrl ?_ hact (entryFormed_activation s)
      rw [htable, (entryFormed_frame s).2.1]
    · exact entered_of ⟨rfl, rfl⟩ (raised_of_host rfl _) rfl
  · have hactive : (entryTriggered s).ctrl.station = .active := by rw [hctrl, entryFormed_ctrl]
    rw [entryRequests_of_lost ((entryTriggered_fb s).trans hfb) hfilter' hactive] at hexec
    refine ⟨_, hexec, by simp, by simp, by simp, ?_, suspendStation_neutral _ _, flagSet_suspendStation _ _, ?_,
      by simp [hclock], by simp [hview], by simp [hfreq], by simp [hpending]⟩
    · refine withdrawnWhole_congr (u := entryTriggered s) ?_ htable hline hclock ?_ (withdrawnWhole_suspendStation .inverter _)
      · simp [hactive, hstation]
      · rw [tableFirst, tableFirst, entryTriggered_held, hclock]
    · exact entered_of (by simp) (raised_suspendStation (by decide) (by decide) (by decide) _ _) (by simp)

end Sys2Proof.Machine

/-! PROOFS. What an accepted JOIN leaves, and the Delivery Monitor's events (R6, R13, R19, R43, R60, R139, R151 to R156). -/

namespace Sys2Proof.Machine

/-! ### JOIN accepted -/

/-- The first insert into an empty queue of an IDLE transmitter starts it. -/
theorem enqueue_line_of_empty (k : NoticeKey) (w : Option WithdrawContent) {s : State} (hqueue : s.line.queue = []) (htx : s.line.tx = .idle) :
    (enqueue k w s).line = { s.line with
      tx := .waiting, backoff := backoffAdvance s.line.backoff, run := some 0
      queue := [{ newEntry k w with draw := (backoffAdvance s.line.backoff).toNat % 16 }] } := by
  rw [enqueue_line, hqueue, insertQueue_of_room rfl (by simp)]
  simp [settleHead, htx, appendGroup, beginRun]

theorem joinReady_laws (s : State) : recordKeys (joinReady s).table = horizonPairs s.clock.current := by
  unfold joinReady
  simp [recordKeys_rebuiltTable]

theorem suspendStation_act (q : SuspendReason) (s : State) : (suspendStation q s).act.phase = s.act.phase := by
  simp [suspendStation, withdrawProcedure, recompute_act, leaveActive, stopHolds]

theorem suspendStation_line (q : SuspendReason) (s : State) : (suspendStation q s).line =
    (enqueue .withdraw (some (withdrawContent q.toReason ((leaveActive s).setCtrl { (leaveActive s).ctrl with
      station := .suspended, suspendReason := some q, listening := none }) fun _ => true)) s).line := by
  simp [suspendStation, withdrawProcedure, enqueue_line, leaveActive, stopHolds]

theorem joinReady_line (s : State) : (joinReady s).line = s.line.on s.ctrl.config := by simp [joinReady]

/-- JOIN with a filtered warning: one WITHDRAW of the whole horizon waits, with one send. -/
theorem joinSuspended_line {s : State} (hfree : s.pledge.boundaryPending = false) (c : Controller) :
    (suspendStation .supply ((joinReady s).setCtrl c)).line = { s.line.on s.ctrl.config with
      tx := .waiting, backoff := backoffAdvance (s.line.on s.ctrl.config).backoff, run := some 0
      queue := [{ newEntry .withdraw (some ⟨.supply, s.clock.current, 0xFF⟩) with
        draw := (backoffAdvance (s.line.on s.ctrl.config).backoff).toNat % 16 }] } := by
  have hfirst (c' : Controller) : tableFirst ((leaveActive ((joinReady s).setCtrl c)).setCtrl c') = s.clock.current := by
    rw [tableFirst_free (by simp [joinReady, hfree])]
    simp [joinReady]
  have hkeys (c' : Controller) : recordKeys ((leaveActive ((joinReady s).setCtrl c)).setCtrl c').table = horizonPairs s.clock.current := by
    rw [← joinReady_laws s]
    simp [leaveActive, stopHolds, recordKeys, Function.comp_def]
  rw [suspendStation_line, withdrawContent_whole _ (by rw [hkeys, hfirst]), hfirst,
    enqueue_line_of_empty _ _ (by simp [joinReady_line, LineInterface.on, LineInterface.off, LineInterface.reset])
      (by simp [joinReady_line, LineInterface.on, LineInterface.off, LineInterface.reset])]
  simp [joinReady_line, SuspendReason.toReason]

/-- What the computation of a changed C leaves of a JOIN. -/
theorem joinStation_stands (s : State) : ∃ p, p.refresh = (enterListening (joinReady s)).pledge.refresh ∧
    joinStation s = (enterListening (joinReady s)).setPledge p := by
  rw [joinStation_eq]
  split
  · exact ⟨_, triggerComputation_refresh false _, triggerComputation_eq false _⟩
  · exact ⟨_, rfl, rfl⟩

/-- The entry into LISTENING leaves log, mask, phase and counters, and its records are those before it, withdrawn or not. -/
theorem enterListening_stands (s : State) : recordKeys (enterListening s).table = recordKeys s.table ∧
    (enterListening s).mon.errors = s.mon.errors ∧ (enterListening s).mon.goodRun = s.mon.goodRun ∧
    (enterListening s).act.phase = s.act.phase ∧ (enterListening s).ctrl.config = s.ctrl.config ∧
    (enterListening s).host.log = s.host.log ∧ (enterListening s).host.mask = s.host.mask ∧
    received (enterListening s).line = received s.line := by
  by_cases hfilter : s.ctrl.filter = .active
  · rw [enterListening_of_filtered hfilter]
    generalize hu : s.setCtrl _ = u
    obtain ⟨-, herrors⟩ := suspendStation_mon .supply u
    obtain ⟨hlog, hmask⟩ := suspendStation_log .supply u
    refine ⟨?_, herrors.trans (by simp [← hu]), (suspendStation_goodRun _ _).trans (by simp [← hu]), (suspendStation_act _ _).trans (by simp [← hu]),
      by simp [← hu], hlog.trans (by simp [← hu]), hmask.trans (by simp [← hu]), ?_⟩
    · simp [recordKeys, Function.comp_def, ← hu]
    · rw [suspendStation_line, received_enqueue, ← hu]
      rfl
  · rw [enterListening_of_unfiltered hfilter]
    exact ⟨rfl, rfl, rfl, rfl, rfl, rfl, rfl, rfl⟩

/-- Settles O15: what every accepted JOIN leaves, and the two cases of the filter. -/
theorem joinEntersListening : Obligations.JoinEntersListening := by
  unfold Obligations.JoinEntersListening
  intro n s hstation hset hid hscale hdeadband hfree
  have haccepted : joinRefusal s = none := by
    simp [joinRefusal, hstation, hset, hid, not_lt.mpr hscale, not_le.mpr hdeadband]
  obtain ⟨p, hrefresh, hjoin⟩ := joinStation_stands (clockOut n s)
  obtain ⟨hkeys, herrors, hgood, hphase, -, hlog, hmask, hreceived⟩ := enterListening_stands (joinReady (clockOut n s))
  obtain ⟨-, hpledge, -⟩ := enterListening_frame (joinReady (clockOut n s))
  have hexec := exec_join_of_accepted n haccepted
  rw [hjoin] at hexec
  simp only [received, Prod.mk.injEq, joinReady_line] at hreceived
  obtain ⟨hrx, hbad, hdropped⟩ := hreceived
  rw [hpledge] at hrefresh
  rw [joinReady_laws] at hkeys
  refine ⟨_, hexec, by simpa using hkeys, by simp [joinReady], by simpa [joinReady, clearErrors] using herrors,
    by simpa [joinReady, clearErrors] using hgood, by simpa [LineInterface.on, LineInterface.off, LineInterface.reset] using hrx,
    by simpa [LineInterface.on, LineInterface.off] using hbad, by simpa [LineInterface.on, LineInterface.off] using hdropped,
    by simpa [joinReady, Config.msPerSecond] using hrefresh, by simpa [joinReady, recomputePhase, ditherPhase_eq] using hphase,
    by simp [joinReady], by simp [joinReady], by simp [joinReady],
    by simpa [holdAnswer, joinReady] using hlog, by simpa [holdAnswer, joinReady] using hmask, by simp [joinReady], by simp [joinReady], fun hfilter => ?_, fun hfilter => ?_⟩
  · have hentered := enterListening_of_unfiltered (s := joinReady (clockOut n s)) (by simpa [joinReady] using hfilter)
    rw [hentered]
    refine ⟨rfl, by simp [joinReady, listeningMs_eq], by simp [joinReady], ?_, ?_, ?_⟩ <;>
      simp [joinReady_line, LineInterface.on, LineInterface.off, LineInterface.reset, backoffSeed]
  · have hentered := enterListening_of_filtered (s := joinReady (clockOut n s)) (by simpa [joinReady] using hfilter)
    generalize hc : ({ (joinReady (clockOut n s)).ctrl with
      station := .listening, suspendReason := none, listening := some (listeningMs (joinReady (clockOut n s)).ctrl.config) } : Controller) = c
      at hentered
    have hline := joinSuspended_line (s := clockOut n s) (by simpa using hfree) c
    rw [hentered]
    refine ⟨by simp, by simp, by simp, ?_, ⟨_, congrArg LineInterface.queue hline, rfl, rfl, rfl, rfl⟩, by simp [hline], ?_, ?_⟩
    · simpa [joinReady, SuspendReason.toReason] using allWithdrawn_map .supply (rebuiltTable s.ctrl.config s.pledge s.clock.current)
    · change flagSet .suspended (suspendStation _ _) = true
      exact flagSet_suspendStation _ _
    · change flagSet .withdrawn (suspendStation _ _) = true
      exact (withdrawnWhole_suspendStation _ _).2.2

end Sys2Proof.Machine

/-! PROOFS. The Delivery Monitor's events: feedback, delivered energy, verdicts (R43, R151 to R156). -/

namespace Sys2Proof.Machine

/-! ### Feedback -/

theorem feedbackValid_iff (period falls : Nat) : feedbackValid period falls = true ↔ 8000 ≤ period ∧ period ≤ 12500 ∧ falls = 1 := by
  simp [feedbackValid, and_assoc]

/-- The duty of a period whose high time lies within it (R151). -/
theorem feedbackDuty_eq {period high : Nat} (hpos : 0 < period) (hhigh : high ≤ period) :
    feedbackDuty period high = (2048 * high + period) / (2 * period) := by
  have hrounded : roundDiv (1024 * (high : Int)) period = (((2048 * high + period) / (2 * period) : Nat) : Int) := by
    unfold roundDiv
    rw [if_pos (by positivity)]
    have habs : (1024 * (high : Int)).natAbs = 1024 * high := by omega
    rw [habs, ← mul_assoc]
    norm_num
  have hbound : (2048 * high + period) / (2 * period) ≤ 1024 := by
    refine Nat.lt_succ_iff.mp (Nat.div_lt_of_lt_mul ?_)
    nlinarith
  unfold feedbackDuty
  rw [hrounded, clampInt_of_mem (by positivity) (by exact_mod_cast hbound), Int.toNat_natCast]

/-- F of a duty, rounded halves away from zero (R151). -/
theorem feedbackDelta_eq (scale duty : Nat) : feedbackDelta scale duty =
    if 512 ≤ duty then ((((duty - 512) * scale * 2 + 512) / 1024 : Nat) : Int)
    else -((((512 - duty) * scale * 2 + 512) / 1024 : Nat) : Int) := by
  unfold feedbackDelta roundDiv
  by_cases hduty : 512 ≤ duty
  · have hvalue : ((duty : Int) - 512) * scale = ((duty - 512) * scale : Nat) := by push_cast [hduty]; ring
    rw [if_pos hduty, hvalue]
    generalize (duty - 512) * scale = x
    rw [if_pos (by positivity), Int.natAbs_natCast, mul_comm 2]
  · have hvalue : ((duty : Int) - 512) * scale = -((512 - duty) * scale : Nat) := by push_cast [not_le.mp hduty |>.le]; ring
    rw [if_neg hduty, hvalue]
    generalize (512 - duty) * scale = x
    split <;> simp <;> omega

/-- With the window stopped a recomputation hands over D alone. -/
theorem recompute_mon_of_stopped {s : State} (hstopped : s.mon.window = .stopped) :
    (recompute s).mon = { s.mon with heldD := (recompute s).mon.heldD } := by
  unfold recompute handOverDelta
  dsimp only
  split
  · rfl
  · rw [if_neg (by simp [hstopped])]
    rfl

/-- What a suspension leaves of the monitor: the window stopped, and a D handed over. -/
theorem suspendStation_monitor (q : SuspendReason) (s : State) :
    (suspendStation q s).mon = { (stopWindow s).mon with heldD := (suspendStation q s).mon.heldD } := by
  have hstopped (u : State) (hu : u.mon = (stopWindow s).mon) : (recompute u).mon = { (stopWindow s).mon with heldD := (recompute u).mon.heldD } := by
    rw [recompute_mon_of_stopped (by rw [hu]; rfl), hu]
  simp only [suspendStation, withdrawProcedure, raiseEvent_frame]
  exact hstopped _ (by simp [leaveActive, stopHolds])

theorem exec_feedbackLost_eq (s : State) : exec .feedbackLost s = .next (if s.mon.fb = .present then loseFeedback s else s) := rfl

/-- Settles O45: a valid and another period, and the loss of feedback in both station states. -/
theorem feedbackMeasuredAndLost : Obligations.FeedbackMeasuredAndLost := by
  unfold Obligations.FeedbackMeasuredAndLost
  intro period high falls s
  refine ⟨fun hlow hhigh hfalls hwithin => ?_, fun hinvalid => ?_, fun hlost => ?_, fun hpresent => ?_⟩
  · change Host.Outcome.next _ = _
    rw [if_pos ((feedbackValid_iff _ _).mpr ⟨hlow, hhigh, hfalls⟩), feedbackDuty_eq (by omega) hwithin, feedbackDelta_eq]
    rfl
  · change Host.Outcome.next _ = _
    rw [if_neg]
    rw [feedbackValid_iff]
    omega
  · rw [exec_feedbackLost_eq, if_neg (by simp [hlost])]
  · have hexec := exec_feedbackLost_eq s
    rw [if_pos hpresent, loseFeedback] at hexec
    generalize hu : stopWindow _ = u at hexec
    by_cases hactive : s.ctrl.station = .active
    · rw [requestInActive_of_active (by simp [← hu, hactive])] at hexec
      have hmon := suspendStation_monitor .inverter u
      refine ⟨_, hexec, by rw [hmon, ← hu]; rfl, by rw [hmon, ← hu]; rfl, by rw [hmon, ← hu]; rfl, by rw [hmon, ← hu]; rfl,
        by rw [hmon, ← hu]; rfl, by rw [hmon, ← hu]; rfl, by rw [hmon, ← hu]; rfl, fun h => absurd hactive h, fun _ => ?_⟩
      refine ⟨by simp, by simp, ?_, suspendStation_neutral _ _, flagSet_suspendStation _ _, by simp [← hu], by simp [← hu],
        by simp [← hu], by simp [← hu], by simp [← hu], ?_, by simp [← hu]⟩
      · subst hu
        exact withdrawnWhole_congr (u := stopWindow _) Iff.rfl rfl rfl rfl rfl (withdrawnWhole_suspendStation .inverter _)
      · rw [(suspendStation_log _ _).1, ← hu]; rfl
    · rw [requestInActive_of_other (by simpa [← hu] using hactive)] at hexec
      subst hu
      exact ⟨_, hexec, rfl, rfl, rfl, rfl, rfl, rfl, rfl, fun _ => rfl, fun h => absurd h hactive⟩

/-! ### Delivered energy -/

/-- The mean of a second's samples, halves away from zero (R153). -/
theorem roundDiv_thousand (x : Int) : roundDiv x 1000 = if 0 ≤ x then (2 * x + 1000) / 2000 else -((-2 * x + 1000) / 2000) := by
  unfold roundDiv
  split <;> omega

/-- An entry of the horizon stands when the others are discarded (R40). -/
theorem baselineOf_pruneEntries (c : StationConfig) (p : PledgeEngine) {cur k : Word} (hk : inHorizon cur k = true) :
    baselineOf c (pruneEntries cur p) k = baselineOf c p k := by
  have hfound : (p.baselines.filter fun e => inHorizon cur e.interval).find? (fun e => e.interval == k) =
      p.baselines.find? fun e => e.interval == k := by
    rw [List.find?_filter]
    congr 1
    funext e
    by_cases he : e.interval = k
    · simp [he, hk]
    · simp [he]
  unfold baselineOf pruneEntries
  rw [hfound]

/-- Settles O46: the mean at A and at the RUNNING records. -/
theorem measurementPeriodEnds : Obligations.MeasurementPeriodEnds := by
  unfold Obligations.MeasurementPeriodEnds
  intro s
  dsimp only
  rw [← roundDiv_thousand]
  generalize hx : roundDiv s.mon.samples 1000 = x
  have hexec : exec .measurementPeriodEnd s = .next (endMeasurement s) := rfl
  have hrecords : (endMeasurement s).table = s.table.map fun r => if r.state == .running then
      { r with run := r.run.map fun f => { f with delivered := f.delivered + towardRecord r.dir x } } else r := by
    rw [← hx]
    rfl
  have hacc : (endMeasurement s).pledge.acc = max (-2147483648) (min 2147483647
      (s.pledge.acc + (x + baselineOf s.ctrl.config s.pledge s.clock.current))) := by
    rw [← hx, ← baselineOf_pruneEntries s.ctrl.config s.pledge (inHorizon_self s.clock.current)]
    rfl
  refine ⟨_, hexec, rfl, hacc, rfl, rfl, by rw [hrecords, List.length_map], fun i r hr => ?_, rfl, rfl, rfl, rfl, rfl, rfl, rfl, rfl⟩
  rw [hrecords, List.getElem?_map, hr]
  have htoward : towardRecord r.dir x = if r.dir = .raise then x else -x := by cases r.dir <;> simp [towardRecord]
  simp [htoward]

end Sys2Proof.Machine

/-! PROOFS. Verdicts at the RUNNING records, at C, and the suspension for DELIVERY (R154 to R156). -/

namespace Sys2Proof.Machine

theorem verdictGood_iff (d f : Int) : verdictGood d f = true ↔ |f - d| ≤ max 20 (|d| / 16) := by
  have hgood : verdictGood d f = true ↔ (f - d).natAbs ≤ max 20 (d.natAbs / 16) := decide_eq_true_iff
  rw [hgood, Int.abs_eq_natAbs, Int.abs_eq_natAbs]
  omega

/-- The running fields after a verdict: it counts in the direction of the mean D, in both at 0. -/
def verdictCounted (good : Bool) (d : Int) (dir : Direction) (f : RunFields) : RunFields :=
  if verdictConcerns d dir then
    if good then { f with good := min 300 (f.good + 1) } else { f with bad := min 300 (f.bad + 1) }
  else f

theorem countVerdict_table (good : Bool) (d : Int) (s : State) : (countVerdict good d s).table =
    s.table.map fun r => if r.state == .running then { r with run := r.run.map (verdictCounted good d r.dir) } else r := rfl

theorem verdictConcerns_iff (d : Int) (dir : Direction) :
    verdictConcerns d dir = true ↔ 0 ≤ d ∧ dir = .raise ∨ d ≤ 0 ∧ dir = .lower := by
  cases dir <;> simp [verdictConcerns]

theorem verdictCounted_fields (good : Bool) (d : Int) (dir : Direction) (f : RunFields) :
    (verdictCounted good d dir f).delivered = f.delivered ∧
    (verdictCounted good d dir f).good =
      (if (0 ≤ d ∧ dir = .raise ∨ d ≤ 0 ∧ dir = .lower) ∧ good = true then min 300 (f.good + 1) else f.good) ∧
    (verdictCounted good d dir f).bad =
      (if (0 ≤ d ∧ dir = .raise ∨ d ≤ 0 ∧ dir = .lower) ∧ ¬ good = true then min 300 (f.bad + 1) else f.bad) := by
  simp only [← verdictConcerns_iff]
  unfold verdictCounted
  split
  next hconcerns => cases good <;> simp [hconcerns]
  next hnot => simp [hnot]

/-- What a judge period's end leaves of a record's running fields, and of the number of records. -/
def VerdictAt (s t : State) (good : Bool) (d : Int) : Prop :=
  t.table.length = s.table.length ∧
  ∀ (i : Nat) (r : CRecord), s.table[i]? = some r → r.state = .running → ∀ f, r.run = some f →
    ∃ u, t.table[i]? = some u ∧ ∃ g, u.run = some g ∧ g.delivered = f.delivered ∧
      g.good = (if (0 ≤ d ∧ r.dir = .raise ∨ d ≤ 0 ∧ r.dir = .lower) ∧ good = true then min 300 (f.good + 1) else f.good) ∧
      g.bad = (if (0 ≤ d ∧ r.dir = .raise ∨ d ≤ 0 ∧ r.dir = .lower) ∧ ¬ good = true then min 300 (f.bad + 1) else f.bad)

theorem verdictAt_counted {s t : State} {good : Bool} {d : Int} (htable : t.table = (countVerdict good d s).table) : VerdictAt s t good d := by
  rw [countVerdict_table] at htable
  refine ⟨by rw [htable, List.length_map], fun i r hr hrunning f hf => ?_⟩
  refine ⟨_, by rw [htable, List.getElem?_map, hr]; rfl, verdictCounted good d r.dir f, by simp [hrunning, hf],
    verdictCounted_fields good d r.dir f⟩

/-- A suspension leaves the counts of the verdict. -/
theorem verdictAt_suspended {s u : State} {good : Bool} {d : Int} (q : SuspendReason) (htable : u.table = (countVerdict good d s).table) :
    VerdictAt s (suspendStation q u) good d := by
  obtain ⟨hlength, hcounted⟩ := verdictAt_counted htable
  refine ⟨by simpa using hlength, fun i r hr hrunning f hf => ?_⟩
  rw [countVerdict_table] at htable
  refine ⟨_, by rw [suspendStation_table, htable, List.getElem?_map, List.getElem?_map, hr]; rfl,
    { verdictCounted good d r.dir f with minTake := 0 }, ?_, verdictCounted_fields good d r.dir f⟩
  rw [withdraw_run] <;> simp [hrunning, hf]

theorem triggerComputation_acc (r : Bool) (s : State) : (triggerComputation r s).pledge.acc = s.pledge.acc := by
  unfold triggerComputation
  split
  · split <;> rfl
  · rfl

/-- A change of C triggers a computation; with C as it was the Pledge Engine stands (R156). -/
def CounterTriggers (s t : State) : Prop :=
  (t.mon.errors ≠ s.mon.errors → s.ctrl.station ≠ .unjoined → t.pledge.comp.isSome = true) ∧
  (t.mon.errors = s.mon.errors → t.pledge = s.pledge) ∧ t.pledge.acc = s.pledge.acc

theorem counterTriggers_triggerComputation {s u : State} (hstation : u.ctrl.station = .unjoined ↔ s.ctrl.station = .unjoined)
    (hacc : u.pledge.acc = s.pledge.acc) (herrors : u.mon.errors ≠ s.mon.errors) : CounterTriggers s (triggerComputation false u) := by
  refine ⟨fun _ hjoined => triggerComputation_comp false fun hu => hjoined (hstation.mp hu), fun hsame => ?_,
    (triggerComputation_acc _ _).trans hacc⟩
  exact absurd (by simpa using hsame) herrors

/-- A good verdict: the sixteenth in a row lowers a C above 0. -/
theorem goodVerdict_counts (s : State) : (goodVerdict s).mon.window = s.mon.window ∧ (goodVerdict s).mon.judgeMs = s.mon.judgeMs ∧
    (s.mon.goodRun < 15 → (goodVerdict s).mon.goodRun = s.mon.goodRun + 1 ∧ (goodVerdict s).mon.errors = s.mon.errors) ∧
    (15 ≤ s.mon.goodRun → (goodVerdict s).mon.goodRun = 0 ∧ (goodVerdict s).mon.errors = s.mon.errors - 1) ∧
    CounterTriggers s (goodVerdict s) := by
  unfold goodVerdict
  split
  next hfew =>
    exact ⟨rfl, rfl, fun _ => ⟨rfl, rfl⟩, fun h => absurd hfew (by omega), ⟨fun h => absurd rfl h, fun _ => rfl, rfl⟩⟩
  next hmany =>
    split
    next hzero =>
      exact ⟨rfl, rfl, fun h => absurd h (by omega), fun _ => ⟨rfl, by simp [hzero]⟩, ⟨fun h => absurd rfl h, fun _ => rfl, rfl⟩⟩
    next hpos =>
      refine ⟨by simp, by simp, fun h => absurd h (by omega), fun _ => by simp, counterTriggers_triggerComputation Iff.rfl rfl ?_⟩
      change s.mon.errors - 1 ≠ s.mon.errors
      omega

/-- A bad verdict's state before the counter acts on it. -/
def badCounted (s : State) : State := s.setMon { s.mon with goodRun := 0, errors := s.mon.errors + 1 }

theorem badVerdict_eq (s : State) : badVerdict s = triggerComputation false
    (if s.ctrl.config.suspendAt ≤ s.mon.errors + 1 then requestInActive .delivery (badCounted s) else badCounted s) := by
  unfold badVerdict
  dsimp only
  split <;> rfl

/-- A bad verdict that leaves the station as it is. -/
theorem badVerdict_of_standing {s : State} (h : ¬ (s.ctrl.config.suspendAt ≤ s.mon.errors + 1 ∧ s.ctrl.station = .active)) :
    badVerdict s = triggerComputation false (badCounted s) := by
  rw [badVerdict_eq]
  split
  next hthreshold => rw [requestInActive_of_other (s := badCounted s) fun hactive => h ⟨hthreshold, hactive⟩]
  next => rfl

theorem badVerdict_of_suspended {s : State} (hthreshold : s.ctrl.config.suspendAt ≤ s.mon.errors + 1) (hactive : s.ctrl.station = .active) :
    badVerdict s = triggerComputation false (suspendStation .delivery (badCounted s)) := by
  rw [badVerdict_eq, if_pos hthreshold, requestInActive_of_active (s := badCounted s) hactive]

/-- The judge period's end before the counter. -/
def judged (s : State) : State :=
  startJudging (countVerdict (verdictGood (roundDiv s.mon.dSum 1000) (roundDiv s.mon.fSum 1000)) (roundDiv s.mon.dSum 1000) s)

theorem endJudgePeriod_eq (s : State) : endJudgePeriod s =
    if verdictGood (roundDiv s.mon.dSum 1000) (roundDiv s.mon.fSum 1000) then goodVerdict (judged s) else badVerdict (judged s) := rfl

theorem exec_judgePeriodEnd_eq {s : State} (h : s.mon.window = .judging) : exec .judgePeriodEnd s = .next (endJudgePeriod s) := by
  change Host.Outcome.next _ = _
  rw [if_pos h]

/-- The verdict's counts are no part of a withdrawal. -/
theorem withdrawnWhole_countVerdict {q : Reason} {good : Bool} {d : Int} {s t : State} (h : WithdrawnWhole q (countVerdict good d s) t) :
    WithdrawnWhole q s t := by
  obtain ⟨⟨hlength, hall⟩, hqueued, hflag⟩ := h
  have hkeys : recordKeys (countVerdict good d s).table = recordKeys s.table := by
    rw [countVerdict_table, recordKeys, recordKeys, List.map_map]
    refine List.map_congr_left fun r _ => ?_
    dsimp only [Function.comp]
    split <;> rfl
  refine ⟨⟨by rw [hlength, countVerdict_table, List.length_map], fun i r hr => ?_⟩, fun hjoined hlaw => ?_, hflag⟩
  · obtain ⟨u, hu, hwithdrawn, hhold, hpending⟩ := hall i _ (by rw [countVerdict_table, List.getElem?_map, hr]; rfl)
    refine ⟨u, hu, ?_, hhold, hpending⟩
    dsimp only at hwithdrawn
    split at hwithdrawn
    · obtain ⟨hinterval, hdir, hstate, hreason, haward, hfrozen, hband, hsent, hopened, hcommitted⟩ := hwithdrawn
      refine ⟨hinterval, hdir, hstate, hreason, haward, hfrozen, hband, hsent, hopened, fun hnot => ?_⟩
      obtain ⟨hlive, hcap, htake, hmin, hmax⟩ := hcommitted hnot
      have hcounts (f : RunFields) : (verdictCounted good d r.dir f).maxTake = f.maxTake := by
        unfold verdictCounted
        split
        · split <;> rfl
        · rfl
      exact ⟨hlive, hcap, htake, by simpa [Function.comp_def] using hmin, by simpa [Function.comp_def, hcounts] using hmax⟩
    · exact hwithdrawn
  · rw [horizonLaw_of_joined hjoined, ← hkeys] at hlaw
    exact hqueued (by simpa using hjoined) ((horizonLaw_of_joined (by simpa using hjoined)).mpr hlaw)

theorem judged_mon (s : State) : (judged s).mon = { s.mon with window := .judging, settling := none, judgeMs := some 0, dSum := 0, fSum := 0 } := rfl

/-- A good verdict at the end of a judge period. -/
theorem endJudgePeriod_good {s : State} (hgood : verdictGood (roundDiv s.mon.dSum 1000) (roundDiv s.mon.fSum 1000) = true) :
    endJudgePeriod s = goodVerdict (judged s) := by rw [endJudgePeriod_eq, if_pos hgood]

theorem endJudgePeriod_bad {s : State} (hbad : ¬ verdictGood (roundDiv s.mon.dSum 1000) (roundDiv s.mon.fSum 1000) = true) :
    endJudgePeriod s = badVerdict (judged s) := by rw [endJudgePeriod_eq, if_neg hbad]

/-- The end of a judge period that leaves the station state. -/
theorem badVerdict_stands {s : State} (h : ¬ (s.ctrl.config.suspendAt ≤ s.mon.errors + 1 ∧ s.ctrl.station = .active)) :
    (badVerdict s).ctrl = s.ctrl ∧ (badVerdict s).mon = { s.mon with goodRun := 0, errors := s.mon.errors + 1 } ∧
    (badVerdict s).table = s.table ∧ (badVerdict s).host.log = s.host.log ∧ CounterTriggers s (badVerdict s) := by
  rw [badVerdict_of_standing h]
  exact ⟨by simp [badCounted], by simp [badCounted], by simp [badCounted], by simp [badCounted],
    counterTriggers_triggerComputation Iff.rfl rfl (by simp [badCounted])⟩

theorem Neutral.of_act {s t : State} (hact : t.act = s.act) (h : Neutral s) : Neutral t := by rwa [Neutral, hact]

/-- A bad verdict at T in ACTIVE: the suspension for DELIVERY, and the computation of the changed C. -/
theorem badVerdict_suspends {s : State} (hthreshold : s.ctrl.config.suspendAt ≤ s.mon.errors + 1) (hactive : s.ctrl.station = .active) :
    (badVerdict s).table = (suspendStation .delivery (badCounted s)).table ∧ (badVerdict s).ctrl.station = .suspended ∧
    (badVerdict s).ctrl.suspendReason = some .delivery ∧ (badVerdict s).mon.window = .stopped ∧ (badVerdict s).mon.goodRun = 0 ∧
    (badVerdict s).mon.errors = s.mon.errors + 1 ∧ WithdrawnWhole .delivery s (badVerdict s) ∧
    flagSet .suspended (badVerdict s) = true ∧ Neutral (badVerdict s) ∧ (badVerdict s).host.log = s.host.log ∧
    CounterTriggers s (badVerdict s) := by
  rw [badVerdict_of_suspended hthreshold hactive]
  have hmon := suspendStation_monitor .delivery (badCounted s)
  have herrors : (suspendStation .delivery (badCounted s)).mon.errors = s.mon.errors + 1 := by rw [hmon]; rfl
  obtain ⟨-, -, htable, hline, -, -, -, hact, hmonSame, hhost, -⟩ := triggerComputation_frame (suspendStation .delivery (badCounted s)) false
  rw [← hmonSame] at hmon herrors
  have hwithdrawn : WithdrawnWhole .delivery s (suspendStation .delivery (badCounted s)) :=
    withdrawnWhole_congr (u := badCounted s) Iff.rfl rfl rfl rfl rfl (withdrawnWhole_suspendStation .delivery _)
  refine ⟨htable, by simp, by simp, by rw [hmon]; rfl, by rw [hmon]; rfl, herrors, hwithdrawn.after htable hline (by rw [hhost]),
    flagsKept_of_host hhost _ (flagSet_suspendStation _ _), (suspendStation_neutral _ _).of_act hact, ?_,
    counterTriggers_triggerComputation ?_ ?_ ?_⟩
  · rw [hhost, (suspendStation_log _ _).1]
    rfl
  · simp [hactive]
  · simp [badCounted]
  · rw [← hmonSame, herrors]
    omega

/-- Settles O47: settling's end, and each verdict at the records and at C. -/
theorem verdictsReachTheCounter : Obligations.VerdictsReachTheCounter := by
  unfold Obligations.VerdictsReachTheCounter
  intro s
  refine ⟨fun hsettling => ?_, fun hjudging => ?_⟩
  · change Host.Outcome.next _ = _
    rw [if_pos hsettling]
    rfl
  · simp only [← roundDiv_thousand, ← verdictGood_iff]
    have hexec := exec_judgePeriodEnd_eq hjudging
    have hmon := judged_mon s
    by_cases hgood : verdictGood (roundDiv s.mon.dSum 1000) (roundDiv s.mon.fSum 1000) = true
    · rw [endJudgePeriod_good hgood] at hexec
      obtain ⟨hwindow, hjudge, hfew, hmany, htriggers⟩ := goodVerdict_counts (judged s)
      obtain ⟨hlength, hcounted⟩ := verdictAt_counted (s := s) (t := goodVerdict (judged s)) (by simp only [goodVerdict_frame]; rfl)
      refine ⟨_, hexec, hlength, hcounted, fun _ => ?_, fun hbad => absurd hgood hbad, htriggers.1, htriggers.2.1,
        by simp [judged], by simp [judged], by simp [judged], htriggers.2.2, by simp [judged], by simp [judged]⟩
      exact ⟨by simp [judged], hwindow, hjudge, hfew, hmany⟩
    · rw [endJudgePeriod_bad hgood] at hexec
      by_cases hsuspends : s.ctrl.config.suspendAt ≤ s.mon.errors + 1 ∧ s.ctrl.station = .active
      · obtain ⟨hthreshold, hactive⟩ := hsuspends
        obtain ⟨htable, hstation, hreason, hwindow, hgoodRun, herrors, hwithdrawn, hflag, hneutral, hlog, htriggers⟩ :=
          badVerdict_suspends (s := judged s) hthreshold hactive
        obtain ⟨hlength, hcounted⟩ := verdictAt_suspended (s := s) (u := badCounted (judged s)) (d := roundDiv s.mon.dSum 1000)
          (good := verdictGood (roundDiv s.mon.dSum 1000) (roundDiv s.mon.fSum 1000)) .delivery rfl
        rw [← htable] at hlength hcounted
        have hwithdrawn' : WithdrawnWhole .delivery s (badVerdict (judged s)) := withdrawnWhole_countVerdict
          (withdrawnWhole_congr (u := judged s) Iff.rfl rfl rfl rfl rfl hwithdrawn)
        refine ⟨_, hexec, hlength, hcounted, fun h => absurd h hgood, fun _ => ⟨hgoodRun, herrors, fun h => absurd hthreshold h,
          fun _ _ => ⟨hstation, hreason, hwindow, hwithdrawn', hflag, hneutral⟩⟩, htriggers.1, htriggers.2.1, by simp [judged],
          by simp [judged], by simp [judged], htriggers.2.2, by rw [hlog]; simp [judged], by simp [judged]⟩
      · obtain ⟨hctrl, hmon, htable, hlog, htriggers⟩ := badVerdict_stands (s := judged s) hsuspends
        obtain ⟨hlength, hcounted⟩ := verdictAt_counted (s := s) (t := badVerdict (judged s)) (d := roundDiv s.mon.dSum 1000)
          (good := verdictGood (roundDiv s.mon.dSum 1000) (roundDiv s.mon.fSum 1000)) htable
        refine ⟨_, hexec, hlength, hcounted, fun h => absurd h hgood, fun _ => ⟨by rw [hmon], by rw [hmon]; rfl, fun _ => ?_,
          fun hthreshold hactive => absurd ⟨hthreshold, hactive⟩ hsuspends⟩, htriggers.1, htriggers.2.1, by simp [judged], by simp [judged],
          by simp [judged], htriggers.2.2, by rw [hlog]; simp [judged], by simp [judged]⟩
        exact ⟨by rw [hctrl]; simp [judged], by rw [hmon]; rfl, by rw [hmon]; rfl⟩

end Sys2Proof.Machine

/-! PROOFS. Carrier sense, jams and received frames (R59 to R62, R66 to R68). -/

namespace Sys2Proof.Machine

/-! ### The backoff generator -/

/-- One step of the generator, bit by bit (R60). -/
theorem backoffStep_bits (v : Word) : (∀ i, i < 15 → (backoffStep v).getLsbD i = v.getLsbD (i + 1)) ∧
    (backoffStep v).getLsbD 15 = (v.getLsbD 0 ^^ v.getLsbD 2 ^^ v.getLsbD 3 ^^ v.getLsbD 5) := by
  have hhigh : 0x8000#16 = BitVec.twoPow 16 15 := by decide
  unfold backoffStep
  dsimp only
  generalize (v.getLsbD 0 ^^ v.getLsbD 2 ^^ v.getLsbD 3 ^^ v.getLsbD 5) = b
  refine ⟨fun i hi => ?_, ?_⟩
  · cases b <;> simp [hhigh, BitVec.getLsbD_twoPow, show ¬ 15 = i by omega, Nat.add_comm]
  · cases b <;> simp [hhigh]

/-! ### Carrier sense -/

theorem carrierWatched_iff (s : State) : carrierWatched s = true ↔ s.ctrl.station ≠ .unjoined ∧ s.line.tx ≠ .sending := by
  simp [carrierWatched, joined]

theorem exec_carrierDetectChange_eq (active : Bool) (s : State) : exec (.carrierDetectChange active) s =
    .next (if s.line.cdet = active then s
      else if active then s.setLine (carrierRises (carrierWatched s) s.line)
      else s.setLine (carrierFalls (carrierWatched s) s.line)) := rfl

theorem exec_carrierDetectChange_same {active : Bool} {s : State} (h : s.line.cdet = active) :
    exec (.carrierDetectChange active) s = .next s := by rw [exec_carrierDetectChange_eq, if_pos h]

theorem exec_carrierDetectChange_rises {s : State} (h : s.line.cdet = false) :
    exec (.carrierDetectChange true) s = .next (s.setLine (carrierRises (carrierWatched s) s.line)) := by
  rw [exec_carrierDetectChange_eq, if_neg (by simp [h]), if_pos rfl]

theorem exec_carrierDetectChange_falls {s : State} (h : s.line.cdet = true) :
    exec (.carrierDetectChange false) s = .next (s.setLine (carrierFalls (carrierWatched s) s.line)) := by
  rw [exec_carrierDetectChange_eq, if_neg (by simp [h]), if_neg (by simp)]

/-- A new run of a waiting head, with a fresh draw (R62). -/
theorem beginRun_of_cons {l : LineInterface} {e : QEntry} {rest : List QEntry} (h : l.queue = e :: rest) :
    beginRun l = { l with backoff := backoffAdvance l.backoff, run := some 0
                          queue := { e with draw := (backoffAdvance l.backoff).toNat % 16 } :: rest } := by
  simp [beginRun, h]

theorem resumeTx_of_nil {l : LineInterface} (h : l.queue = []) : resumeTx l = { l with tx := .idle, run := none } := by
  simp [resumeTx, h]

theorem resumeTx_of_ne_nil {l : LineInterface} (h : l.queue ≠ []) : resumeTx l = beginRun { l with tx := .waiting } := by
  simp [resumeTx, h]

/-- A run begun for the head of `l`: count 0, a fresh draw, and the other entries as they were. -/
def RunBegun (l m : LineInterface) : Prop :=
  m.run = some 0 ∧ m.backoff = backoffAdvance l.backoff ∧ m.queue.tail = l.queue.tail ∧
  ∃ e ∈ l.queue.head?, m.queue.head? = some { e with draw := m.backoff.toNat % 16 }

theorem runBegun_beginRun {l m : LineInterface} (hqueue : m.queue = l.queue) (hbackoff : m.backoff = l.backoff) (hne : l.queue ≠ []) :
    RunBegun l (beginRun m) := by
  obtain ⟨e, rest, hcons⟩ := List.exists_cons_of_ne_nil hne
  rw [beginRun_of_cons (hqueue.trans hcons), hbackoff]
  exact ⟨rfl, rfl, by simp [hcons], e, by simp [hcons], rfl⟩

theorem exec_lineCarrier_eq (s : State) : exec .lineCarrier s =
    .next (if carrierWatched s && s.line.burst.isSome && !s.line.carrier then
      s.setLine (abandonRun { s.line with carrier := true, idleMs := 0, receiver := s.line.receiver.onCarrier })
    else s) := rfl

theorem exec_lineJam_eq (s : State) : exec .lineJam s =
    .next (if joined s && s.line.carrier && (s.line.tx == .idle || s.line.tx == .waiting) then
      raiseEvent .lineJam (s.setLine { s.line with tx := .jammed, run := none }) else s) := rfl

theorem exec_jamClear_eq (s : State) : exec .jamClear s =
    .next (if joined s && s.line.tx == .jammed && !s.line.carrier then s.setLine (resumeTx s.line) else s) := rfl

/-- The end of line carrier (R59). -/
theorem carrierFalls_of_carrier {l : LineInterface} (hcarrier : l.carrier = true) :
    carrierFalls true l = becomeIdle { l with cdet := false, burst := none } := by simp [carrierFalls, hcarrier]

theorem becomeIdle_of_waiting {l : LineInterface} (h : l.tx = .waiting) : becomeIdle l = beginRun { l with carrier := false, idleMs := 0 } := by
  simp [becomeIdle, h]

theorem becomeIdle_of_other {l : LineInterface} (h : l.tx ≠ .waiting) : becomeIdle l = { l with carrier := false, idleMs := 0 } := by
  simp [becomeIdle, h]

theorem becomeIdle_stands (l : LineInterface) : (becomeIdle l).cdet = l.cdet ∧ (becomeIdle l).carrier = false ∧
    (becomeIdle l).burst = l.burst ∧ (becomeIdle l).receiver = l.receiver ∧ (becomeIdle l).tx = l.tx := by
  by_cases hwaiting : l.tx = .waiting
  · rw [becomeIdle_of_waiting hwaiting]
    unfold beginRun
    split <;> simp
  · rw [becomeIdle_of_other hwaiting]
    simp

theorem abandonRun_eq (l : LineInterface) : abandonRun l = { l with run := if l.tx = .waiting then none else l.run } := by
  unfold abandonRun
  split <;> rfl

/-- Settles O48: each row of carrier sense, and the jams. -/
theorem carrierSensed : Obligations.CarrierSensed := by
  unfold Obligations.CarrierSensed
  refine ⟨fun v => ⟨_, _, _, backoffStep_bits v, backoffStep_bits _, backoffStep_bits _, backoffStep_bits _⟩, fun s => ?_⟩
  refine ⟨exec_carrierDetectChange_same, exec_carrierDetectChange_same, fun hlow => ?_, fun hhigh hwatched hcarrier => ?_,
    fun hhigh hwatched hcarrier => ?_, fun hhigh hnot => ?_, fun hwatched hburst hcarrier => ?_, fun hjoined hcarrier htx => ?_,
    fun hjoined hcarrier htx => ?_⟩
  · rw [exec_carrierDetectChange_rises hlow]
    simp only [← carrierWatched_iff]
    unfold carrierRises
    split <;> rfl
  · have hexec := exec_carrierDetectChange_falls hhigh
    rw [(carrierWatched_iff s).mpr hwatched, carrierFalls_of_carrier hcarrier] at hexec
    obtain ⟨hcdet, hcarrier', hburst, hreceiver, htx⟩ := becomeIdle_stands { s.line with cdet := false, burst := none }
    refine ⟨_, hexec, rfl, hcdet, hcarrier', hburst, hreceiver, htx, fun hwaiting hne => ?_, fun hother => ?_⟩
    · rw [becomeIdle_of_waiting (by exact hwaiting)]
      exact runBegun_beginRun rfl rfl hne
    · rw [becomeIdle_of_other (by exact hother)]
      exact ⟨rfl, rfl⟩
  · rw [exec_carrierDetectChange_falls hhigh, (carrierWatched_iff s).mpr hwatched]
    simp only [carrierFalls, hcarrier]
    rfl
  · rw [exec_carrierDetectChange_falls hhigh, Bool.eq_false_iff.mpr fun h => hnot ((carrierWatched_iff s).mp h)]
    rfl
  · rw [exec_lineCarrier_eq, if_pos (by simp [(carrierWatched_iff s).mpr hwatched, hburst, hcarrier])]
    have hheard : s.line.receiver.onCarrier = if s.line.receiver = .idle then .whole else s.line.receiver := by
      cases s.line.receiver <;> rfl
    rw [abandonRun_eq, hheard]
    rfl
  · have hexec := exec_lineJam_eq s
    rw [if_pos (by rcases htx with h | h <;> simp [joined, hjoined, hcarrier, h])] at hexec
    refine ⟨_, hexec, by simp, flagSet_raiseEvent _ _, ?_, by simp⟩
    rw [raiseEvent_eq]
    rfl
  · have hexec := exec_jamClear_eq s
    rw [if_pos (by simp [joined, hjoined, hcarrier, htx])] at hexec
    refine ⟨_, hexec, rfl, fun hnil => ?_, fun hne => ?_⟩
    · rw [← resumeTx_of_nil hnil]
      rfl
    · change (resumeTx s.line).tx = .waiting ∧ RunBegun s.line (resumeTx s.line)
      rw [resumeTx_of_ne_nil hne]
      exact ⟨(beginRun_queue _).2.2.2.2, runBegun_beginRun rfl rfl hne⟩

/-! ### Received frames -/

theorem exec_frameReceived_eq {bytes : List Byte} (hlength : bytes.length ≤ 49) (s : State) : exec (.frameReceived bytes) s =
    .next (if carrierWatched s && s.line.receiver.hasFrame bytes then closeFrame bytes s else s) := by
  have hheld : bytes.take Config.longestFrame = bytes := List.take_of_length_le hlength
  change Host.Outcome.next _ = _
  rw [hheld]

/-- Whether the receiver has the whole of a frame (R66). -/
theorem hasFrame_iff (bytes : List Byte) (r : Receiver) :
    r.hasFrame bytes = true ↔ r = .whole ∨ ∃ ms, r = .since ms ∧ 5 * (6 + bytes.length) ≤ 3 * ms := by
  cases r with
  | idle => simp [Receiver.hasFrame]
  | whole => simp [Receiver.hasFrame]
  | since ms =>
    have hthirds : lineThirds (preamble ++ bytes) = 5 * (6 + bytes.length) := by
      simp [lineThirds, preamble]
      omega
    have hframe : (Receiver.since ms).hasFrame bytes = true ↔ lineThirds (preamble ++ bytes) ≤ 3 * ms := decide_eq_true_iff
    rw [hframe, hthirds]
    simp

theorem takeGoodFrame_own {n : Notice} {s : State} (h : n.sender.toNat = s.ctrl.config.stationId) :
    takeGoodFrame n s = raiseEvent .idClash s := if_pos h

theorem takeGoodFrame_room {n : Notice} {s : State} (h : n.sender.toNat ≠ s.ctrl.config.stationId) (hroom : s.line.rx.length < 4) :
    takeGoodFrame n s = s.setLine { s.line with rx := s.line.rx ++ [n] } := by
  rw [takeGoodFrame, if_neg h]
  exact if_pos hroom

theorem takeGoodFrame_full {n : Notice} {s : State} (h : n.sender.toNat ≠ s.ctrl.config.stationId) (hfull : 4 ≤ s.line.rx.length) :
    takeGoodFrame n s = raiseEvent .rxOverflow (s.setLine { s.line with rxDropped := min 65535 (s.line.rxDropped + 1) }) := by
  rw [takeGoodFrame, if_neg h]
  exact if_neg (not_lt.mpr hfull)

/-- Settles O51: a frame not heard, a bad one, and a good one by its sender and the buffer. -/
theorem framesClosed : Obligations.FramesClosed := by
  unfold Obligations.FramesClosed
  intro bytes s hlength
  have hheard : (carrierWatched s && s.line.receiver.hasFrame bytes) = true ↔ s.ctrl.station ≠ .unjoined ∧ s.line.tx ≠ .sending ∧
      (s.line.receiver = .whole ∨ ∃ ms, s.line.receiver = .since ms ∧ 5 * (6 + bytes.length) ≤ 3 * ms) := by
    rw [Bool.and_eq_true, carrierWatched_iff, hasFrame_iff, and_assoc]
  dsimp only
  rw [← hheard, exec_frameReceived_eq hlength]
  refine ⟨fun hnot => by rw [if_neg hnot], fun h hbad => ?_, fun h n hgood => ⟨fun hown => ?_, fun hother hroom => ?_, fun hother hfull => ?_⟩⟩
  all_goals rw [if_pos h, closeFrame]
  · rw [hbad]
    rfl
  · rw [hgood]
    exact congrArg _ (takeGoodFrame_own hown)
  · rw [hgood]
    exact congrArg _ (takeGoodFrame_room hother hroom)
  · rw [hgood]
    exact congrArg _ (takeGoodFrame_full hother hfull)

end Sys2Proof.Machine

/-! PROOFS. What an idle run's end puts in flight (R62 to R64). -/

namespace Sys2Proof.Machine

/-! ### The entries of a PLEDGE -/

/-- Trimming leaves the entries up to the last one with a nonzero quantity. -/
theorem trimEntries_spec (l : List SlotEntry) : ∃ n ≤ l.length, trimEntries l = l.take n ∧
    (∀ x ∈ l.drop n, x.nonzero = false) ∧ ∀ x ∈ (l.take n).getLast?, x.nonzero = true := by
  induction l with
  | nil => exact ⟨0, le_rfl, rfl, by simp, by simp⟩
  | cons e rest ih =>
    obtain ⟨n, hn, htrim, hdropped, hlast⟩ := ih
    unfold trimEntries
    split
    next hnil =>
      have hrest : rest.drop n = rest := by
        have hsplit := List.take_append_drop n rest
        rwa [← htrim, hnil, List.nil_append] at hsplit
      rw [hrest] at hdropped
      by_cases he : e.nonzero = true
      · rw [if_pos he]
        exact ⟨1, by simp, rfl, hdropped, by simpa using he⟩
      · rw [if_neg he]
        exact ⟨0, by simp, rfl, List.forall_mem_cons.mpr ⟨Bool.eq_false_iff.mpr he, hdropped⟩, by simp⟩
    next r rs hcons =>
      rw [htrim] at hcons
      refine ⟨n + 1, by simpa using hn, by rw [List.take_succ_cons, hcons], hdropped, ?_⟩
      rw [List.take_succ_cons, hcons, List.getLast?_cons_cons, ← hcons]
      exact hlast

/-- The entries of a PLEDGE are those of the first slots: up to the last with a nonzero quantity, and at least one (R63). -/
theorem pledgeEntries_spec (s : State) : ∃ n, 1 ≤ n ∧ n ≤ 8 ∧ pledgeEntries s = (List.range n).map (offeredEntry s) ∧
    (∀ j, j < 8 → n ≤ j → (offeredEntry s j).nonzero = false) ∧ (1 < n → (offeredEntry s (n - 1)).nonzero = true) := by
  obtain ⟨n, hn, htrim, hdropped, hlast⟩ := trimEntries_spec ((List.range 8).map (offeredEntry s))
  have hbound : n ≤ 8 := by simpa using hn
  have htake : ((List.range 8).map (offeredEntry s)).take n = (List.range n).map (offeredEntry s) := by
    rw [← List.map_take, List.take_range, min_eq_left hbound]
  have hzero : ∀ j, j < 8 → n ≤ j → (offeredEntry s j).nonzero = false := fun j hj hle => by
    refine hdropped _ (List.mem_iff_getElem?.mpr ⟨j - n, ?_⟩)
    rw [List.getElem?_drop, Nat.add_sub_cancel' hle, List.getElem?_map, List.getElem?_range hj]
    rfl
  rw [htake] at htrim hlast
  unfold pledgeEntries
  cases n with
  | zero =>
    rw [htrim]
    exact ⟨1, le_rfl, by omega, rfl, fun j hj _ => hzero j hj (Nat.zero_le _), nofun⟩
  | succ m =>
    refine ⟨m + 1, by omega, hbound, ?_, hzero, fun _ => hlast _ ?_⟩
    · rw [htrim, List.range_succ_eq_map]
      rfl
    · simp [List.range_succ]

/-- A pair of a PLEDGE carries what is offered for its record, in the bits of the frame (R63). -/
theorem offeredEntry_fields {s : State} {j : Nat} {d : Direction} {r : CRecord} (hfound : findRec s.table (atSlot (tableFirst s) j) d = some r) :
    (offeredEntry s j).band d = (offeredBy s.pledge r).1 % 16 ∧ (offeredEntry s j).qty d = (offeredBy s.pledge r).2 % 65536 := by
  have hdir := (findRec_some hfound).2.2
  have hoffer : offerAt s (atSlot (tableFirst s) j) d = offeredBy s.pledge r := by rw [offerAt, hfound]
  cases d <;> simp [offeredEntry, SlotEntry.band, SlotEntry.qty, hoffer]

/-- No quantity in an entry: both are 0. -/
theorem qty_of_not_nonzero {x : SlotEntry} (h : x.nonzero = false) (d : Direction) : x.qty d = 0 := by
  have hzero : x.raiseQty = 0 ∧ x.lowerQty = 0 := by simpa [SlotEntry.nonzero] using h
  cases d <;> simp [SlotEntry.qty, hzero]

/-- What a PLEDGE carries, slot by slot (R63). -/
theorem pledgeEntries_carry (s : State) : 1 ≤ (pledgeEntries s).length ∧ (pledgeEntries s).length ≤ 8 ∧
    (∀ (j : Nat) (x : SlotEntry), (pledgeEntries s)[j]? = some x → ∀ d r,
      findRec s.table (tableFirst s + BitVec.ofNat 16 j) d = some r →
      x.band d = (offeredBy s.pledge r).1 % 16 ∧ x.qty d = (offeredBy s.pledge r).2 % 65536) ∧
    (∀ j, j < 8 → (pledgeEntries s).length ≤ j → ∀ d r,
      findRec s.table (tableFirst s + BitVec.ofNat 16 j) d = some r → (offeredBy s.pledge r).2 % 65536 = 0) ∧
    (1 < (pledgeEntries s).length → ∃ x ∈ (pledgeEntries s).getLast?, x.raiseQty ≠ 0 ∨ x.lowerQty ≠ 0) := by
  obtain ⟨n, hpos, hbound, hentries, hzero, hlast⟩ := pledgeEntries_spec s
  rw [hentries, List.length_map, List.length_range]
  refine ⟨hpos, hbound, fun j x hx d r hfound => ?_, fun j hj hle d r hfound => ?_, fun hmore => ?_⟩
  · rw [List.getElem?_map] at hx
    obtain ⟨i, hi, rfl⟩ := Option.map_eq_some_iff.mp hx
    obtain ⟨-, rfl⟩ := List.getElem?_eq_some_iff.mp hi
    rw [List.getElem_range] at *
    exact offeredEntry_fields hfound
  · rw [← (offeredEntry_fields hfound).2]
    exact qty_of_not_nonzero (hzero j hj hle) d
  · obtain ⟨m, rfl⟩ : ∃ m, n = m + 1 := ⟨n - 1, by omega⟩
    refine ⟨offeredEntry s m, by simp [List.range_succ], ?_⟩
    have := hlast hmore
    simpa [SlotEntry.nonzero] using this

/-- A record is offered with the current band and its live pledge while OPEN, with its frozen band and cap after (R63). -/
theorem offeredBy_eq {p : PledgeEngine} {r : CRecord} {d : Direction} (hdir : r.dir = d) :
    offeredBy p r = if r.state = .opened then (bandOf p d, r.live.getD 0) else (r.frozenBand.getD 0, r.cap.getD 0) := by
  rw [offeredBy, hdir]

/-! ### The head in flight -/

theorem exec_idleRunComplete_eq (s : State) : exec .idleRunComplete s =
    .next (if joined s && s.line.tx == .waiting && s.line.run.isSome && !s.line.carrier then completeRun s else s) := rfl

/-- The head `e` of `s` is in flight with the frame of `body`, and all but line and table stands. -/
def SentAs (e : QEntry) (rest : List QEntry) (s : State) (body : NoticeBody) (t : State) : Prop :=
  let bytes := preamble ++ frameBytes ⟨.ofNat 8 s.ctrl.config.stationId, s.ctrl.config.zone, body⟩
  t.line.tx = .sending ∧ t.line.queue = { e with inFlight := true } :: rest ∧
  t.line.sending = some ⟨bytes, 5 * bytes.length⟩ ∧ t.line.receiver = .idle ∧ t.line.rx = s.line.rx ∧ t.ctrl = s.ctrl ∧
  t.clock = s.clock ∧ t.pledge = s.pledge ∧ t.view = s.view ∧ t.freq = s.freq ∧ t.act = s.act ∧ t.mon = s.mon ∧
  t.host = s.host ∧ t.pending = s.pending

/-- A byte takes 5 thirds of a millisecond of line time (log 22). -/
theorem lineThirds_eq (bytes : List Byte) : lineThirds bytes = 5 * bytes.length := by
  unfold lineThirds
  omega

theorem sentAs_startSending (e : QEntry) (rest : List QEntry) (b : NoticeBody) (s : State) : SentAs e rest s b (startSending e rest b s) := by
  simp [SentAs, startSending, lineThirds_eq, assembleFrame]

theorem startSending_table {e : QEntry} (hother : ∀ k d, e.key ≠ .take k d) (rest : List QEntry) (b : NoticeBody) (s : State) :
    (startSending e rest b s).table = s.table := by
  unfold startSending noteSent
  dsimp only
  split
  next k d hkey => exact absurd hkey (hother k d)
  all_goals rfl

theorem startSending_table_take {e : QEntry} {k : Word} {d : Direction} (hkey : e.key = .take k d) (rest : List QEntry) (b : NoticeBody)
    (s : State) : (startSending e rest b s).table = mapRec k d (fun r => { r with lastSent := some r.take }) s.table := by
  unfold startSending
  rw [hkey]
  rfl

/-- The queue of a head that leaves without a send keeps its other keys, and the transmitter goes on with it (R62, R64). -/
theorem settleHead_waiting {l : LineInterface} (h : l.tx = .waiting) (old : Option NoticeKey) :
    (settleHead old l).queue.map (·.key) = l.queue.map (·.key) ∧
    (settleHead old l).tx = if l.queue = [] then .idle else .waiting := by
  have hbegin := beginRun_queue l
  unfold settleHead
  rw [h]
  dsimp only
  split
  next hempty => simp_all
  next hne =>
    have hne : l.queue ≠ [] := by simpa using hne
    rw [if_neg hne]
    split
    · exact ⟨rfl, h⟩
    · exact ⟨hbegin.1, hbegin.2.2.2.2.trans h⟩

/-- Settles O49: each kind of head by what is assembled for it. -/
theorem headPutInFlight : Obligations.HeadPutInFlight := by
  unfold Obligations.HeadPutInFlight
  intro e rest s hjoined htx hrun hcarrier hqueue
  have hexec : exec .idleRunComplete s = .next (completeRun s) := by
    rw [exec_idleRunComplete_eq, if_pos (by simp [joined, hjoined, htx, hrun, hcarrier])]
  unfold completeRun at hexec
  rw [hqueue] at hexec
  dsimp only at hexec
  have hsends {b : NoticeBody} (hbody : assembleBody s e = some b) : exec .idleRunComplete s = .next (startSending e rest b s) := by
    rw [hexec, hbody]
  refine ⟨fun k d hkey r hfound a haward => ?_, fun k d hkey r hfound a haward => ?_, fun hkey w hcontent => ?_, fun hkey => ?_,
    fun k d hkey hnone => ?_⟩
  · refine ⟨_, hsends (by simp [assembleBody, hkey, hfound, haward]), sentAs_startSending _ _ _ _, ?_, fun k' d' hne => ?_⟩ <;>
      rw [startSending_table_take hkey]
    · rw [findRec_mapRec_self _ _ _ _ (by exact fun _ => ⟨rfl, rfl⟩), hfound]
      rfl
    · exact findRec_mapRec_of_ne _ _ _ _ _ _ (fun _ => ⟨rfl, rfl⟩) hne
  · exact ⟨_, hsends (by simp [assembleBody, hkey, hfound, haward]), startSending_table (by simp [hkey]) _ _ _, sentAs_startSending _ _ _ _⟩
  · exact ⟨_, hsends (by simp [assembleBody, hkey, hcontent]), startSending_table (by simp [hkey]) _ _ _, sentAs_startSending _ _ _ _⟩
  · obtain ⟨hpos, hbound, hcarried, hzero, hlast⟩ := pledgeEntries_carry s
    refine ⟨_, hsends (by simp [assembleBody, hkey]), _, startSending_table (by simp [hkey]) _ _ _, sentAs_startSending _ _ _ _, hpos, hbound,
      fun j x hx d r hfound => ?_, fun j hj hle d r hfound => ?_, hlast⟩
    · rw [← offeredBy_eq (findRec_some hfound).2.2]
      exact hcarried j x hx d r hfound
    · have := hzero j hj hle d r hfound
      rw [offeredBy_eq (findRec_some hfound).2.2] at this
      split <;> simp_all
  · have hbody : assembleBody s e = none := by
      rcases hkey with hkey | hkey <;> simp only [assembleBody, hkey]
      · cases hr : findRec s.table k d <;> simp_all
      · simp [hnone]
    rw [hbody] at hexec
    obtain ⟨hkeys, hnext⟩ := settleHead_waiting (l := { s.line with queue := rest }) (by exact htx) (some e.key)
    exact ⟨_, hexec, rfl, hkeys, hnext⟩

end Sys2Proof.Machine

/-! PROOFS. The merge of two withdrawals (R73). -/

namespace Sys2Proof.Machine

/-! ### Sets of slots -/

/-- A byte built by setting a bit for each element that has one. -/
theorem getLsbD_foldl_set {α : Type} (f : α → Option Nat) (l : List α) (b : Byte) (j : Nat) :
    (l.foldl (fun acc x => match f x with
      | some i => acc ||| (1#8 <<< i)
      | none => acc) b).getLsbD j = true ↔ b.getLsbD j = true ∨ (j < 8 ∧ ∃ x ∈ l, f x = some j) := by
  induction l generalizing b with
  | nil => simp
  | cons x rest ih =>
    rw [List.foldl_cons, ih]
    have hbit (i : Nat) : (1#8 <<< i).getLsbD j = true ↔ j < 8 ∧ i = j := by
      rw [BitVec.getLsbD_shiftLeft, BitVec.getLsbD_one]
      simp
      omega
    cases hx : f x with
    | none => simp [hx]
    | some i =>
      dsimp only
      rw [BitVec.getLsbD_or, Bool.or_eq_true, hbit]
      simp only [List.mem_cons, exists_eq_or_imp, hx, Option.some.injEq]
      tauto

/-- An interval is named where it lies at a slot whose flag is set. -/
theorem names_iff (w : WithdrawContent) (k : Word) : w.Names k ↔ w.affected.getLsbD (slotOf w.first k) = true := by
  constructor
  · rintro ⟨o, ho, hset, hk⟩
    have hslot : slotOf w.first (atSlot w.first o) = o := slotOf_atSlot _ _ (by have := List.mem_range.mp ho; omega)
    rw [hk]
    exact hslot.symm ▸ hset
  · intro hset
    refine ⟨slotOf w.first k, List.mem_range.mpr ?_, hset, (atSlot_slotOf w.first k).symm⟩
    exact not_le.mp fun hle => absurd hset (by simp [BitVec.getLsbD_of_ge _ _ hle])

/-- The reduced set names, slot by slot of the horizon, what the withdrawal names (R73). -/
theorem reducedSet_bit (cur k : Word) (w : WithdrawContent) :
    (reducedSet cur w).getLsbD (slotOf cur k) = true ↔ inHorizon cur k = true ∧ w.Names k := by
  let slot (o : Nat) : Option Nat :=
    let j := slotOf cur (atSlot w.first o)
    if w.affected.getLsbD o && j < 8 then some j else none
  have hfold : reducedSet cur w = (List.range 8).foldl (fun acc o => match slot o with
      | some i => acc ||| (1#8 <<< i)
      | none => acc) 0#8 := by
    unfold reducedSet
    congr 1
    funext acc o
    dsimp only [slot]
    split <;> simp_all
  have hslot (o : Nat) : slot o = some (slotOf cur k) ↔ inHorizon cur k = true ∧ w.affected.getLsbD o = true ∧ k = atSlot w.first o := by
    have hsame : slotOf cur (atSlot w.first o) = slotOf cur k ↔ k = atSlot w.first o := by
      refine ⟨fun h => ?_, fun h => by rw [h]⟩
      rw [← atSlot_slotOf cur k, ← h, atSlot_slotOf]
    simp only [slot, inHorizon, Option.ite_none_right_eq_some, Bool.and_eq_true, decide_eq_true_eq, Option.some.injEq, hsame]
    constructor
    · rintro ⟨⟨hset, hin⟩, rfl⟩
      exact ⟨hin, hset, rfl⟩
    · rintro ⟨hin, hset, rfl⟩
      exact ⟨⟨hset, hin⟩, rfl⟩
  rw [hfold, getLsbD_foldl_set]
  simp only [hslot, BitVec.getLsbD_zero, Bool.false_eq_true, false_or]
  have hin : inHorizon cur k = true ↔ slotOf cur k < 8 := decide_eq_true_iff
  rw [← hin]
  constructor
  · rintro ⟨-, o, ho, hk, hset, rfl⟩
    exact ⟨hk, o, ho, hset, rfl⟩
  · rintro ⟨hk, o, ho, hset, rfl⟩
    exact ⟨hk, o, ho, hk, hset, rfl⟩

/-- The lowest flag is set where one is, and none below it is. -/
theorem lowestFlag_spec (b : Byte) : lowestFlag b < 8 ∧ (∀ j, b.getLsbD j = true → lowestFlag b ≤ j ∧ b.getLsbD (lowestFlag b) = true) ∧
    ((∀ j, b.getLsbD j = false) → lowestFlag b = 0) := by
  unfold lowestFlag
  cases hfind : (List.range 8).find? fun o => b.getLsbD o with
  | none =>
    have hclear := List.find?_eq_none.mp hfind
    refine ⟨by decide, fun j hj => ?_, fun _ => rfl⟩
    have hlt : j < 8 := not_le.mp fun hle => absurd hj (by simp [BitVec.getLsbD_of_ge _ _ hle])
    exact absurd hj (by simpa using hclear j (List.mem_range.mpr hlt))
  | some m =>
    have hmem := List.mem_range.mp (List.mem_of_find?_eq_some hfind)
    have hset : b.getLsbD m = true := by simpa using List.find?_some hfind
    have hbelow : ∀ j < m, ¬ b.getLsbD j = true := fun j hj => by
      simpa using (List.find?_range_eq_some.mp hfind).2.2 j hj
    exact ⟨hmem, fun j hj => ⟨not_lt.mp fun hlt => hbelow j hlt hj, hset⟩, fun hnone => absurd hset (by simp [hnone])⟩

/-! ### The merge -/

variable (cur : Word) (a b : WithdrawContent)

/-- What a merge names, as the slots of the horizon: the union of the reduced sets. -/
theorem mergedSet_bit (k : Word) : (reducedSet cur a ||| reducedSet cur b).getLsbD (slotOf cur k) = true ↔
    inHorizon cur k = true ∧ (a.Names k ∨ b.Names k) := by
  rw [BitVec.getLsbD_or, Bool.or_eq_true, reducedSet_bit, reducedSet_bit]
  exact and_or_left.symm

theorem mergeWithdraw_names (k : Word) : (mergeWithdraw cur a b).Names k ↔ inHorizon cur k = true ∧ (a.Names k ∨ b.Names k) := by
  rw [← mergedSet_bit, names_iff]
  generalize hset : reducedSet cur a ||| reducedSet cur b = u
  have hmerge : (mergeWithdraw cur a b).affected = u >>> lowestFlag u ∧ (mergeWithdraw cur a b).first = atSlot cur (lowestFlag u) := by
    simp [mergeWithdraw, hset]
  rw [hmerge.1, hmerge.2, BitVec.getLsbD_ushiftRight]
  obtain ⟨hlow, hleast, -⟩ := lowestFlag_spec u
  have hslots (h : lowestFlag u + slotOf (atSlot cur (lowestFlag u)) k < 8 ∨ lowestFlag u ≤ slotOf cur k) :
      lowestFlag u + slotOf (atSlot cur (lowestFlag u)) k = slotOf cur k := by
    unfold slotOf atSlot at *
    generalize lowestFlag u = m at *
    bv_omega
  constructor
  · intro h
    rwa [hslots (.inl (not_le.mp fun hle => absurd h (by simp [BitVec.getLsbD_of_ge _ _ hle])))] at h
  · intro h
    rwa [hslots (.inr (hleast _ h).1)]

theorem reason_worse_eq (q r : Reason) : q.worse r = moreSevere (some q) r := by
  unfold Reason.worse moreSevere
  simp only [← not_lt, ite_not]

/-- A merge of two withdrawals (R73). -/
theorem mergeWithdraw_spec : let m := mergeWithdraw cur a b
    let named (k : Word) : Prop := inHorizon cur k = true ∧ (a.Names k ∨ b.Names k)
    (∀ k, m.Names k ↔ named k) ∧ m.reason = moreSevere (some a.reason) b.reason ∧ inHorizon cur m.first = true ∧
    (∀ k, named k → named m.first) ∧ ((∀ k, ¬ named k) → m.first = cur ∧ m.affected = 0) := by
  dsimp only
  simp only [← mergedSet_bit]
  refine ⟨fun k => (mergeWithdraw_names cur a b k).trans (mergedSet_bit cur a b k).symm, reason_worse_eq _ _, ?_⟩
  have hmerge : mergeWithdraw cur a b = ⟨a.reason.worse b.reason, atSlot cur (lowestFlag (reducedSet cur a ||| reducedSet cur b)),
    (reducedSet cur a ||| reducedSet cur b) >>> lowestFlag (reducedSet cur a ||| reducedSet cur b)⟩ := rfl
  rw [hmerge]
  generalize reducedSet cur a ||| reducedSet cur b = u
  dsimp only
  obtain ⟨hlow, hleast, hnone⟩ := lowestFlag_spec u
  have hslot : slotOf cur (atSlot cur (lowestFlag u)) = lowestFlag u := slotOf_atSlot _ _ (by omega)
  refine ⟨by simp [inHorizon, hslot, hlow], fun k hk => ?_, fun hclear => ?_⟩
  · rw [hslot]
    exact (hleast _ hk).2
  · have hbits : ∀ j, u.getLsbD j = false := fun j => by
      by_cases hj : j < 8
      · have := hclear (atSlot cur j)
        rwa [slotOf_atSlot _ _ (by omega), Bool.not_eq_true] at this
      · exact BitVec.getLsbD_of_ge _ _ (not_lt.mp hj)
    have hzero : u = 0#8 := BitVec.eq_of_getLsbD_eq fun i _ => by simp [hbits]
    rw [hnone hbits, hzero]
    exact ⟨by simp [atSlot], rfl⟩

end Sys2Proof.Machine

/-! PROOFS. Inserts and the end of a transmission at the Transmit Queue (R70 to R72). -/

namespace Sys2Proof.Machine

/-! ### What the transmitter does with a changed queue -/

theorem beginRun_spec {l : LineInterface} (h : l.queue ≠ []) :
    beginRun l = { l with queue := (beginRun l).queue, run := some 0, backoff := backoffAdvance l.backoff } ∧
    (beginRun l).queue.drop 1 = l.queue.drop 1 ∧
    (beginRun l).queue.head? = l.queue.head?.map fun e => { e with draw := (beginRun l).backoff.toNat % 16 } := by
  obtain ⟨e, rest, hcons⟩ := List.exists_cons_of_ne_nil h
  rw [beginRun_of_cons hcons]
  exact ⟨rfl, by simp [hcons], by simp [hcons]⟩

/-- A changed queue is settled by the state of the transmitter (Table 4-4). -/
theorem lineSettled_settleHead (queue : List QEntry) (l : LineInterface) :
    LineSettled queue l (settleHead (headKey l.queue) { l with queue := queue }) := by
  unfold settleHead
  cases htx : l.tx with
  | sending => exact ⟨fun _ => by simp [htx], fun hnot => absurd (.inl htx) hnot, fun hnot => absurd (.inl htx) hnot⟩
  | jammed => exact ⟨fun _ => by simp [htx], fun hnot => absurd (.inr (.inl htx)) hnot, fun hnot => absurd (.inr (.inl htx)) hnot⟩
  | idle =>
    by_cases hempty : queue = []
    · have hstands : l.tx = .idle ∧ queue = [] := ⟨htx, hempty⟩
      subst hempty
      exact ⟨fun _ => by simp [htx], fun hnot => absurd (.inr (.inr (.inl hstands))) hnot, fun _ hne => absurd rfl hne⟩
    · have hbegin := beginRun_spec (l := { l with tx := .waiting, queue := queue }) hempty
      refine ⟨fun hstands => ?_, fun _ h => absurd h hempty, fun _ _ => ?_⟩
      · simp [hempty, htx] at hstands
      · simpa [hempty] using hbegin
  | waiting =>
    by_cases hempty : queue = []
    · subst hempty
      refine ⟨fun hstands => ?_, fun _ _ => by simp, fun _ hne => absurd rfl hne⟩
      simp [htx] at hstands
    · by_cases hsame : headKey queue = headKey l.queue
      · have hstands : l.tx = .waiting ∧ queue ≠ [] ∧ queue.head?.map (·.key) = l.queue.head?.map (·.key) := ⟨htx, hempty, hsame⟩
        refine ⟨fun _ => ?_, fun hnot => absurd (.inr (.inr (.inr hstands))) hnot, fun hnot => absurd (.inr (.inr (.inr hstands))) hnot⟩
        simp [hempty, hsame, htx]
      · have hbegin := beginRun_spec (l := { l with queue := queue }) hempty
        refine ⟨fun hstands => ?_, fun _ h => absurd h hempty, fun _ _ => ?_⟩
        · simp only [htx, hempty, reduceCtorEq, false_and, false_or, true_and, ne_eq, not_false_eq_true] at hstands
          exact absurd hstands hsame
        · simpa [hempty, hsame, ← htx] using hbegin

/-- A purge (R74). -/
theorem purged_purgeQueue (keep : Word → Bool) (s : State) : Purged keep s (purgeQueue keep s) := by
  have hkeep : (fun e : QEntry => e.inFlight || (e.key.interval.map keep).getD true) =
      fun e => e.inFlight || e.key.interval.all keep := by
    funext e
    cases e.key.interval <;> rfl
  unfold purgeQueue Purged
  rw [← hkeep]
  exact lineSettled_settleHead _ s.line

/-! ### Inserts -/

/-- The queue has become `queue`, the transmitter goes on with it, and QUEUE_DROP has been raised `drops` times. -/
def QueueBecame (queue : List QEntry) (drops : Nat) (s t : State) : Prop :=
  Raised .queueDrop drops s t ∧ (∀ e, e ≠ .queueDrop → Raised e 0 s t) ∧
  t = { s with line := t.line, host := t.host } ∧ t.host = { s.host with flags := t.host.flags, again := t.host.again } ∧
  LineSettled queue s.line t.line

theorem queueBecame_enqueue {k : NoticeKey} {w : Option WithdrawContent} {s : State} {queue : List QEntry} {drop : Bool}
    (h : insertQueue s.clock.current k w s.line.queue = (queue, drop)) :
    QueueBecame queue drop.toNat s (enqueue k w s) := by
  have hline : (enqueue k w s).line = settleHead (headKey s.line.queue) { s.line with queue := queue } := by
    rw [enqueue_line, h]
  refine ⟨?_, fun e he => raised_enqueue he k w s, ?_, ?_, hline ▸ lineSettled_settleHead queue s.line⟩
  · unfold enqueue
    rw [h]
    dsimp only
    generalize hu : s.setLine _ = u
    have hraised := Raised.trans (hu ▸ raised_of_host rfl _ : Raised .queueDrop 0 s u) (raised_raiseWhen drop _ u)
    rwa [Nat.zero_add] at hraised
  · unfold enqueue raiseWhen
    dsimp only
    split
    · rw [raiseEvent_eq]
      rfl
    · rfl
  · unfold enqueue raiseWhen
    dsimp only
    split
    · rw [raiseEvent_eq]
      rfl
    · rfl

/-- What an entry of key `k` joins behind: the entry in flight, then the others in their groups (R70, log 33). -/
def joinedQueue (flight others : List QEntry) (e : QEntry) : List QEntry :=
  if e.key.groupA then flight ++ others.filter (fun x => x.key.groupA) ++ e :: others.filter (fun x => !x.key.groupA)
  else flight ++ others ++ [e]

theorem appendGroup_eq {q : List QEntry} (h : OrderedQueue q) (e : QEntry) :
    appendGroup e q = joinedQueue (q.filter (·.inFlight)) (q.filter (!·.inFlight)) e := by
  have hfree {r : List QEntry} (hr : FreeQueue r) : r.filter (·.inFlight) = [] ∧ r.filter (!·.inFlight) = r :=
    ⟨List.filter_eq_nil_iff.mpr fun x hx => by simp [hr.1 x hx], List.filter_eq_self.mpr fun x hx => by simp [hr.1 x hx]⟩
  unfold joinedQueue
  rcases h with ⟨x, rest, rfl, hx, hrest⟩ | hq
  · simp only [appendGroup, List.filter_cons, hx, (hfree hrest).1, (hfree hrest).2, if_true, Bool.not_true, Bool.false_eq_true, if_false]
    split <;> rfl
  · rw [(hfree hq).1, (hfree hq).2]
    cases q with
    | nil => simp [appendGroup]
    | cons x rest =>
      simp only [appendGroup, hq.1 x List.mem_cons_self, Bool.false_eq_true, if_false]
      split <;> rfl

/-- An entry of group B that waits and so can be evicted. -/
def evictable (q : List QEntry) : List QEntry := (q.filter (!·.inFlight)).filter (!·.key.groupA)

/-- An eviction spares what is in flight. -/
theorem filter_evicted {q : List QEntry} (hkeys : (queueKeys q).Nodup) {v : NoticeKey} {x : QEntry} (hx : x ∈ q) (hv : x.key = v)
    (hfree : x.inFlight = false) : (q.filter fun e => e.key != v).filter (·.inFlight) = q.filter (·.inFlight) := by
  rw [List.filter_filter]
  refine List.filter_congr fun e he => ?_
  by_cases hkey : e.key = v
  · have hsame : e = x := eq_of_key hkeys he hx (hkey.trans hv.symm)
    simp [hsame, hfree]
  · simp [hkey]

theorem evictable_eq (q : List QEntry) : (q.filter fun e => !e.inFlight && !e.key.groupA) = evictable q := by
  rw [evictable, List.filter_filter]
  exact List.filter_congr fun e _ => Bool.and_comm _ _

theorem find_pledge (q : List QEntry) : ((q.find? fun e => e.key == .pledge).map (·.key)) =
    if q.any (fun e => e.key == .pledge) = true then some NoticeKey.pledge else none := by
  cases hfind : q.find? fun e => e.key == .pledge with
  | none =>
    have hnone : q.any (fun e => e.key == .pledge) = false := by
      simpa using List.find?_eq_none.mp hfind
    simp [hnone]
  | some e =>
    have hany : q.any (fun e => e.key == .pledge) = true := List.any_eq_true.mpr ⟨e, List.mem_of_find?_eq_some hfind, by simpa using List.find?_some hfind⟩
    have hkey : e.key = .pledge := by simpa using List.find?_some hfind
    simp [hany, hkey]

theorem victim_of_pledge {k : NoticeKey} {q : List QEntry} (hk : k ≠ .pledge) (h : (evictable q).any (fun e => e.key == .pledge) = true) :
    victim k q = some .pledge := by
  unfold victim
  simp only [evictable_eq, find_pledge, h, if_true]
  cases k <;> simp_all

theorem victim_of_group {k : NoticeKey} {q : List QEntry} (hk : k.groupA = true) (h : (evictable q).any (fun e => e.key == .pledge) = false) :
    victim k q = (evictable q).getLast?.map (·.key) := by
  unfold victim
  simp only [evictable_eq, find_pledge, h, Bool.false_eq_true, if_false]
  cases k <;> simp_all [NoticeKey.groupA]

theorem victim_none {k : NoticeKey} {q : List QEntry} (h : k = .pledge ∨
    (evictable q).any (fun e => e.key == .pledge) = false ∧ (k.groupA = false ∨ evictable q = [])) : victim k q = none := by
  unfold victim
  simp only [evictable_eq, find_pledge]
  rcases h with rfl | ⟨hpledge, hgroup | hempty⟩
  · rfl
  · rw [hpledge]
    cases k with
    | pledge => rfl
    | take k d => rfl
    | award k d => exact absurd hgroup (by simp [NoticeKey.groupA])
    | withdraw => exact absurd hgroup (by simp [NoticeKey.groupA])
  · rw [hpledge, hempty]
    cases k <;> rfl

section
variable {cur : Word} {k : NoticeKey} {w : Option WithdrawContent} {q : List QEntry}

/-- The queue and the drops of an insert that evicts. -/
theorem insertQueue_of_victim {v : NoticeKey} (hform : QueueForm q) (habsent : q.find? (·.key == k) = none) (hfull : 12 ≤ q.length)
    (hv : victim k q = some v) : insertQueue cur k w q =
      (joinedQueue (q.filter (·.inFlight)) ((q.filter (!·.inFlight)).filter fun e => e.key != v) (newEntry k w), true) := by
  obtain ⟨hbound, hkeys, horder⟩ := hform
  obtain ⟨x, hx, hxkey, hxfree, -⟩ := victim_free hv
  have hspares : ∀ e ∈ q, e.inFlight = true → (e.key != v) = true := by
    intro e he hflight
    refine bne_iff_ne.mpr fun hkey => ?_
    rw [eq_of_key hkeys he hx (hkey.trans hxkey.symm), hxfree] at hflight
    cases hflight
  have hwaits : (q.filter fun e => e.key != v).filter (!·.inFlight) = (q.filter (!·.inFlight)).filter fun e => e.key != v := by
    rw [List.filter_filter, List.filter_filter]
    exact List.filter_congr fun e _ => Bool.and_comm _ _
  unfold insertQueue
  rw [habsent]
  dsimp only
  rw [if_neg (by simpa [Config.queueLimit] using hfull), hv]
  dsimp only
  rw [appendGroup_eq (orderedQueue_filter horder hspares).1, filter_evicted hkeys hx hxkey hxfree, hwaits]

/-- Without a PLEDGE to evict, an insert of group A evicts the last of group B (Table 4-7, NOTE 2). -/
theorem insertQueue_of_last (hform : QueueForm q) (habsent : q.find? (·.key == k) = none) (hfull : 12 ≤ q.length) (hgroup : k.groupA = true)
    (hpledge : (evictable q).any (fun e => e.key == .pledge) = false) (hne : evictable q ≠ []) : insertQueue cur k w q =
      (joinedQueue (q.filter (·.inFlight))
        ((q.filter (!·.inFlight)).filter fun e => (evictable q).getLast?.map (·.key) != some e.key) (newEntry k w), true) := by
  obtain ⟨x, hx⟩ := Option.ne_none_iff_exists'.mp (mt List.getLast?_eq_none_iff.mp hne)
  have hvictim : victim k q = some x.key := by rw [victim_of_group hgroup hpledge, hx]; rfl
  have hlast : (fun e : QEntry => (evictable q).getLast?.map (·.key) != some e.key) = fun e => e.key != x.key := by
    funext e
    rw [hx, Bool.eq_iff_iff]
    simp [@eq_comm _ x.key e.key]
  rw [insertQueue_of_victim hform habsent hfull hvictim, hlast]

theorem insertQueue_of_no_victim (habsent : q.find? (·.key == k) = none) (hfull : 12 ≤ q.length) (hv : victim k q = none) :
    insertQueue cur k w q = (q, true) := by
  unfold insertQueue
  rw [habsent]
  dsimp only
  rw [if_neg (by simpa [Config.queueLimit] using hfull), hv]

/-- A rewrite of the entry of one key, where keys stand once. -/
theorem map_found {e : QEntry} (hkeys : (queueKeys q).Nodup) (hfound : q.find? (·.key == k) = some e) (f : QEntry → QEntry) :
    (q.map fun x => if x.key = k then f x else x) = q.map fun x => if x.key = k then f e else x := by
  have hkey : e.key = k := by simpa using List.find?_some hfound
  refine List.map_congr_left fun x hx => ?_
  by_cases hxk : x.key = k
  · rw [if_pos hxk, if_pos hxk, eq_of_key hkeys hx (List.mem_of_find?_eq_some hfound) (hxk.trans hkey.symm)]
  · rw [if_neg hxk, if_neg hxk]

end

theorem renew_eq (cur : Word) (w : Option WithdrawContent) (e : QEntry) : e.renew cur w = { e with renewal :=
    match w, e.renewal with
    | none, _ => .plain
    | some w, .withdraw p => .withdraw (mergeWithdraw cur p w)
    | some w, .absent => .withdraw w
    | some w, .plain => .withdraw w } := by
  unfold QEntry.renew
  cases w <;> cases e.renewal <;> rfl

/-- Each outcome of an insert (Table 4-7). -/
theorem inserted_enqueue (k : NoticeKey) (w : Option WithdrawContent) {s : State} (hlaw : QueueLaw s) : Inserted k w s (enqueue k w s) := by
  obtain ⟨hform, -⟩ := (queueLaw_iff s).mp hlaw
  obtain ⟨-, hkeys, horder⟩ := id hform
  refine ⟨fun e he => ⟨fun hwaits => ?_, fun hflight => ?_⟩, fun habsent => ⟨fun hroom => ?_, fun hfull => ⟨fun hk hpledge => ?_,
    fun hgroup hpledge hne => ?_, fun hnone => ?_⟩⟩⟩
  · obtain rfl : e.key = k := by simpa using List.find?_some he
    have hbecame := queueBecame_enqueue (insertQueue_of_waiting (cur := s.clock.current) (w := w) he hwaits)
    rw [map_found hkeys he] at hbecame
    exact hbecame
  · have hbecame := queueBecame_enqueue (insertQueue_of_flight (cur := s.clock.current) (w := w) he hflight)
    rw [map_found hkeys he, renew_eq] at hbecame
    exact hbecame
  · have hbecame := queueBecame_enqueue (insertQueue_of_room (cur := s.clock.current) (w := w) habsent hroom)
    rw [appendGroup_eq horder] at hbecame
    exact hbecame
  · exact queueBecame_enqueue (insertQueue_of_victim hform habsent hfull (victim_of_pledge hk hpledge))
  · exact queueBecame_enqueue (insertQueue_of_last hform habsent hfull hgroup hpledge hne)
  · exact queueBecame_enqueue (insertQueue_of_no_victim habsent hfull (victim_none hnone))

/-! ### The end of a transmission -/

theorem exec_transmissionEnd_eq (s : State) : exec .transmissionEnd s =
    .next (if joined s && s.line.tx == .sending then endTransmission s else s) := rfl

/-- The transmitter goes on with the queue, or is IDLE; all else of the line stands (R61, R72). -/
theorem resumeTx_spec (l : LineInterface) :
    resumeTx l = { l with tx := (resumeTx l).tx, queue := (resumeTx l).queue, run := (resumeTx l).run, backoff := (resumeTx l).backoff } ∧
    List.Forall₂ Redrawn l.queue (resumeTx l).queue ∧ (resumeTx l).queue.drop 1 = l.queue.drop 1 ∧
    ((resumeTx l).queue = [] → (resumeTx l).tx = .idle ∧ (resumeTx l).run = none) ∧
    ((resumeTx l).queue ≠ [] → (resumeTx l).tx = .waiting ∧ (resumeTx l).run = some 0) := by
  by_cases h : l.queue = []
  · rw [resumeTx_of_nil h]
    exact ⟨rfl, List.forall₂_same.mpr fun x _ => redrawn_refl x, rfl, fun _ => ⟨rfl, rfl⟩, fun hne => absurd h hne⟩
  · rw [resumeTx_of_ne_nil h]
    obtain ⟨hbegin, hdrop, -⟩ := beginRun_spec (l := { l with tx := .waiting }) h
    have hqueue := beginRun_queue { l with tx := .waiting }
    have hredrawn := redrawn_beginRun { l with tx := .waiting }
    generalize beginRun { l with tx := .waiting } = m at *
    refine ⟨by rw [hbegin], hredrawn, hdrop, fun hnil => ?_, fun _ => by rw [hbegin]; exact ⟨rfl, rfl⟩⟩
    rw [hnil] at hredrawn
    exact absurd (List.forall₂_nil_right_iff.mp hredrawn) h

/-- The last entry of a group keeps all but its draw through a new draw. -/
theorem redrawn_getLast {q q' : List QEntry} (h : List.Forall₂ Redrawn q q') (p : NoticeKey → Bool) {x : QEntry}
    (hx : (q.filter fun e => p e.key).getLast? = some x) : ∃ y, (q'.filter fun e => p e.key).getLast? = some y ∧ Redrawn x y := by
  have hfiltered : List.Forall₂ Redrawn (q.filter fun e => p e.key) (q'.filter fun e => p e.key) :=
    List.rel_filter (fun a b hab => by rw [hab]) h
  have hreversed := List.rel_reverse hfiltered
  rw [List.getLast?_eq_head?_reverse] at hx ⊢
  generalize (q.filter fun e => p e.key).reverse = r at *
  generalize (q'.filter fun e => p e.key).reverse = r' at *
  cases hreversed with
  | nil => cases hx
  | cons hhead _ =>
    obtain rfl := Option.some.inj hx
    exact ⟨_, rfl, hhead⟩

/-- An entry joins the tail of its group among entries none of which is in flight. -/
theorem appendGroup_last {rest : List QEntry} (hfree : ∀ x ∈ rest, x.inFlight = false) (e : QEntry) :
    ((appendGroup e rest).filter fun y => y.key.groupA == e.key.groupA).getLast? = some e := by
  have hplace : appendGroup e rest = if e.key.groupA then rest.filter (·.key.groupA) ++ e :: rest.filter (!·.key.groupA) else rest ++ [e] := by
    cases rest with
    | nil => simp [appendGroup]
    | cons x xs => simp [appendGroup, hfree x List.mem_cons_self]
  rw [hplace]
  cases hgroup : e.key.groupA <;> simp [hgroup, List.filter_append, List.filter_filter]

/-- What becomes of an entry whose transmission ended and that is kept (R72). -/
theorem afterSend_spec (cur : Word) (e : QEntry) :
    (e.afterSend cur = none ↔ (∃ k ∈ e.key.interval, isBefore k cur = true) ∨ (e.renewal = .absent ∧ e.sends ≤ 1)) ∧
    ∀ x, e.afterSend cur = some x → x.key = e.key ∧ x.inFlight = false ∧ x.renewal = .absent ∧
      (e.renewal = .absent → x.sends = e.sends - 1 ∧ x.content = e.content) ∧
      (e.renewal = .plain → x.sends = initialSends e.key e.content ∧ x.content = e.content) ∧
      (∀ p, e.renewal = .withdraw p → e.key = .withdraw → ∀ c ∈ e.content,
        x.content = some (mergeWithdraw cur c p) ∧ x.sends = withdrawSends (mergeWithdraw cur c p)) := by
  have hended : e.ended cur = true ↔ ∃ k ∈ e.key.interval, isBefore k cur = true := by
    unfold QEntry.ended
    cases e.key.interval <;> simp
  rw [← hended]
  unfold QEntry.afterSend
  by_cases hend : e.ended cur = true
  · simp [hend]
  · rw [if_neg hend]
    cases hrenewal : e.renewal with
    | plain =>
      refine ⟨by simp [hend], fun x hx => ?_⟩
      obtain rfl := Option.some.inj hx
      exact ⟨rfl, rfl, rfl, nofun, fun _ => ⟨rfl, rfl⟩, nofun⟩
    | absent =>
      dsimp only
      refine ⟨by simp [hend], fun x hx => ?_⟩
      obtain ⟨-, hx⟩ := Option.ite_none_right_eq_some.mp hx
      obtain rfl := Option.some.inj hx
      exact ⟨rfl, rfl, rfl, fun _ => ⟨rfl, rfl⟩, nofun, nofun⟩
    | withdraw w =>
      refine ⟨by simp [hend], fun x hx => ?_⟩
      obtain rfl := Option.some.inj hx
      refine ⟨rfl, rfl, rfl, nofun, nofun, fun p hp hkey c hc => ?_⟩
      obtain rfl := Renewal.withdraw.inj hp
      have hcontent : mergedContent cur e.content (some w) = some (mergeWithdraw cur c w) := by
        rw [Option.mem_def.mp hc]
        rfl
      refine ⟨hcontent, ?_⟩
      dsimp only
      rw [hcontent, hkey]
      exact initialSends_withdraw _

theorem endHandled_of_empty {cur : Word} {e : QEntry} {rest : List QEntry} {P : Prop} (h : endHandled cur e rest = []) (hP : P) :
    e.afterSend cur = none ∧ rest = [] ∧ P := by
  unfold endHandled at h
  split at h
  next x hx =>
    have hmem := mem_appendGroup x rest
    rw [h] at hmem
    exact absurd hmem List.not_mem_nil
  next hnone => exact ⟨hnone, h, hP⟩

theorem endHandled_free {cur : Word} {e : QEntry} {rest : List QEntry} (hfree : ∀ x ∈ rest, x.inFlight = false) :
    ∀ x ∈ endHandled cur e rest, x.inFlight = false := by
  unfold endHandled
  split
  next kept hkept =>
    intro x hx
    rcases List.mem_cons.mp ((appendGroup_perm kept rest).mem_iff.mp hx) with rfl | hx
    · exact (afterSend_some hkept).2
    · exact hfree x hx
  next => exact hfree

theorem redrawn_keys {q q' : List QEntry} (h : List.Forall₂ Redrawn q q') : q.map (·.key) = q'.map (·.key) := by
  induction h with
  | nil => rfl
  | cons hhead _ ih => rw [List.map_cons, List.map_cons, ih, hhead]

/-- Settles O50: inserts and merges, the order of the reasons, and the end of a transmission by what is kept. -/
theorem transmissionEnds : Obligations.TransmissionEnds := by
  unfold Obligations.TransmissionEnds
  refine ⟨⟨fun k w s hlaw _ => inserted_enqueue k w hlaw, mergeWithdraw_spec⟩, by decide, fun e rest s hjoined htx hqueue hfree => ?_⟩
  obtain ⟨hnone, hkept⟩ := afterSend_spec s.clock.current e
  have hexec : exec .transmissionEnd s = .next (endTransmission s) := by
    rw [exec_transmissionEnd_eq, if_pos (by simp [joined, hjoined, htx])]
  dsimp only
  rw [← hnone]
  unfold endTransmission at hexec
  rw [hqueue] at hexec
  dsimp only at hexec
  constructor
  · intro hgone hrest hleaving
    have hempty : endHandled s.clock.current e rest = [] := by rw [endHandled, hgone, hrest]
    rw [if_pos ⟨hleaving, by simp [hempty]⟩] at hexec
    exact ⟨_, hexec, outOfCluster_returnToUnjoined _, by simp⟩
  · intro hnot
    rw [if_neg fun h => hnot (endHandled_of_empty (by simpa using h.2) h.1)] at hexec
    obtain ⟨hline, hredrawn, hdrop, hidle, hwaiting⟩ :=
      resumeTx_spec { afterTransmission s.line with queue := endHandled s.clock.current e rest }
    generalize resumeTx { afterTransmission s.line with queue := endHandled s.clock.current e rest } = m at *
    refine ⟨_, hexec, rfl, ?_⟩
    change m.sending = none ∧ m.carrier = false ∧ m.rx = s.line.rx ∧ (∀ x ∈ m.queue.drop 1, x.inFlight = false) ∧
      m.receiver = _ ∧ m.burst = _ ∧ (m.queue = [] → _) ∧ (m.queue ≠ [] → _) ∧ _
    refine ⟨by rw [hline]; rfl, by rw [hline]; rfl, by rw [hline]; rfl, ?_, by rw [hline]; rfl, by rw [hline]; rfl, hidle, hwaiting,
      fun hgone => ?_, fun hkeeps => ?_⟩
    · have hflight : ∀ x ∈ endHandled s.clock.current e rest, x.inFlight = false := endHandled_free hfree
      rw [hdrop]
      exact fun x hx => hflight x (List.mem_of_mem_drop hx)
    · have hkeys : endHandled s.clock.current e rest = rest := by rw [endHandled, hgone]
      rw [hkeys] at hredrawn
      exact (redrawn_keys hredrawn).symm
    · obtain ⟨x, hx⟩ := Option.ne_none_iff_exists'.mp hkeeps
      have hqueue' : endHandled s.clock.current e rest = appendGroup x rest := by rw [endHandled, hx]
      rw [hqueue'] at hredrawn
      obtain ⟨hkey, hfields⟩ := hkept x hx
      obtain ⟨y, hy, hxy⟩ := redrawn_getLast hredrawn (fun k => k.groupA == x.key.groupA) (appendGroup_last hfree x)
      rw [hkey] at hy
      refine ⟨hredrawn.length_eq.symm.trans (appendGroup_perm x rest).length_eq, y, hy, ?_⟩
      rw [hxy]
      exact ⟨hkey, hfields⟩

end Sys2Proof.Machine

/-! PROOFS. Crossings and missed periods in the Frequency Meter (R129 to R136, R140). -/

namespace Sys2Proof.Machine

/-! ### Invalid periods -/

/-- `n` invalid periods recorded from `s`: the third in a row in VALID makes the meter INVALID, and each in INVALID empties
the ring (R134, R135). -/
structure InvalidRecorded (n : Nat) (s t : State) : Prop where
  measured : t.freq.measured = s.freq.measured
  stands : t.freq.reference = s.freq.reference ∧ t.freq.missStart = s.freq.missStart ∧ t.freq.count = s.freq.count ∧
    t.host.log = s.host.log ∧ t.ctrl = s.ctrl
  invalids : t.freq.invalids = min 3 (s.freq.invalids + n)
  few : s.freq.state = .valid → s.freq.invalids + n < 3 →
    t.freq.state = .valid ∧ t.freq.ring = s.freq.ring ∧ t.act = s.act ∧ t.mon = s.mon
  third : s.freq.state = .valid → 3 ≤ s.freq.invalids + n → t.freq.state = .invalid ∧ t.freq.ring = [] ∧
    flagSet .freqInvalid t = true ∧ t.act.heldState = .invalid ∧ t.act.heldFreq = s.act.heldFreq ∧ Neutral t
  already : s.freq.state = .invalid → t.freq.state = .invalid ∧ t.freq.ring = [] ∧ t.act = s.act ∧ t.mon = s.mon
  flags : FlagsKept s t
  handed : DeltaHanded s t

theorem deltaHanded_of_same {s t : State} (hact : t.act = s.act) (hmon : t.mon = s.mon) : DeltaHanded s t := by
  have hdelta : t.act.delta = s.act.delta := by rw [hact]
  exact ⟨fun _ => hmon, fun hchanged => absurd hdelta hchanged, fun hchanged => absurd hdelta hchanged⟩

theorem DeltaHanded.congr {s s' t t' : State} (hmon : s'.mon = s.mon) (hdelta : s'.act.delta = s.act.delta)
    (hctrl : s'.ctrl = s.ctrl) (hact' : t'.act = t.act) (hmon' : t'.mon = t.mon) (h : DeltaHanded s t) : DeltaHanded s' t' := by
  unfold DeltaHanded at *
  rwa [hmon, hdelta, hctrl, hact', hmon']

/-- The setpoint with the held state INVALID: level, direction and delta 0 (Table 9-4). -/
theorem neutral_handOverInvalid (s : State) : Neutral (handOverInvalid s) := by
  have hlevel : formedLevel (s.setAct { s.act with heldState := .invalid }) = (0, none) := by simp [formedLevel]
  have hdelta : formedDelta (s.setAct { s.act with heldState := .invalid }) = 0 := by simp [formedDelta, hlevel, setpointDelta]
  have hduty : formedDuty (s.setAct { s.act with heldState := .invalid }) = 512 := by simp [formedDuty, hdelta, dutyFor, Config.neutralDuty]
  unfold handOverInvalid Neutral
  rw [recompute_act, hlevel, hdelta, hduty]
  exact ⟨rfl, rfl, rfl, rfl⟩

theorem invalidRecorded_of_invalid {s : State} (h : s.freq.state = .invalid) : InvalidRecorded 1 s (invalidPeriod s) := by
  have hnot : s.freq.state ≠ .valid := by simp [h]
  have hperiod : invalidPeriod s = s.setFreq { s.freq with ring := [], invalids := min 3 (s.freq.invalids + 1) } := by
    simp [invalidPeriod, h]
  rw [hperiod]
  exact ⟨rfl, ⟨rfl, rfl, rfl, rfl, rfl⟩, rfl, fun hv => absurd hv hnot, fun hv => absurd hv hnot, fun _ => ⟨h, rfl, rfl, rfl⟩,
    flagsKept_of_host rfl, deltaHanded_of_same rfl rfl⟩

theorem invalidRecorded_of_few {s : State} (h : s.freq.state = .valid) (hfew : s.freq.invalids + 1 < 3) :
    InvalidRecorded 1 s (invalidPeriod s) := by
  have hperiod : invalidPeriod s = s.setFreq { s.freq with invalids := s.freq.invalids + 1 } := by
    simp [invalidPeriod, h, not_le.mpr hfew]
  rw [hperiod]
  exact ⟨rfl, ⟨rfl, rfl, rfl, rfl, rfl⟩, (min_eq_right hfew.le).symm, fun _ _ => ⟨h, rfl, rfl, rfl⟩, fun _ hthird => absurd hfew (not_lt.mpr hthird),
    fun hv => absurd (hv.symm.trans h) (by simp), flagsKept_of_host rfl, deltaHanded_of_same rfl rfl⟩

theorem invalidRecorded_of_third {s : State} (h : s.freq.state = .valid) (hthird : 3 ≤ s.freq.invalids + 1) :
    InvalidRecorded 1 s (invalidPeriod s) := by
  have hperiod : invalidPeriod s =
      handOverInvalid (raiseEvent .freqInvalid (s.setFreq { s.freq with ring := [], invalids := 3, state := .invalid })) := by
    simp [invalidPeriod, h, hthird]
  rw [hperiod]
  generalize hu : s.setFreq { s.freq with ring := [], invalids := 3, state := .invalid } = u
  have hfreq : (handOverInvalid (raiseEvent .freqInvalid u)).freq = { s.freq with ring := [], invalids := 3, state := .invalid } := by
    simp [← hu]
  have hhost : (handOverInvalid (raiseEvent .freqInvalid u)).host = (raiseEvent .freqInvalid u).host := by simp
  have hhanded : DeltaHanded s (handOverInvalid (raiseEvent .freqInvalid u)) :=
    deltaHanded_recompute (by simp [← hu]) (by simp [← hu]) (by simp [← hu])
  have hflags : FlagsKept s (raiseEvent .freqInvalid u) :=
    FlagsKept.trans (t := u) (flagsKept_of_host (by rw [← hu]; rfl)) (flagsKept_raiseEvent _ _)
  refine ⟨by rw [hfreq], ⟨by rw [hfreq], by rw [hfreq], by rw [hfreq], by simp [← hu], by simp [← hu]⟩, by rw [hfreq]; exact (min_eq_left hthird).symm,
    fun _ hfew => absurd hfew (not_lt.mpr hthird), fun _ _ => ⟨by rw [hfreq], by rw [hfreq], ?_, ?_, ?_, neutral_handOverInvalid _⟩,
    fun hv => absurd (hv.symm.trans h) (by simp), FlagsKept.trans hflags (flagsKept_of_host hhost), hhanded⟩
  · exact flagSet_recompute (flagSet_raiseEvent _ u)
  · unfold handOverInvalid
    rw [recompute_act]
    rfl
  · unfold handOverInvalid
    rw [recompute_act]
    simp [← hu]

/-- An invalid period by the state and the count of the meter (R134, R135). -/
theorem invalidRecorded_invalidPeriod (s : State) : InvalidRecorded 1 s (invalidPeriod s) := by
  cases h : s.freq.state with
  | invalid => exact invalidRecorded_of_invalid h
  | valid =>
    rcases Nat.lt_or_ge (s.freq.invalids + 1) 3 with hfew | hthird
    · exact invalidRecorded_of_few h hfew
    · exact invalidRecorded_of_third h hthird

/-- Invalid periods one after another. -/
theorem InvalidRecorded.trans {m n : Nat} {s t u : State} (hm : 1 ≤ m) (hn : 1 ≤ n) (h : InvalidRecorded m s t) (h' : InvalidRecorded n t u) :
    InvalidRecorded (m + n) s u := by
  obtain ⟨hreference, hstart, hcount, hlog, hctrl⟩ := h.stands
  obtain ⟨hreference', hstart', hcount', hlog', hctrl'⟩ := h'.stands
  have hinvalids := h.invalids
  have hinvalids' := h'.invalids
  refine ⟨h'.measured.trans h.measured, ⟨hreference'.trans hreference, hstart'.trans hstart, hcount'.trans hcount, hlog'.trans hlog,
    hctrl'.trans hctrl⟩, by omega, fun hvalid hlow => ?_, fun hvalid hhigh => ?_, fun hinvalid => ?_, h.flags.trans h'.flags, ?_⟩
  · obtain ⟨hstate, hring, hact, hmon⟩ := h.few hvalid (by omega)
    obtain ⟨hstate', hring', hact', hmon'⟩ := h'.few hstate (by omega)
    exact ⟨hstate', hring'.trans hring, hact'.trans hact, hmon'.trans hmon⟩
  · rcases Nat.lt_or_ge (s.freq.invalids + m) 3 with hlow | hdone
    · obtain ⟨hstate, -, hact, -⟩ := h.few hvalid hlow
      rw [← hact]
      exact h'.third hstate (by omega)
    · obtain ⟨hstate, -, hflag, hheld, hfreq, hneutral⟩ := h.third hvalid hdone
      obtain ⟨hstate', hring', hact', -⟩ := h'.already hstate
      exact ⟨hstate', hring', h'.flags _ hflag, by rw [hact', hheld], by rw [hact', hfreq], hneutral.of_act hact'⟩
  · obtain ⟨hstate, -, hact, hmon⟩ := h.already hinvalid
    obtain ⟨hstate', hring', hact', hmon'⟩ := h'.already hstate
    exact ⟨hstate', hring', hact'.trans hact, hmon'.trans hmon⟩
  · have hsame (hact : t.act = s.act) (hmon : t.mon = s.mon) : DeltaHanded s u :=
      DeltaHanded.congr hmon.symm (by rw [hact]) hctrl.symm rfl rfl h'.handed
    cases hstate : s.freq.state with
    | invalid =>
      obtain ⟨-, -, hact, hmon⟩ := h.already hstate
      exact hsame hact hmon
    | valid =>
      rcases Nat.lt_or_ge (s.freq.invalids + m) 3 with hlow | hdone
      · obtain ⟨-, -, hact, hmon⟩ := h.few hstate hlow
        exact hsame hact hmon
      · obtain ⟨-, -, hact', hmon'⟩ := h'.already (h.third hstate hdone).1
        exact DeltaHanded.congr rfl rfl rfl hact' hmon' h.handed

theorem invalidRecorded_invalidPeriods {n : Nat} (hn : 1 ≤ n) (s : State) : InvalidRecorded n s (invalidPeriods n s) := by
  induction n, hn using Nat.le_induction generalizing s with
  | base => exact invalidRecorded_invalidPeriod s
  | succ n hn ih =>
    have htrans := InvalidRecorded.trans le_rfl hn (invalidRecorded_invalidPeriod s) (ih (invalidPeriod s))
    rwa [Nat.add_comm] at htrans

/-- Of more than three invalid periods each beyond the third changes nothing more. -/
theorem InvalidRecorded.more {n : Nat} {s t : State} (h : InvalidRecorded (min 3 n) s t) (hn : 1 ≤ n) : InvalidRecorded n s t := by
  have hinvalids := h.invalids
  exact ⟨h.measured, h.stands, by omega, fun hvalid hlow => h.few hvalid (by omega), fun hvalid hhigh => h.third hvalid (by omega),
    h.already, h.flags, h.handed⟩

/-! ### Crossings -/

/-- The windows in counts (R129). -/
theorem windowBound_eq (n : Nominal) : windowBound n 40 = (if n = .hz50 then 80000 else 66667) ∧
    windowBound n 90 = (if n = .hz50 then 180000 else 150000) ∧ windowBound n 110 = (if n = .hz50 then 220000 else 183334) ∧
    windowBound n 150 = (if n = .hz50 then 300000 else 250001) := by
  cases n <;> decide

theorem windowBound_le (n : Nominal) : windowBound n 40 ≤ windowBound n 90 ∧ windowBound n 90 ≤ windowBound n 110 := by
  cases n <;> decide

section
variable {reference count : Nat} {s : State}

theorem crossingFrom_of_glitch (h : count - reference < windowBound s.ctrl.config.nominal 40) : crossingFrom reference count s = s := by
  simp [crossingFrom, classify, h]

theorem crossingFrom_of_invalid (hlong : windowBound s.ctrl.config.nominal 40 ≤ count - reference)
    (hout : count - reference < windowBound s.ctrl.config.nominal 90 ∨ windowBound s.ctrl.config.nominal 110 < count - reference) :
    crossingFrom reference count s = newReference count (invalidPeriod s) := by
  have hordered := windowBound_le s.ctrl.config.nominal
  rcases hout with hshort | hlate
  · simp [crossingFrom, classify, not_lt.mpr hlong, hshort]
  · simp [crossingFrom, classify, not_lt.mpr hlong, not_le.mpr hlate, show ¬ count - reference < windowBound s.ctrl.config.nominal 90 by omega]

theorem crossingFrom_of_valid (hlow : windowBound s.ctrl.config.nominal 90 ≤ count - reference)
    (hhigh : count - reference ≤ windowBound s.ctrl.config.nominal 110) :
    crossingFrom reference count s = newReference count (validPeriod (count - reference) s) := by
  have hordered := windowBound_le s.ctrl.config.nominal
  simp [crossingFrom, classify, not_lt.mpr hlow, hhigh, show ¬ count - reference < windowBound s.ctrl.config.nominal 40 by omega]

theorem exec_crossing_eq (count : Nat) (s : State) :
    exec (.crossing count) s = .next (takeCrossing count (reachCount count (recordMisses count s))) := rfl

theorem takeCrossing_of_some (h : s.freq.reference = some reference) : takeCrossing count s = crossingFrom reference count s := by
  simp [takeCrossing, h]

theorem takeCrossing_of_none (h : s.freq.reference = none) : takeCrossing count s = newReference count s := by
  simp [takeCrossing, h]

/-- A crossing that comes no later than the miss timer's end (R131, log 7). -/
theorem exec_crossing_inTime (h : count ≤ s.freq.missStart + windowBound s.ctrl.config.nominal 150) :
    exec (.crossing count) s = .next (takeCrossing count (reachCount count s)) := by
  rw [exec_crossing_eq, recordMisses_of_inTime count s (missBound_pos s) h]

/-- The periods missed before a crossing beyond the miss timer's end are recorded first (R131). -/
theorem recordMisses_late (h : ¬ count ≤ s.freq.missStart + windowBound s.ctrl.config.nominal 150) :
    ∃ u m, u = s.setFreq { s.freq with reference := none, missStart := m } ∧
      InvalidRecorded ((count - s.freq.missStart - 1) / windowBound s.ctrl.config.nominal 150) u (recordMisses count s) := by
  have hpos := missBound_pos s
  have hsome : 1 ≤ missesBefore count s := (Nat.one_le_div_iff hpos).mpr (by rw [missBound]; omega)
  refine ⟨_, s.freq.missStart + missesBefore count s * missBound s, rfl, ?_⟩
  unfold recordMisses
  rw [if_neg (by omega)]
  exact (invalidRecorded_invalidPeriods (Nat.le_min.mpr ⟨by decide, hsome⟩) _).more hsome

end

/-- What a crossing or a missed period leaves alone. -/
def CrossingKept (s t : State) : Prop :=
  t.ctrl = s.ctrl ∧ t.clock = s.clock ∧ t.table = s.table ∧ t.pledge = s.pledge ∧ t.line = s.line ∧
  t.view = s.view ∧ t.host.log = s.host.log ∧ t.pending = s.pending

/-- One invalid period recorded, beside reference and miss timer (R134, R135). -/
def InvalidTaken (s t : State) : Prop :=
  t.freq.measured = s.freq.measured ∧
  (s.freq.state = .valid → s.freq.invalids < 2 → t.freq.state = .valid ∧ t.freq.ring = s.freq.ring ∧
    t.freq.invalids = s.freq.invalids + 1 ∧ t.act = s.act ∧ t.mon = s.mon) ∧
  (s.freq.state = .valid → 2 ≤ s.freq.invalids → t.freq.state = .invalid ∧ t.freq.ring = [] ∧
    t.freq.invalids = 3 ∧ flagSet .freqInvalid t = true ∧ t.act.heldState = .invalid ∧
    t.act.heldFreq = s.act.heldFreq ∧ Neutral t) ∧
  (s.freq.state = .invalid → t.freq.state = .invalid ∧ t.freq.ring = [] ∧
    t.freq.invalids = min 3 (s.freq.invalids + 1) ∧ t.act = s.act ∧ t.mon = s.mon)

theorem InvalidRecorded.taken {s t : State} (h : InvalidRecorded 1 s t) : InvalidTaken s t := by
  have hinvalids := h.invalids
  refine ⟨h.measured, fun hvalid hfew => ?_, fun hvalid hthird => ?_, fun hinvalid => ?_⟩
  · obtain ⟨hstate, hring, hact, hmon⟩ := h.few hvalid (by omega)
    exact ⟨hstate, hring, by omega, hact, hmon⟩
  · obtain ⟨hstate, hring, hrest⟩ := h.third hvalid (by omega)
    exact ⟨hstate, hring, by omega, hrest⟩
  · obtain ⟨hstate, hring, hact, hmon⟩ := h.already hinvalid
    exact ⟨hstate, hring, hinvalids, hact, hmon⟩

theorem crossingKept_invalidPeriod (s : State) : CrossingKept s (invalidPeriod s) := by
  obtain ⟨-, -, -, hlog, -⟩ := (invalidRecorded_invalidPeriod s).stands
  exact ⟨by simp, by simp, by simp, by simp, by simp, by simp, hlog, by simp⟩

/-- The rounded mean frequency of a ring (R133). -/
theorem frequencyOf_near {n : Nat} {ring : List Nat} (hlow : 45000 < frequencyOf n ring) (hhigh : frequencyOf n ring < 66000) :
    2 * frequencyOf n ring * ring.sum ≤ 20000000000 * n + ring.sum ∧ 20000000000 * n < (2 * frequencyOf n ring + 1) * ring.sum := by
  have hround : roundDiv (10000000000 * (n : Int)) ring.sum = ((20000000000 * n + ring.sum) / (2 * ring.sum) : Nat) := by
    rw [roundDiv, if_pos (by omega)]
    congr 2
    omega
  have hvalue : frequencyOf n ring = (20000000000 * n + ring.sum) / (2 * ring.sum) := by
    simp only [frequencyOf, clampInt, hround] at hlow hhigh ⊢
    omega
  have hpos : 0 < ring.sum := by
    refine Nat.pos_of_ne_zero fun hzero => ?_
    rw [hvalue, hzero, Nat.mul_zero, Nat.div_zero] at hlow
    exact absurd hlow (Nat.not_lt_zero _)
  rw [hvalue]
  have hdiv := Nat.div_add_mod (20000000000 * n + ring.sum) (2 * ring.sum)
  have hmod := Nat.mod_lt (20000000000 * n + ring.sum) (show 0 < 2 * ring.sum by omega)
  generalize (20000000000 * n + ring.sum) / (2 * ring.sum) = q at *
  generalize (20000000000 * n + ring.sum) % (2 * ring.sum) = r at *
  have hproduct : 2 * ring.sum * q = 2 * q * ring.sum := by ring
  constructor
  · omega
  · rw [Nat.add_mul, Nat.one_mul]
    omega

/-- A valid period that gives a value (R132, R133, R135). -/
theorem validPeriod_of_value {s : State} {n : Nat}
    (h : s.freq.state = .valid ∨ (lastEntries s.ctrl.config.averaging (s.freq.ring ++ [n])).length = s.ctrl.config.averaging) :
    ∃ f, f = frequencyOf s.ctrl.config.averaging (lastEntries s.ctrl.config.averaging (s.freq.ring ++ [n])) ∧
      (validPeriod n s).freq = { s.freq with
        ring := lastEntries s.ctrl.config.averaging (s.freq.ring ++ [n]), invalids := 0, measured := some f, state := .valid } ∧
      (validPeriod n s).act.heldFreq = some f ∧ (validPeriod n s).act.heldState = .valid := by
  refine ⟨_, rfl, ?_⟩
  unfold validPeriod
  dsimp only
  rw [if_pos h]
  unfold computeValue handOverValue
  rw [recompute_act]
  exact ⟨by simp, rfl, rfl⟩

theorem validPeriod_of_none {s : State} {n : Nat}
    (h : ¬ (s.freq.state = .valid ∨ (lastEntries s.ctrl.config.averaging (s.freq.ring ++ [n])).length = s.ctrl.config.averaging)) :
    validPeriod n s = s.setFreq { s.freq with ring := lastEntries s.ctrl.config.averaging (s.freq.ring ++ [n]), invalids := 0 } := by
  unfold validPeriod
  exact if_neg h

theorem lastEntries_append (n p : Nat) (ring : List Nat) : lastEntries n (ring ++ [p]) = (ring ++ [p]).drop (ring.length + 1 - n) := by
  simp [lastEntries]

/-- A valid period by the state of the meter and the length of the ring it makes (R132, R133, R135). -/
theorem validPeriod_spec (p : Nat) (s : State) : (validPeriod p s).freq.invalids = 0 ∧
    (validPeriod p s).freq.ring = (s.freq.ring ++ [p]).drop (s.freq.ring.length + 1 - s.ctrl.config.averaging) ∧
    (s.freq.state = .valid ∨ (validPeriod p s).freq.ring.length = s.ctrl.config.averaging →
      ∃ f, (validPeriod p s).freq.measured = some f ∧ (validPeriod p s).freq.state = .valid ∧
        (validPeriod p s).act.heldFreq = some f ∧ (validPeriod p s).act.heldState = .valid ∧ 45000 ≤ f ∧ f ≤ 66000 ∧
        (45000 < f → f < 66000 →
          2 * f * (validPeriod p s).freq.ring.sum ≤ 20000000000 * s.ctrl.config.averaging + (validPeriod p s).freq.ring.sum ∧
          20000000000 * s.ctrl.config.averaging < (2 * f + 1) * (validPeriod p s).freq.ring.sum)) ∧
    (s.freq.state = .invalid → (validPeriod p s).freq.ring.length ≠ s.ctrl.config.averaging →
      (validPeriod p s).freq.state = .invalid ∧ (validPeriod p s).freq.measured = s.freq.measured ∧ (validPeriod p s).act = s.act) := by
  rw [← lastEntries_append]
  by_cases hvalue : s.freq.state = .valid ∨
      (lastEntries s.ctrl.config.averaging (s.freq.ring ++ [p])).length = s.ctrl.config.averaging
  · obtain ⟨f, rfl, hfreq, hheld, hheldState⟩ := validPeriod_of_value hvalue
    obtain ⟨hlow, hhigh⟩ := frequencyOf_bounds s.ctrl.config.averaging (lastEntries s.ctrl.config.averaging (s.freq.ring ++ [p]))
    rw [hfreq]
    refine ⟨rfl, rfl, fun _ => ⟨_, rfl, rfl, hheld, hheldState, hlow, hhigh, frequencyOf_near⟩, fun hinvalid hlength => ?_⟩
    exact absurd (hvalue.resolve_left (by simp [hinvalid])) hlength
  · rw [validPeriod_of_none hvalue]
    exact ⟨rfl, rfl, fun hsome => absurd hsome hvalue, fun hinvalid _ => ⟨hinvalid, rfl, rfl⟩⟩

/-- Settles O43: a crossing by reference and class, one beyond the miss timer's end, and a missed period. -/
theorem crossingsAndMisses : Obligations.CrossingsAndMisses := by
  unfold Obligations.CrossingsAndMisses
  intro count s
  obtain ⟨hglitch, hlow, hhigh, hmissed⟩ := windowBound_eq s.ctrl.config.nominal
  dsimp only
  rw [← hglitch, ← hlow, ← hhigh, ← hmissed]
  refine ⟨fun hin hnone => ?_, fun hin r hr hlt => ?_, fun hin r hr hle hout => ?_, fun hin r hr hle hge => ?_, fun hlate => ?_, ?_⟩
  · rw [exec_crossing_inTime hin, takeCrossing_of_none (by exact hnone)]
    rfl
  · rw [exec_crossing_inTime hin, takeCrossing_of_some (by exact hr), crossingFrom_of_glitch (by exact hlt)]
    rfl
  · refine ⟨_, exec_crossing_inTime hin, ?_⟩
    rw [takeCrossing_of_some (by exact hr), crossingFrom_of_invalid (by exact hle) (by exact hout)]
    have htaken := (invalidRecorded_invalidPeriod (reachCount count s)).taken
    have hkept := crossingKept_invalidPeriod (reachCount count s)
    generalize invalidPeriod (reachCount count s) = t at *
    exact ⟨rfl, rfl, htaken, hkept⟩
  · refine ⟨_, exec_crossing_inTime hin, ?_⟩
    rw [takeCrossing_of_some (by exact hr), crossingFrom_of_valid (by exact hle) (by exact hge)]
    refine ⟨rfl, rfl, ?_⟩
    have hkept : CrossingKept s (newReference count (validPeriod (count - r) (reachCount count s))) := by simp [CrossingKept]
    obtain ⟨hinvalids, hring, hvalue, hnone⟩ := validPeriod_spec (count - r) (reachCount count s)
    generalize validPeriod (count - r) (reachCount count s) = t at *
    exact ⟨hinvalids, hkept, hring, hvalue, hnone⟩
  · refine ⟨_, exec_crossing_eq count s, ?_⟩
    obtain ⟨u, m, rfl, hrecorded⟩ := recordMisses_late hlate
    obtain ⟨hreference, -, hcount, hlog, -⟩ := hrecorded.stands
    have hframe := recordMisses_frame count s
    generalize recordMisses count s = v at *
    rw [takeCrossing_of_none (by exact hreference)]
    refine ⟨rfl, rfl, by rw [← show v.freq.count = s.freq.count from hcount]; rfl, hrecorded.measured, ?_, hrecorded.invalids, hrecorded.few,
      hrecorded.third, hrecorded.already⟩
    obtain ⟨hctrl, hclock, htable, hpledge, hline, hview, -, -, hpending⟩ := hframe
    exact ⟨hctrl, hclock, htable, hpledge, hline, hview, hlog, hpending⟩
  · refine ⟨_, rfl, ?_⟩
    have hrecorded := invalidRecorded_invalidPeriod (reachCount (s.freq.missStart + missBound s)
      (s.setFreq { s.freq with reference := none, missStart := s.freq.missStart + missBound s }))
    obtain ⟨hreference, hstart, -⟩ := hrecorded.stands
    exact ⟨hreference, hstart, hrecorded.taken, crossingKept_invalidPeriod _⟩

end Sys2Proof.Machine

/-! PROOFS. Level, setpoint delta, duty, and the hand-over of a new delta (R141 to R147, R154). -/

namespace Sys2Proof.Machine

/-! ### The level -/

section
variable {span x : Int} {φ : Nat}

/-- A level `m` is reached exactly where 256 x reaches (16 m − φ) × span (R141). -/
theorem le_levelFor_iff (hspan : 0 < span) {m : Nat} (hm : 1 ≤ m) (hle : m ≤ 16) :
    m ≤ levelFor span x φ ↔ (16 * m - φ) * span ≤ 256 * x := by
  have hnat : m ≤ levelFor span x φ ↔ (m : Int) ≤ (256 * x + φ * span) / (16 * span) := by
    unfold levelFor
    generalize (256 * x + φ * span) / (16 * span) = q
    omega
  have hproduct : (m : Int) * (16 * span) = (16 * m - φ) * span + φ * span := by ring
  rw [hnat, Int.le_ediv_iff_mul_le (by omega), hproduct]
  exact add_le_add_iff_right _

theorem levelFor_le (span x : Int) (φ : Nat) : levelFor span x φ ≤ 16 := by
  unfold levelFor
  omega

theorem levelFor_full (hspan : 0 < span) (hfull : span ≤ x) : levelFor span x φ = 16 := by
  refine le_antisymm (levelFor_le _ _ _) ((le_levelFor_iff hspan (by decide) le_rfl).mpr ?_)
  have hphase : 0 ≤ (φ : Int) * span := Int.mul_nonneg (Int.natCast_nonneg _) hspan.le
  rw [Int.sub_mul]
  push_cast
  omega

/-- The sixteen phases spread a deviation: their levels sum to floor(256 x / span) (R141). -/
theorem sum_levelFor (hspan : 0 < span) (hpos : 0 < x) (hle : x ≤ span) :
    (((List.range 16).map fun φ => levelFor span x φ).sum : Int) = 256 * x / span := by
  have hlevel (φ : Nat) (hφ : φ < 16) : levelFor span x φ = (256 * x / span).toNat / 16 + ((256 * x / span).toNat % 16 + φ) / 16 := by
    have hnested : (256 * x + φ * span) / (16 * span) = (256 * x / span + φ) / 16 := by
      rw [Int.mul_comm 16 span, ← Int.ediv_ediv_of_nonneg hspan.le, Int.add_mul_ediv_right _ _ hspan.ne']
    have hbounds : 0 ≤ 256 * x / span ∧ 256 * x / span ≤ 256 :=
      ⟨Int.ediv_nonneg (by omega) hspan.le, Int.ediv_le_of_le_mul hspan (by omega)⟩
    unfold levelFor
    rw [hnested]
    generalize 256 * x / span = n at *
    omega
  have hspread : ∀ r < 16, ((List.range 16).map fun φ => (r + φ) / 16).sum = r := by decide
  have hsum : ((List.range 16).map fun φ => levelFor span x φ).sum = (256 * x / span).toNat := by
    rw [List.map_congr_left fun φ hφ => hlevel φ (List.mem_range.mp hφ), List.sum_map_add, hspread _ (Nat.mod_lt _ (by decide))]
    simp only [List.map_const', List.length_range, List.sum_replicate, smul_eq_mul]
    exact Nat.div_add_mod _ 16
  rw [hsum, Int.toNat_of_nonneg (Int.ediv_nonneg (by omega) hspan.le)]

end

/-- Level and direction by the deviation: none within the deadband, RAISE below and LOWER above (R140, R141). -/
theorem levelAndDir_eq (c : StationConfig) (φ freq : Nat) :
    let dev : Int := (freq : Int) - (if c.nominal = .hz50 then 50000 else 60000)
    let x : Int := |dev| - c.deadband
    levelAndDir c φ freq = if 0 < x then
      (levelFor (c.fullDeviation - c.deadband) x φ, some (if dev < 0 then .raise else .lower)) else (0, none) := by
  have hnominal : nominalMilliHertz c.nominal = if c.nominal = .hz50 then 50000 else 60000 := by
    cases c.nominal <;> rfl
  unfold levelAndDir
  dsimp only
  rw [hnominal]
  generalize (freq : Int) - (if c.nominal = .hz50 then 50000 else 60000) = dev
  have hband : 0 ≤ (c.deadband : Int) := Int.natCast_nonneg _
  rcases lt_or_ge dev 0 with hneg | hpos
  · rw [abs_of_neg hneg, if_neg (c := 0 < dev - c.deadband) (by omega), if_pos hneg]
  · rw [abs_of_nonneg hpos, if_neg (c := 0 < -dev - c.deadband) (by omega), if_neg (not_lt.mpr hpos)]

theorem levelAndDir_le (c : StationConfig) (φ freq : Nat) : (levelAndDir c φ freq).1 ≤ 16 := by
  unfold levelAndDir
  dsimp only
  split
  · exact levelFor_le _ _ _
  · split
    · exact levelFor_le _ _ _
    · exact Nat.zero_le _

/-! ### Setpoint delta and duty -/

theorem setpointDelta_spec (dir : Option Direction) (take : Nat) {level : Nat} (h : level ≤ 16) :
    let d := setpointDelta dir take level
    d.natAbs ≤ take ∧ (dir = some .raise → 16 * d ≤ take * level ∧ (take * level : Int) < 16 * d + 16) ∧
    (dir = some .lower → d = -setpointDelta (some .raise) take level) ∧ (dir = none → d = 0) := by
  have hbound : take * level ≤ take * 16 := Nat.mul_le_mul_left _ h
  have hcast : (take * level : Int) = ((take * level : Nat) : Int) := by push_cast; rfl
  match dir with
  | none => exact ⟨Nat.zero_le _, nofun, nofun, fun _ => rfl⟩
  | some .raise =>
    dsimp only [setpointDelta]
    rw [hcast]
    exact ⟨by omega, fun _ => by omega, nofun, nofun⟩
  | some .lower =>
    dsimp only [setpointDelta]
    exact ⟨by omega, nofun, fun _ => rfl, nofun⟩

theorem roundDiv_zero {b : Nat} (hb : 0 < b) : roundDiv 0 b = 0 := by
  have hdiv : (2 * (0 : Int).natAbs + b) / (2 * b) = 0 := Nat.div_eq_of_lt (by simp; omega)
  rw [roundDiv, if_pos le_rfl, hdiv]
  rfl

/-- The rounded share of a delta in the scale, below and above 0 alike (R146). -/
theorem roundDiv_neg {a : Int} {b : Nat} (hb : 0 < b) : roundDiv (-a) b = -roundDiv a b := by
  rcases lt_trichotomy a 0 with hneg | rfl | hpos
  · rw [roundDiv, roundDiv, Int.natAbs_neg, if_pos (by omega), if_neg (not_le.mpr hneg), neg_neg]
  · rw [neg_zero, roundDiv_zero hb, neg_zero]
  · rw [roundDiv, roundDiv, Int.natAbs_neg, if_neg (by omega), if_pos hpos.le]

theorem dutyFor_eq {scale : Nat} {d : Int} (hscale : 0 < scale) (hd : d.natAbs ≤ scale) :
    (dutyFor scale d : Int) = 512 + roundDiv (512 * d) scale ∧ (roundDiv (512 * d) scale).natAbs ≤ 512 := by
  have hnear := roundDiv_near (512 * d) hscale
  have hbound : (roundDiv (512 * d) scale).natAbs ≤ 512 := by
    obtain ⟨hupper, hlower⟩ := hnear
    generalize roundDiv (512 * d) scale = q at *
    have hhigh : q < 513 := by
      by_contra hge
      nlinarith [show (d : Int) ≤ scale by omega, show (513 : Int) ≤ q by omega]
    have hlow : -513 < q := by
      by_contra hge
      nlinarith [show -(scale : Int) ≤ d by omega, show q ≤ (-513 : Int) by omega]
    omega
  refine ⟨?_, hbound⟩
  unfold dutyFor
  split
  next hzero =>
    rw [hzero, Int.mul_zero, roundDiv_zero hscale]
    rfl
  next =>
    rw [clampInt_of_mem (by omega) (by omega)]
    omega

theorem dutyFor_spec {scale : Nat} {d : Int} (hscale : 0 < scale) (hd : d.natAbs ≤ scale) :
    let duty : Int := dutyFor scale d
    0 ≤ duty ∧ duty ≤ 1024 ∧ (dutyFor scale (-d) : Int) = 1024 - duty ∧
    (0 ≤ d → 2 * scale * (duty - 512) ≤ 1024 * d + scale ∧ 1024 * d < 2 * scale * (duty - 512) + scale) := by
  obtain ⟨hduty, hbound⟩ := dutyFor_eq hscale hd
  obtain ⟨hduty', -⟩ := dutyFor_eq (d := -d) hscale (by omega)
  rw [Int.mul_neg, roundDiv_neg hscale] at hduty'
  dsimp only
  rw [hduty, hduty']
  refine ⟨by omega, by omega, by omega, fun hpos => ?_⟩
  have hround : roundDiv (512 * d) scale = ((2 * (512 * d).natAbs + scale) / (2 * scale) : Nat) := if_pos (by omega)
  have hdiv := Nat.div_add_mod (2 * (512 * d).natAbs + scale) (2 * scale)
  have hmod := Nat.mod_lt (2 * (512 * d).natAbs + scale) (show 0 < 2 * scale by omega)
  rw [hround]
  generalize (2 * (512 * d).natAbs + scale) / (2 * scale) = q at *
  generalize (2 * (512 * d).natAbs + scale) % (2 * scale) = r at *
  have hproduct : 2 * (scale : Int) * (512 + (q : Int) - 512) = ((2 * scale * q : Nat) : Int) := by push_cast; ring
  rw [hproduct]
  omega

/-! ### The hand-over at a crossing and a missed period -/

theorem deltaHanded_validPeriod {s u : State} (hact : u.act.delta = s.act.delta) (hmon : u.mon = s.mon) (hctrl : u.ctrl = s.ctrl) (p : Nat) :
    DeltaHanded s (validPeriod p u) := by
  unfold validPeriod
  dsimp only
  split
  · exact deltaHanded_recompute hact hmon (by rw [← hctrl]; rfl)
  · exact DeltaHanded.congr hmon.symm hact.symm hctrl.symm rfl rfl (deltaHanded_of_same rfl rfl)

theorem deltaHanded_takeCrossing (count : Nat) (s : State) : DeltaHanded s (takeCrossing count s) := by
  unfold takeCrossing crossingFrom
  split
  · split
    · exact deltaHanded_of_same rfl rfl
    · exact (invalidRecorded_invalidPeriod s).handed
    · exact deltaHanded_validPeriod rfl rfl rfl _
    · exact (invalidRecorded_invalidPeriod s).handed
  · exact deltaHanded_of_same rfl rfl

theorem deltaHanded_crossing (count : Nat) (s : State) :
    DeltaHanded s (takeCrossing count (reachCount count (recordMisses count s))) := by
  by_cases hin : count ≤ s.freq.missStart + windowBound s.ctrl.config.nominal 150
  · rw [recordMisses_of_inTime count s (missBound_pos s) hin]
    exact deltaHanded_takeCrossing count (reachCount count s)
  · obtain ⟨u, m, rfl, hrecorded⟩ := recordMisses_late hin
    obtain ⟨hreference, -⟩ := hrecorded.stands
    rw [takeCrossing_of_none (by exact hreference)]
    exact hrecorded.handed

/-- A recomputation writes the setpoint and the Delivery Monitor alone (R144, R147). -/
theorem recompute_only (s : State) : recompute s = { s with act := (recompute s).act, mon := (recompute s).mon } := by
  unfold recompute handOverDelta startSettling
  dsimp only
  split
  · rfl
  · split <;> rfl

/-- Settles O44: the level by its deviation, the setpoint delta and the duty by their bounds, and what a recomputation hands over. -/
theorem setpointFollowsDeviation : Obligations.SetpointFollowsDeviation := by
  unfold Obligations.SetpointFollowsDeviation
  refine ⟨fun c freq hspan => ⟨fun φ hφ => ?_, fun hpos hle => ?_⟩, fun dir take level h => setpointDelta_spec dir take h,
    fun scale d hscale hd => dutyFor_spec hscale hd, fun s => rfl, fun s => ⟨recompute_activation s, deltaHanded_recompute rfl rfl rfl, ?_⟩,
    fun count s t hexec => ?_⟩
  · have hlevel := levelAndDir_eq c φ freq
    dsimp only at hlevel
    refine ⟨fun hnone => by rw [hlevel, if_neg (not_lt.mpr hnone)], levelAndDir_le c φ freq, fun hpos => ?_⟩
    · rw [hlevel, if_pos hpos]
      exact ⟨rfl, fun hfull => levelFor_full (by omega) hfull, fun m hm hle => le_levelFor_iff (by omega) hm hle⟩
  · have hlevel (φ : Nat) := levelAndDir_eq c φ freq
    dsimp only at hlevel
    simp only [hlevel, if_pos hpos]
    exact sum_levelFor (by omega) hpos hle
  · refine ⟨recompute_only s, ?_⟩
    rw [recompute_act]
    exact ⟨rfl, rfl, rfl⟩
  · rcases hexec with hexec | hexec
    · obtain rfl := Host.Outcome.next.inj hexec
      exact deltaHanded_crossing count s
    · obtain rfl := Host.Outcome.next.inj hexec
      exact (invalidRecorded_invalidPeriod _).handed

end Sys2Proof.Machine

/-! PROOFS. CONFIGURE: taken whole, by the ranges of Table 1-3 (R3, R136, R150). -/

namespace Sys2Proof.Machine

/-! ### The ranges and the fields -/

theorem itemAllowed_iff {id v : Nat} (hid : id < 256) (hv : v < 65536) : itemAllowed ⟨.ofNat 8 id, .ofNat 16 v⟩ = true ↔
    id = 1 ∧ v ≤ 250 ∨ id = 2 ∨ id = 3 ∧ v ≤ 1 ∨ id = 4 ∨ id = 5 ∨ id = 6 ∧ (v = 50 ∨ v = 60) ∨
    id = 7 ∧ 1 ≤ v ∧ v ≤ 4 ∨ id = 8 ∧ 15 ≤ v ∧ v ≤ 120 ∨ id = 9 ∧ 5 ≤ v ∧ v ≤ 60 ∨
    id = 10 ∧ 10 ≤ v ∧ v ≤ 200 ∨ id = 11 ∧ 2 ≤ v ∧ v ≤ 15 ∨ id = 12 ∧ v ≤ 16 ∨ id = 13 ∧ v ≤ 500 ∨
    id = 14 ∧ 50 ≤ v ∧ v ≤ 2000 ∨ id = 15 ∧ 1 ≤ v ∧ v ≤ 8 ∨ (id = 16 ∨ id = 17) ∧ v ≤ 15 ∧ v % 2 = 1 ∨
    id = 18 ∧ 1 ≤ v ∧ v ≤ 16 ∨ id = 19 ∧ 100 ≤ v ∧ v ≤ 1000 ∨ id = 20 ∧ 30 ≤ v ∧ v ≤ 600 ∨
    (id = 21 ∨ id = 22) ∧ v ≤ 2000 := by
  have hid' : (BitVec.ofNat 8 id).toNat = id := Nat.mod_eq_of_lt hid
  have hv' : (BitVec.ofNat 16 v).toNat = v := Nat.mod_eq_of_lt hv
  unfold itemAllowed
  dsimp only
  rw [hid', hv']
  split
  all_goals
    simp_all <;> omega

/-! ### A stored list -/

theorem exec_configure_eq (t : Transaction (List Item)) (s : State) : exec (.configure t) s = .next (hostCommand t false serveConfigure s) := rfl

/-- The meter stands where neither the nominal frequency nor N changes (R136). -/
theorem meterReconfigured_same {old : StationConfig} {s : State} (hnominal : s.ctrl.config.nominal = old.nominal)
    (haveraging : s.ctrl.config.averaging = old.averaging) : meterReconfigured old s = s := if_pos ⟨hnominal, haveraging⟩

/-- A changed nominal frequency or N resets the meter, and a VALID one hands INVALID over (R136). -/
theorem meterReconfigured_changed {old : StationConfig} {s : State}
    (h : ¬ (s.ctrl.config.nominal = old.nominal ∧ s.ctrl.config.averaging = old.averaging)) :
    (meterReconfigured old s).freq = { FrequencyMeter.reset with count := s.freq.count, missStart := s.freq.count } ∧
    (s.freq.state = .valid → flagSet .freqInvalid (meterReconfigured old s) = true ∧ (meterReconfigured old s).act.heldState = .invalid) := by
  unfold meterReconfigured
  rw [if_neg h]
  dsimp only
  split
  · refine ⟨by simp, fun _ => ⟨flagSet_recompute (flagSet_raiseEvent _ _), ?_⟩⟩
    unfold handOverInvalid
    rw [recompute_act]
    rfl
  next hnot => exact ⟨rfl, fun hvalid => absurd hvalid hnot⟩

/-- C after a list: 0 where it stores a T not above C (R150). -/
theorem thresholdReset_errors (items : List Item) (s : State) : (thresholdReset items s).mon.errors =
    if (∃ i ∈ items, i.id = 11) ∧ s.ctrl.config.suspendAt ≤ s.mon.errors then 0 else s.mon.errors := by
  have htest : (items.any (fun i => i.id == 11) && decide (s.ctrl.config.suspendAt ≤ s.mon.errors)) = true ↔
      (∃ i ∈ items, i.id = 11) ∧ s.ctrl.config.suspendAt ≤ s.mon.errors := by simp
  unfold thresholdReset
  simp only [htest]
  split <;> rfl

theorem storeConfiguration_host (items : List Item) (s : State) :
    (storeConfiguration items s).host.log = s.host.log ∧ (storeConfiguration items s).host.mask = s.host.mask := by
  unfold storeConfiguration meterReconfigured
  dsimp only
  split
  · simp
  · split <;> simp

/-- What a stored list leaves of meter and counter (R136, R150). -/
theorem storeConfiguration_spec (items : List Item) (s : State) :
    let t := storeConfiguration items s
    (t.ctrl.config.nominal = s.ctrl.config.nominal → t.ctrl.config.averaging = s.ctrl.config.averaging →
      t.freq = s.freq ∧ t.act = s.act ∧ t.host = s.host) ∧
    (t.ctrl.config.nominal ≠ s.ctrl.config.nominal ∨ t.ctrl.config.averaging ≠ s.ctrl.config.averaging →
      t.freq = { FrequencyMeter.reset with count := s.freq.count, missStart := s.freq.count } ∧
      (s.freq.state = .valid → flagSet .freqInvalid t = true ∧ t.act.heldState = .invalid)) ∧
    t.mon.errors = (if (∃ i ∈ items, i.id = 11) ∧ t.ctrl.config.suspendAt ≤ s.mon.errors then 0 else s.mon.errors) := by
  dsimp only
  rw [storeConfiguration_ctrl]
  unfold storeConfiguration
  dsimp only
  have herrors := thresholdReset_errors items (s.setCtrl { s.ctrl with config := storeItems items s.ctrl.config })
  have hframe := thresholdReset_frame (s.setCtrl { s.ctrl with config := storeItems items s.ctrl.config }) items
  generalize thresholdReset items (s.setCtrl { s.ctrl with config := storeItems items s.ctrl.config }) = u at *
  obtain ⟨hctrl, -, -, -, -, -, -, hfreq, hact, hhost, -⟩ := hframe
  refine ⟨fun hnominal haveraging => ?_, fun hchanged => ?_, ?_⟩
  · rw [meterReconfigured_same (by rw [hctrl]; exact hnominal) (by rw [hctrl]; exact haveraging)]
    exact ⟨hfreq, hact, hhost⟩
  · have hreset := meterReconfigured_changed (old := s.ctrl.config) (s := u) fun hsame => by
      rw [hctrl] at hsame
      exact hchanged.elim (fun h => h hsame.1) fun h => h hsame.2
    rwa [hfreq] at hreset
  · rw [(monitorSame_meterReconfigured s.ctrl.config u).2.1]
    exact herrors

/-- Settles O13: the refusals, what a stored list leaves, the ranges, and each id's field. -/
theorem configureTakenWhole : Obligations.ConfigureTakenWhole := by
  unfold Obligations.ConfigureTakenWhole
  refine ⟨fun n items s => ⟨fun hjoined => ?_, fun hstation hbad => ?_, fun hstation hall => ?_⟩, fun id v hid hv => itemAllowed_iff hid hv,
    fun v c => ?_⟩
  · rw [exec_configure_eq]
    by_cases hleaving : s.ctrl.station = .leaving
    · exact congrArg _ (hostCommand_leaving n items serveConfigure s hleaving)
    · rw [hostCommand_served _ _ _ _ _ (.inl hleaving), serveConfigure, if_pos (by exact hjoined)]
      rfl
  · rw [exec_configure_eq, hostCommand_served _ _ _ _ _ (.inl (by simp [hstation])), serveConfigure, if_neg (by simpa using hstation), if_neg ?_]
    · rfl
    · obtain ⟨i, hi, hnot⟩ := hbad
      exact fun hall => absurd (List.all_eq_true.mp hall i hi) (by simp [hnot])
  · have hexec := exec_configure_eq ⟨n, some items⟩ s
    rw [hostCommand_served _ _ _ _ _ (.inl (by simp [hstation])), serveConfigure, if_neg (by simpa using hstation),
      if_pos (List.all_eq_true.mpr hall)] at hexec
    have hctrl := storeConfiguration_ctrl items (clockOut n s)
    have hframe := storeConfiguration_frame (clockOut n s) items
    obtain ⟨hlog, hmask⟩ := storeConfiguration_host items (clockOut n s)
    obtain ⟨hsame, hchanged, herrors⟩ := storeConfiguration_spec items (clockOut n s)
    obtain ⟨hclock, htable, hpledge, hline, hview, hentry, hties, hpending⟩ := hframe
    dsimp only at hexec
    generalize storeConfiguration items (clockOut n s) = u at *
    refine ⟨_, hexec, hctrl, by simp, hlog, hmask, hclock, htable, hpledge, hline, hview, hentry, hties, hpending, fun hnominal haveraging => ?_,
      fun hnew => ?_, herrors⟩
    · obtain ⟨hfreq, hact, hhost⟩ := hsame hnominal haveraging
      refine ⟨hfreq, hact, ?_, ?_⟩
      · exact congrArg (·.flags) hhost
      · exact congrArg (·.again) hhost
    · obtain ⟨hfreq, hvalid⟩ := hchanged hnew
      have hfreq' : (holdAnswer ⟨.done, .config u.ctrl.config⟩ u).freq = u.freq := by simp
      rw [hfreq', hfreq]
      exact ⟨rfl, rfl, rfl, rfl, rfl, rfl, hvalid⟩
  · have hnominal : storeItem c ⟨6, v⟩ = { c with nominal := if v.toNat = 60 then .hz60 else .hz50 } := by simp [storeItem]
    exact ⟨rfl, rfl, rfl, rfl, rfl, hnominal, rfl, rfl, rfl, rfl, rfl, rfl, rfl, rfl, rfl, rfl, rfl, rfl, rfl, rfl, rfl, rfl⟩

end Sys2Proof.Machine

/-! PROOFS. Records handed to the Settlement Log, and the boundary at every block (R17, R27 to R31, R74, R86, R92, R139, R144, R147,
R165, R166). -/

namespace Sys2Proof.Machine

/-! ### Records handed over -/

/-- Log and events alone differ. -/
def EventsOnly (s t : State) : Prop :=
  t = { s with host := { s.host with log := t.host.log, flags := t.host.flags, again := t.host.again } }

theorem EventsOnly.trans {s t u : State} (h : EventsOnly s t) (h' : EventsOnly t u) : EventsOnly s u := by
  unfold EventsOnly at *
  rw [h', h]

theorem eventsOnly_raiseEvent (e : Event) (s : State) : EventsOnly s (raiseEvent e s) := by
  unfold raiseEvent EventsOnly
  dsimp only
  split <;> rfl

theorem eventsOnly_raiseWhen (b : Bool) (e : Event) (s : State) : EventsOnly s (raiseWhen b e s) := by
  cases b with
  | true => exact eventsOnly_raiseEvent e s
  | false => rfl

/-- Settlement records made at the newest end of the log, with the events they raise. -/
structure Settled (made : List Settlement) (s t : State) : Prop where
  only : EventsOnly s t
  log : t.host.log = (s.host.log ++ made).drop (s.host.log.length + made.length - 32)
  settled : Raised .settled made.length s t
  overrun : Raised .logOverrun (s.host.log.length + made.length - 32) s t
  others : ∀ e, e ≠ .settled → e ≠ .logOverrun → Raised e 0 s t

theorem settled_nil {s : State} (h : LogLaw s) : Settled [] s s := by
  have hnone : s.host.log.length + 0 - 32 = 0 := Nat.sub_eq_zero_of_le h
  refine ⟨rfl, ?_, raised_of_host rfl _, ?_, fun e _ _ => raised_of_host rfl e⟩
  · rw [List.length_nil, hnone, List.append_nil, List.drop_zero]
  · rw [List.length_nil, hnone]
    exact raised_of_host rfl _

/-- One more record at the newest end; a full log loses its oldest (R166). -/
theorem settled_addSettlement (x : Settlement) {s : State} (h : LogLaw s) : Settled [x] s (addSettlement x s) := by
  have hbound : s.host.log.length ≤ 32 := h
  unfold addSettlement
  dsimp only
  generalize hu : s.setHost { s.host with log := _ } = u
  have hhost : u.host.flags = s.host.flags ∧ u.host.again = s.host.again := by rw [← hu]; exact ⟨rfl, rfl⟩
  have hraised (e : Event) : Raised e 0 s u := by simp [Raised, flagSet, againSet, hhost]
  refine ⟨?_, ?_, ?_, ?_, fun e hsettled hoverrun => ?_⟩
  · have hset : EventsOnly s u := by rw [← hu]; rfl
    exact hset.trans ((eventsOnly_raiseWhen _ _ u).trans (eventsOnly_raiseEvent _ _))
  · have hlog : u.host.log = (s.host.log ++ [x]).drop (s.host.log.length + 1 - 32) := by
      rw [← hu]
      by_cases hfull : Config.logLimit ≤ s.host.log.length
      · have hone : s.host.log.length + 1 - 32 = 1 := by
          have hge : 32 ≤ s.host.log.length := hfull
          omega
        rw [hone, List.drop_append_of_le_length (by omega)]
        simp [hfull]
      · have hlt : s.host.log.length < 32 := not_le.mp hfull
        rw [show s.host.log.length + 1 - 32 = 0 by omega]
        simp [hfull]
    simpa using hlog
  · exact Raised.trans (Raised.trans (hraised .settled) (raised_raiseWhen_of_ne (f := .logOverrun) (by decide) _ u))
      (raised_raiseEvent .settled _)
  · have hcount : 0 + (decide (Config.logLimit ≤ s.host.log.length)).toNat + 0 = s.host.log.length + [x].length - 32 := by
      by_cases hfull : Config.logLimit ≤ s.host.log.length
      · have hge : 32 ≤ s.host.log.length := hfull
        simp [hfull]
        omega
      · have hlt : s.host.log.length < 32 := not_le.mp hfull
        simp [hfull]
        omega
    rw [← hcount]
    exact Raised.trans (Raised.trans (hraised .logOverrun) (raised_raiseWhen _ .logOverrun u))
      (raised_raiseEvent_of_ne (e := .logOverrun) (f := .settled) (by decide) _)
  · exact Raised.trans (Raised.trans (hraised e) (raised_raiseWhen_of_ne hoverrun _ u)) (raised_raiseEvent_of_ne hsettled _)

theorem Settled.logLaw {made : List Settlement} {s t : State} (h : Settled made s t) : LogLaw t := by
  have hlog := h.log
  unfold LogLaw Config.logLimit
  rw [hlog, List.length_drop, List.length_append]
  omega

theorem Settled.trans {made made' : List Settlement} {s t u : State} (h : Settled made s t) (h' : Settled made' t u) :
    Settled (made ++ made') s u := by
  have hlength : t.host.log.length = s.host.log.length + made.length - (s.host.log.length + made.length - 32) := by
    rw [h.log, List.length_drop, List.length_append]
  have hbeyond : s.host.log.length + made.length - 32 + (t.host.log.length + made'.length - 32) =
      s.host.log.length + (made ++ made').length - 32 := by
    rw [hlength, List.length_append]
    omega
  refine ⟨?_, ?_, ?_, ?_, fun e hsettled hoverrun => ?_⟩
  · exact h.only.trans h'.only
  · rw [h'.log, ← hbeyond, ← List.drop_drop, ← List.append_assoc, List.drop_append_of_le_length (l₁ := s.host.log ++ made), ← h.log]
    simp
  · rw [List.length_append]
    exact Raised.trans h.settled h'.settled
  · rw [← hbeyond]
    exact Raised.trans h.overrun h'.overrun
  · exact Raised.trans (h.others e hsettled hoverrun) (h'.others e hsettled hoverrun)

theorem settlementOf_eq (r : CRecord) : settlementOf r (r.run.getD (freshRun r.take)) = settledAs r := by
  unfold settlementOf settledAs truncDiv freshRun
  cases r.run <;> rfl

theorem settled_handRecords (records : List CRecord) {s : State} (h : LogLaw s) :
    Settled ((records.filter makesSettlement).map settledAs) s (records.foldl handRecord s) := by
  induction records generalizing s with
  | nil => exact settled_nil h
  | cons r rest ih =>
    rw [List.foldl_cons]
    unfold handRecord
    by_cases hmakes : makesSettlement r = true
    · rw [if_pos hmakes, List.filter_cons_of_pos hmakes, settlementOf_eq]
      have hone := settled_addSettlement (settledAs r) h
      exact Settled.trans hone (ih hone.logLaw)
    · rw [if_neg hmakes, List.filter_cons_of_neg hmakes]
      exact ih h

/-- The records of an interval handed to the Settlement Log (R165, R166). -/
theorem handed_handInterval (k : Word) {s : State} (h : LogLaw s) : Handed k s (handInterval k s) := by
  have hrecords : recordsOf s.table k = ([.raise, .lower] : List Direction).filterMap fun d => findRec s.table k d := by
    unfold recordsOf
    cases hraise : findRec s.table k .raise <;> cases hlower : findRec s.table k .lower <;> simp [hraise, hlower]
  have hsettled := settled_handRecords (recordsOf s.table k) h
  unfold Handed
  rw [← hrecords]
  exact ⟨hsettled.only, hsettled.log, hsettled.settled, hsettled.overrun, hsettled.others⟩

end Sys2Proof.Machine

/-! PROOFS. The boundary at every block (R17, R27 to R31, R74, R86, R92, R139, R144, R147). -/

namespace Sys2Proof.Machine

/-! ### The table after a boundary -/

/-- A boundary that begins interval `c`, performed at a table of the horizon before it (R27, R28, R31). -/
theorem findRec_slideTable {c : Word} {table : List CRecord} (hkeys : recordKeys table = horizonPairs (c - 1)) :
    recordKeys (slideTable c table) = horizonPairs c ∧
    (∀ r ∈ table, r.interval ≠ c - 1 →
      findRec (slideTable c table) r.interval r.dir = some (if r.interval = c then r.toRunning else r)) ∧
    (∀ d, findRec (slideTable c table) (c + 7) d = some (openRecord (c + 7) d)) ∧
    ∀ d, (findRec (slideTable c table) c d).map (·.state) = some .running := by
  have hnext : recordKeys (slideTable c table) = horizonPairs c := by rw [recordKeys_slideTable, hkeys, horizonPairs_next]
  have hnodup : (recordKeys (slideTable c table)).Nodup := hnext ▸ horizonPairs_nodup c
  have hfound {x : CRecord} (hx : x ∈ slideTable c table) : findRec (slideTable c table) x.interval x.dir = some x := findRec_of_mem hnodup hx
  refine ⟨hnext, fun r hr hne => ?_, fun d => ?_, fun d => ?_⟩
  · have hmem : (if r.interval = c then r.toRunning else r) ∈ slideTable c table :=
      List.mem_append_left _ (List.mem_map_of_mem (f := fun r => if r.interval = c then r.toRunning else r)
        (List.mem_filter.mpr ⟨hr, by simpa using hne⟩))
    rw [← hfound hmem]
    split <;> rfl
  · have hslot : atSlot c 7 = c + 7 := rfl
    have hmem : openRecord (c + 7) d ∈ slideTable c table := by
      refine List.mem_append_right _ ?_
      rw [hslot]
      cases d <;> simp
    exact hfound hmem
  · have hsome : (findRec (slideTable c table) c d).isSome = true := by
      rw [findRec_isSome, hnext, mem_horizonPairs]
      exact inHorizon_self c
    obtain ⟨x, hx⟩ := Option.isSome_iff_exists.mp hsome
    obtain ⟨hmem, hinterval, -⟩ := findRec_some hx
    rw [hx]
    rcases mem_slideTable hmem with ⟨r, -, -, -, rfl⟩ | ⟨-, -, hother⟩ | ⟨e, rfl⟩
    · rfl
    · exact absurd hinterval hother
    · have hlast : atSlot c 7 = c := hinterval
      have hslot := slotOf_atSlot c 7 (by decide)
      rw [hlast, (slotOf_eq_zero_iff c c).mpr rfl] at hslot
      cases hslot

/-! ### The boundary issued -/

/-- A boundary before it reaches the table: phase, queue and view. -/
def boundaryPrepared (u : State) : State :=
  let v := purgeQueue (fun k => !isBefore k u.clock.current) (recomputePhase u)
  v.setView (pruneView (fun k => k == u.clock.current - 1) v.view)

theorem issueBoundary_eq (u : State) : issueBoundary u = recompute (boundaryAtTable (boundaryPrepared u)) := rfl

@[simp] theorem boundaryPrepared_frame (u : State) : (boundaryPrepared u).ctrl = u.ctrl ∧ (boundaryPrepared u).clock = u.clock ∧
    (boundaryPrepared u).table = u.table ∧ (boundaryPrepared u).pledge = u.pledge ∧ (boundaryPrepared u).host = u.host ∧
    (boundaryPrepared u).mon = u.mon ∧ (boundaryPrepared u).freq = u.freq ∧ (boundaryPrepared u).pending = u.pending ∧
    (boundaryPrepared u).act = { u.act with phase := ditherPhase u.ctrl.config u.clock.current } ∧
    (boundaryPrepared u).view = pruneView (fun k => k == u.clock.current - 1) u.view := by
  simp [boundaryPrepared, recomputePhase]

theorem boundaryPrepared_line (u : State) : (boundaryPrepared u).line = (purgeQueue (fun k => !isBefore k u.clock.current) u).line := by
  simp [boundaryPrepared, purgeQueue, recomputePhase]

theorem boundaryAtTable_unjoined {v : State} (h : v.ctrl.station = .unjoined) :
    boundaryAtTable v = v.setPledge (pruneEntries v.clock.current v.pledge) := by
  simp [boundaryAtTable, joined, h]

theorem boundaryAtTable_busy {v : State} (hjoined : v.ctrl.station ≠ .unjoined) (hbusy : v.pledge.comp.isSome = true) :
    boundaryAtTable v = v.setPledge { v.pledge with boundaryPending := true } := by
  simp [boundaryAtTable, joined, hjoined, busy, hbusy]

theorem boundaryAtTable_free {v : State} (hjoined : v.ctrl.station ≠ .unjoined) (hfree : v.pledge.comp = none) :
    boundaryAtTable v = startComputation true false false (performBoundary v) := by
  simp [boundaryAtTable, joined, hjoined, busy, hfree]

/-- Where the boundary is performed at once, the setpoint formed there is the one of the moment (R144, log 42). -/
theorem issueBoundary_free {u : State} (hjoined : u.ctrl.station ≠ .unjoined) (hfree : u.pledge.comp = none) :
    issueBoundary u = startComputation true false false (performBoundary (boundaryPrepared u)) := by
  rw [issueBoundary_eq, boundaryAtTable_free (by simpa using hjoined) (by simpa using hfree)]
  refine recompute_of_activationLaw ?_
  exact activationLaw_of_frame (s := performBoundary (boundaryPrepared u)) (by simp) (by simp) (by simp) (recompute_activation _)

/-- A changed D is handed over once (R144, R147). -/
theorem deltaHanded_issueBoundary {s u : State} (hdelta : u.act.delta = s.act.delta) (hmon : u.mon = s.mon) (hctrl : u.ctrl = s.ctrl) :
    DeltaHanded s (issueBoundary u) := by
  have hheld (p : PledgeEngine) : DeltaHanded s (recompute ((boundaryPrepared u).setPledge p)) :=
    deltaHanded_recompute (by simp [hdelta]) (by simp [hmon]) (by simp [hctrl])
  by_cases hunjoined : u.ctrl.station = .unjoined
  · rw [issueBoundary_eq, boundaryAtTable_unjoined (by simpa using hunjoined)]
    exact hheld _
  · cases hcomp : u.pledge.comp with
    | some c =>
      rw [issueBoundary_eq, boundaryAtTable_busy (by simpa using hunjoined) (by simp [hcomp])]
      exact hheld _
    | none =>
      rw [issueBoundary_free hunjoined hcomp]
      have hperformed : DeltaHanded s (performBoundary (boundaryPrepared u)) :=
        deltaHanded_recompute (by simp [hdelta]) (by simp [hmon]) (by simp [hctrl])
      exact DeltaHanded.congr rfl rfl rfl (by simp) (by simp) hperformed

theorem recompute_phase (s : State) : (recompute s).act.phase = s.act.phase := by
  rw [recompute_act]

theorem boundaryAtTable_phase (v : State) : (boundaryAtTable v).act.phase = v.act.phase := by
  unfold boundaryAtTable
  split
  · split
    · rfl
    · unfold performBoundary
      simp [recompute_phase]
  · rfl

theorem pruneView_eq (k : Word) (view : List Peer) : pruneView (fun j => j == k) view = view.map fun p => { p with
    entries := p.entries.filter fun e => e.interval != k
    heard := p.heard.filter fun h => h.interval != k } := rfl

/-- After a boundary no record of the view holds anything of the ended interval (R86). -/
theorem pruneView_ended {k : Word} {view : List Peer} {p : Peer} (hp : p ∈ pruneView (fun j => j == k) view) :
    p.entryAt k = none ∧ ∀ d, p.heardAt k d = none := by
  obtain ⟨q, -, rfl⟩ := List.mem_map.mp hp
  refine ⟨?_, fun d => ?_⟩
  · refine Option.map_eq_none_iff.mpr (List.find?_eq_none.mpr fun e he => ?_)
    simpa using (List.mem_filter.mp he).2
  · refine List.find?_eq_none.mpr fun h hh => ?_
    have hother : h.interval ≠ k := by simpa using (List.mem_filter.mp hh).2
    simp [hother]

section
variable {s : State} {clk : IntervalClock}

/-- A boundary issued from `s` at queue, view, setpoint and phase. -/
theorem issueBoundary_issued (hcurrent : clk.current = s.clock.current + 1) :
    BoundaryIssued s (issueBoundary (s.setClock clk)) ∧
    (issueBoundary (s.setClock clk)).act.phase = (s.ctrl.config.stationId * s.ctrl.config.ditherX +
      (s.clock.current + 1).toNat / s.ctrl.config.rotation * s.ctrl.config.ditherY) % 16 := by
  refine ⟨⟨?_, ?_, deltaHanded_issueBoundary rfl rfl rfl⟩, ?_⟩
  · have hline : (issueBoundary (s.setClock clk)).line = (purgeQueue (fun k => !isBefore k (s.clock.current + 1)) s).line := by
      rw [issueBoundary_eq]
      simp [boundaryPrepared_line, hcurrent, purgeQueue]
    unfold Purged
    rw [hline]
    exact purged_purgeQueue _ s
  · rw [issueBoundary_eq, ← pruneView_eq]
    simp [hcurrent]
  · have hphase : (issueBoundary (s.setClock clk)).act.phase = ditherPhase s.ctrl.config clk.current := by
      rw [issueBoundary_eq, recompute_phase, boundaryAtTable_phase]
      simp
    rw [hphase, hcurrent, ditherPhase_eq]

/-- A boundary issued in a joined state with no computation in flight is performed at the table, and its computation starts. -/
theorem issueBoundary_performed (hcurrent : clk.current = s.clock.current + 1) (hjoined : s.ctrl.station ≠ .unjoined)
    (hfree : s.pledge.comp = none) (hkeys : recordKeys s.table = horizonPairs s.clock.current) :
    let t := issueBoundary (s.setClock clk)
    BoundaryPerformed s t ∧ t.pledge.boundaryPending = false ∧ (t.pledge.comp.map (·.boundary)) = some true ∧
    t.host.log = (handInterval s.clock.current s).host.log ∧
    ∀ d, (findRec t.table (s.clock.current + 1) d).map (·.state) = some .running := by
  dsimp only
  rw [issueBoundary_free (u := s.setClock clk) hjoined hfree]
  have hended : s.clock.current + 1 - 1 = s.clock.current := by simp
  obtain ⟨hnext, hlater, hlast, hrunning⟩ := findRec_slideTable (c := s.clock.current + 1) (table := s.table) (by rw [hended, hkeys])
  have htable : (startComputation true false false (performBoundary (boundaryPrepared (s.setClock clk)))).table =
      slideTable (s.clock.current + 1) s.table := by
    simp [performBoundary_table, hcurrent]
  have hladders : (startComputation true false false (performBoundary (boundaryPrepared (s.setClock clk)))).pledge.ladders =
      s.pledge.ladders.filter fun l => l.interval != s.clock.current := by
    simp [startComputation, performBoundary, pruneEntries, keepLadders, hcurrent]
  have hlog : (performBoundary (boundaryPrepared (s.setClock clk))).host.log = (handInterval s.clock.current s).host.log := by
    have hrecords : SameRecords s (boundaryPrepared (s.setClock clk)) := by simp [SameRecords]
    simp [performBoundary, hcurrent, (sameRecords_handInterval s.clock.current hrecords).2.1]
  have hslot : s.clock.current + 1 + 7 = s.clock.current + 8 := by bv_omega
  refine ⟨⟨by rw [htable, hnext], fun r hr hne => ?_, fun d => ?_, fun l => by rw [hladders]; simp⟩, ?_, (startComputation_marks _ _ _ _).2.1, ?_,
    fun d => by rw [htable, hrunning]⟩
  · rw [htable]
    exact hlater r hr (by rwa [hended])
  · rw [htable, ← hslot, hlast]
  · simp [startComputation, performBoundary, pruneEntries]
  · simpa using hlog

/-- A boundary issued while a computation is in flight is held (R30). -/
theorem issueBoundary_held (hjoined : s.ctrl.station ≠ .unjoined) (hbusy : s.pledge.comp.isSome = true) :
    let t := issueBoundary (s.setClock clk)
    t.table = s.table ∧ t.pledge = { s.pledge with boundaryPending := true } ∧ t.host = s.host := by
  dsimp only
  rw [issueBoundary_eq, boundaryAtTable_busy (by simpa using hjoined) (by simpa using hbusy)]
  simp

theorem issueBoundary_unjoined (hunjoined : s.ctrl.station = .unjoined) :
    (issueBoundary (s.setClock clk)).table = s.table ∧ (issueBoundary (s.setClock clk)).pledge.comp = s.pledge.comp := by
  rw [issueBoundary_eq, boundaryAtTable_unjoined (by simpa using hunjoined)]
  simp [pruneEntries]

end

/-! ### The clock's steps -/

theorem exec_clockSecond_eq (s : State) : exec .clockSecond s = .next (if s.clock.second < 299 then
      if clockCounts s then nextSecond s else s
    else if boundaryCanOccur s then naturalBoundary s else s) := rfl

theorem exec_intervalBoundary_eq (s : State) : exec .intervalBoundary s =
    .next (if boundaryCanOccur s && decide (s.clock.second = 299) then naturalBoundary s else s) := rfl

theorem clockCounts_iff (s : State) : clockCounts s = true ↔ s.clock.mark = none ∧ s.clock.rebuild = none := by
  simp [clockCounts]

/-- Settles O22: the seconds, the records handed over, and the natural boundary. -/
theorem secondsAndBoundaries : Obligations.SecondsAndBoundaries := by
  unfold Obligations.SecondsAndBoundaries
  refine ⟨fun s hsecond => ⟨fun hmark hrebuild => ?_, fun hwaits => ?_⟩, fun k s hlaw => handed_handInterval k hlaw,
    fun s hsecond hmark hrebuild hpending => ?_⟩
  · rw [exec_clockSecond_eq, if_pos hsecond, if_pos ((clockCounts_iff s).mpr ⟨hmark, hrebuild⟩)]
    rfl
  · have hstopped : ¬ clockCounts s = true := fun hcounts => by
      obtain ⟨hmark, hrebuild⟩ := (clockCounts_iff s).mp hcounts
      simp [hmark, hrebuild] at hwaits
    rw [exec_clockSecond_eq, if_pos hsecond, if_neg hstopped]
  · have hexec : exec .intervalBoundary s = .next (naturalBoundary s) := by
      rw [exec_intervalBoundary_eq, if_pos (by simp [boundaryCanOccur, (clockCounts_iff s).mpr ⟨hmark, hrebuild⟩, hpending, hsecond])]
    refine ⟨_, hexec, ?_, by simp, by simp, by simp, fun hunset => ?_, fun hset => ?_⟩
    · unfold naturalBoundary
      split <;> simp [nextInterval]
    · have hclockOnly : naturalBoundary s = nextInterval s := if_neg (by simp [hunset])
      rw [hclockOnly]
      rfl
    · have hnatural : naturalBoundary s = issueBoundary (nextInterval s) := if_pos hset
      rw [hnatural]
      obtain ⟨hissued, hphase⟩ := issueBoundary_issued (s := s)
        (clk := { s.clock with current := s.clock.current + 1, second := 0, subMs := 0 }) rfl
      refine ⟨hphase, ?_, ?_, hissued, fun hjoined hfree hkeys => ?_, fun hjoined hbusy => issueBoundary_held hjoined hbusy⟩
      · obtain ⟨-, hview, -⟩ := hissued
        have hpruned := hview.trans (pruneView_eq s.clock.current s.view).symm
        exact fun p hp => pruneView_ended (hpruned ▸ hp)
      · obtain ⟨-, hview, -⟩ := hissued
        exact (congrArg List.length hview).trans (List.length_map _)
      · obtain ⟨hperformed, hnone, hcomp, hlog, hrunning⟩ := issueBoundary_performed (s := s)
          (clk := { s.clock with current := s.clock.current + 1, second := 0, subMs := 0 }) rfl hjoined hfree hkeys
        obtain ⟨hnext, hlater, hlast, hladders⟩ := id hperformed
        exact ⟨hnext, hnone, hperformed, hcomp, hlog, fun d => ⟨hrunning d, hlast d⟩⟩

/-! ### Forward marks -/

theorem engineFree_iff (s : State) : engineFree s = true ↔ s.pledge.comp = none ∧ s.pledge.boundaryPending = false := by
  simp [engineFree, busy]

theorem exec_markBoundary_of_mark {m : ForwardMark} {s : State} (hmark : s.clock.mark = some m) (hfree : s.pledge.comp = none)
    (hpending : s.pledge.boundaryPending = false) : exec .markBoundary s = .next (performMarkBoundary m s) := by
  change Host.Outcome.next _ = _
  rw [hmark]
  exact congrArg _ (if_pos ((engineFree_iff s).mpr ⟨hfree, hpending⟩))

/-- The clock while a forward mark is performed: the next interval, at second 0 before the last boundary and as marked after it. -/
theorem performMarkBoundary_eq (m : ForwardMark) (s : State) : ∃ clk second, clk.current = s.clock.current + 1 ∧
    performMarkBoundary m s = (issueBoundary (s.setClock clk)).setClock { clk with second := second, subMs := 0 } ∧
    clk.isSet = s.clock.isSet ∧
    (2 ≤ m.left → clk.mark = some { m with left := m.left - 1 } ∧ second = 0) ∧
    (m.left ≤ 1 → clk.mark = none ∧ second = m.second) := by
  by_cases hlast : m.left ≤ 1
  · refine ⟨{ s.clock with current := s.clock.current + 1, second := 0, subMs := 0, mark := none }, m.second, rfl, ?_, rfl,
      fun hmore => absurd hlast (by omega), fun _ => ⟨rfl, rfl⟩⟩
    unfold performMarkBoundary
    dsimp only
    rw [if_pos hlast]
    unfold replaceSecond
    rw [(issueBoundary_frame _).2.1]
    rfl
  · refine ⟨{ s.clock with current := s.clock.current + 1, second := 0, subMs := 0, mark := some { m with left := m.left - 1 } }, 0, rfl, ?_,
      rfl, fun _ => ⟨rfl, rfl⟩, fun hle => absurd hle hlast⟩
    unfold performMarkBoundary
    dsimp only
    rw [if_neg hlast]
    have hnext (clk : IntervalClock) : (nextInterval s).setClock clk = s.setClock clk := rfl
    have hself (u : State) : u = u.setClock u.clock := rfl
    rw [hnext, hself (issueBoundary _), (issueBoundary_frame _).2.1]
    rfl

/-- Settles O23: a mark's boundary does what a boundary does, and the clock follows the mark. -/
theorem markBoundariesIssued : Obligations.MarkBoundariesIssued := by
  unfold Obligations.MarkBoundariesIssued
  intro m s hmark hfree hpending
  obtain ⟨clk, second, hcurrent, hperformed, hset, hmore, hlast⟩ := performMarkBoundary_eq m s
  obtain ⟨hissued, hphase⟩ := issueBoundary_issued (s := s) (clk := clk) hcurrent
  refine ⟨_, exec_markBoundary_of_mark hmark hfree hpending, ?_⟩
  rw [hperformed]
  refine ⟨hcurrent, hset, rfl, by simp, by simp, by simp, hmore, hlast, hissued, hphase, fun hjoined hkeys => ?_, fun hunjoined => ?_⟩
  · obtain ⟨hboundary, -, hcomp, hlog, -⟩ := issueBoundary_performed hcurrent hjoined hfree hkeys
    obtain ⟨hnext, -⟩ := id hboundary
    exact ⟨hnext, hboundary, hlog, hcomp⟩
  · obtain ⟨htable, hcomp⟩ := issueBoundary_unjoined (s := s) (clk := clk) hunjoined
    exact ⟨htable, hcomp.trans hfree⟩

end Sys2Proof.Machine

/-! PROOFS. A rebuild performed (R19, R74, R139, R147). -/

namespace Sys2Proof.Machine

/-- The record a rebuild creates is found under its key (R19). -/
theorem findRec_rebuiltTable (c : StationConfig) (p : PledgeEngine) (first : Word) {j : Nat} (hj : j < 8) (d : Direction) :
    findRec (rebuiltTable c p first) (atSlot first j) d = some (rebuiltRecord c p first j d) := by
  have hnodup : (recordKeys (rebuiltTable c p first)).Nodup := recordKeys_rebuiltTable c p first ▸ horizonPairs_nodup first
  have hmem : rebuiltRecord c p first j d ∈ rebuiltTable c p first := by
    refine List.mem_flatMap.mpr ⟨j, List.mem_range.mpr hj, ?_⟩
    cases d <;> simp
  have hkey : (rebuiltRecord c p first j d).interval = atSlot first j ∧ (rebuiltRecord c p first j d).dir = d := by
    unfold rebuiltRecord
    split <;> exact ⟨rfl, rfl⟩
  have hfound := findRec_of_mem hnodup hmem
  rwa [hkey.1, hkey.2] at hfound

/-- The fields of the fresh records (Table 2-4). -/
theorem rebuiltRecord_fields (c : StationConfig) (p : PledgeEngine) (first : Word) (j : Nat) (d : Direction) :
    let r := rebuiltRecord c p first j d
    r.take = 0 ∧ r.award = none ∧ r.lastSent = none ∧ r.withdrawn = none ∧ r.hold = none ∧ r.evalPending = false ∧
    (j = 0 → r.state = .running ∧ r.run = some ⟨0, 0, 0, 0, 0⟩) ∧
    (1 ≤ j → j ≤ c.gateLead → r.state = .closed ∧ r.run = none) ∧
    (j ≤ c.gateLead → r.live = none ∧ r.frozen = some 0 ∧ r.frozenBand = some (bandOf p d) ∧ r.cap = some 0) ∧
    (c.gateLead < j → r.state = .opened ∧ r.live = some 0 ∧ r.frozen = none ∧ r.frozenBand = none ∧
      r.cap = none ∧ r.run = none) := by
  dsimp only
  unfold rebuiltRecord
  by_cases hgate : j ≤ c.gateLead
  · rw [if_pos hgate]
    refine ⟨rfl, rfl, rfl, rfl, rfl, rfl, fun hzero => ?_, fun hpos _ => ?_, fun _ => ⟨rfl, rfl, rfl, rfl⟩, fun hlt => absurd hgate (by omega)⟩
    · rw [hzero]
      exact ⟨rfl, rfl⟩
    · have hlater : (j == 0) = false := beq_eq_false_iff_ne.mpr (by omega)
      rw [hlater]
      exact ⟨rfl, rfl⟩
  · rw [if_neg hgate]
    exact ⟨rfl, rfl, rfl, rfl, rfl, rfl, fun hzero => absurd hgate (by omega), fun _ hle => absurd hle hgate, fun hle => absurd hle hgate,
      fun _ => ⟨rfl, rfl, rfl, rfl, rfl, rfl⟩⟩

theorem exec_rebuild_of_waiting {w : WaitingRebuild} {s : State} (hwaits : s.clock.rebuild = some w) (hfree : s.pledge.comp = none)
    (hpending : s.pledge.boundaryPending = false) : exec .rebuild s = .next (performRebuild w.interval w.second s) := by
  change Host.Outcome.next _ = _
  rw [hwaits]
  exact congrArg _ (if_pos ((engineFree_iff s).mpr ⟨hfree, hpending⟩))

theorem performRebuild_unjoined (k : Word) (n : Nat) {s : State} (h : s.ctrl.station = .unjoined) :
    performRebuild k n s = recompute (recomputePhase (setClockTo k n s)) := by
  simp [performRebuild, joined, h]

theorem performRebuild_joined (k : Word) (n : Nat) {s : State} (h : s.ctrl.station ≠ .unjoined) :
    performRebuild k n s = recompute (recomputePhase (rebuildHorizon (setClockTo k n s))) := by
  simp [performRebuild, joined, h]

@[simp] theorem rebuildHorizon_stands (s : State) : (rebuildHorizon s).act = s.act ∧ (rebuildHorizon s).mon = s.mon ∧
    (rebuildHorizon s).ctrl = s.ctrl ∧ (rebuildHorizon s).view = pruneView (fun k => !inHorizon s.clock.current k) s.view ∧
    (rebuildHorizon s).pledge.ladders = s.pledge.ladders.filter (fun l => inHorizon s.clock.current l.interval) ∧
    (rebuildHorizon s).line = (purgeQueue (inHorizon s.clock.current) s).line := by
  simp [rebuildHorizon, pruneEntries, keepLadders, purgeQueue]

theorem deltaHanded_performRebuild (k : Word) (n : Nat) (s : State) : DeltaHanded s (performRebuild k n s) := by
  by_cases h : s.ctrl.station = .unjoined
  · rw [performRebuild_unjoined k n h]
    exact deltaHanded_recompute rfl rfl rfl
  · rw [performRebuild_joined k n h]
    exact deltaHanded_recompute (by simp [recomputePhase]) (by simp [recomputePhase]) (by simp [recomputePhase])

/-- Of the TAKE and AWARD entries a purge leaves those in flight and those whose interval is kept (R74). -/
theorem mem_purgeQueue {keep : Word → Bool} {s : State} {e : QEntry} (he : e ∈ (purgeQueue keep s).line.queue) :
    e.inFlight = true ∨ ∀ k ∈ e.key.interval, keep k = true := by
  obtain ⟨x, hx, hxe⟩ := of_mem_redrawn (redrawn_settleHead _ _) he
  have hstays := (List.mem_filter.mp hx).2
  rw [hxe]
  cases hk : x.key.interval with
  | none => exact .inr (by simp)
  | some k => simpa [hk] using hstays

/-- Settles O24: the clock, the fresh table, what view, queue and ladders keep, and the fresh records' fields. -/
theorem rebuildPerformed : Obligations.RebuildPerformed := by
  unfold Obligations.RebuildPerformed
  refine ⟨fun w s hwaits hfree hpending => ?_, fun c p first j d hj => ⟨_, findRec_rebuiltTable c p first hj d, rebuiltRecord_fields c p first j d⟩⟩
  have hclock : (performRebuild w.interval w.second s).clock =
      { s.clock with current := w.interval, second := w.second, isSet := true, subMs := 0, rebuild := none } := by
    unfold performRebuild setClockTo
    split <;> simp [recomputePhase]
  have hcomp := (performRebuild_engine w.interval w.second s).2.trans hfree
  refine ⟨_, exec_rebuild_of_waiting hwaits hfree hpending, ?_⟩
  rw [hclock]
  refine ⟨rfl, rfl, rfl, rfl, rfl, by simp, by simp, by simp, hcomp, by simp, performRebuild_phase _ _ _,
    deltaHanded_performRebuild _ _ _, fun hunjoined => ?_, fun hjoined => ?_⟩
  · rw [performRebuild_unjoined _ _ hunjoined]
    simp [recomputePhase]
  · have hhorizon := performRebuild_joined w.interval w.second hjoined
    have hview : (performRebuild w.interval w.second s).view = pruneView (fun k => !inHorizon w.interval k) s.view := by
      rw [hhorizon]
      simp [recomputePhase, setClockTo]
    have hladders : (performRebuild w.interval w.second s).pledge.ladders =
        s.pledge.ladders.filter fun l => inHorizon w.interval l.interval := by
      rw [hhorizon]
      simp [recomputePhase, setClockTo]
    have hline : (performRebuild w.interval w.second s).line = (purgeQueue (inHorizon w.interval) s).line := by
      rw [hhorizon]
      simp [recomputePhase, setClockTo, purgeQueue]
    refine ⟨?_, fun p hp => ?_, fun l hl => ?_, ?_, fun e he => mem_purgeQueue (hline ▸ he)⟩
    · rw [performRebuild_table]
      simp [joined, hjoined]
    · obtain ⟨q, -, rfl⟩ := List.mem_map.mp (hview ▸ hp)
      refine ⟨fun e he => ?_, fun h hh => ?_⟩
      · simpa using (List.mem_filter.mp he).2
      · simpa using (List.mem_filter.mp hh).2
    · rw [hladders] at hl
      exact (List.mem_filter.mp hl).2
    · unfold Purged
      rw [hline]
      exact purged_purgeQueue _ s

end Sys2Proof.Machine

/-! PROOFS. What SET_PRICE and SET_BASELINE store (R39 to R41, R56). -/

namespace Sys2Proof.Machine

/-! ### Entries stored by interval -/

section
variable {E : Type} {key : E → Word}

theorem find?_of_mem_nodup {l : List E} (hkeys : (l.map key).Nodup) {x : E} (hx : x ∈ l) : l.find? (fun e => key e == key x) = some x := by
  induction l with
  | nil => cases hx
  | cons y rest ih =>
    obtain ⟨hy, hrest⟩ := List.nodup_cons.mp hkeys
    rcases List.mem_cons.mp hx with rfl | hx
    · simp
    · have hne : key y ≠ key x := fun heq => hy (heq ▸ List.mem_map_of_mem hx)
      rw [List.find?_cons_of_neg (by simpa using hne)]
      exact ih hrest hx

/-- The entry of an interval after some were stored over others: a stored one, or else the one held before (R39, R42). -/
theorem find?_stored (old named : List E) (k : Word) :
    (old.filter (fun e => !named.any fun n => key n == key e) ++ named).find? (fun e => key e == k) =
      if named.any (fun n => key n == k) = true then named.find? (fun e => key e == k) else old.find? fun e => key e == k := by
  rw [List.find?_append]
  split
  next hnamed =>
    have hnone : (old.filter fun e => !named.any fun n => key n == key e).find? (fun e => key e == k) = none := by
      refine List.find?_eq_none.mpr fun e he => ?_
      have hother := (List.mem_filter.mp he).2
      rintro hk
      rw [beq_iff_eq.mp hk, hnamed] at hother
      cases hother
    rw [hnone, Option.none_or]
  next hother =>
    have hnone : named.find? (fun e => key e == k) = none := by
      simpa using hother
    have hold : (old.filter fun e => !named.any fun n => key n == key e).find? (fun e => key e == k) = old.find? fun e => key e == k := by
      rw [List.find?_filter]
      congr 1
      funext e
      by_cases hk : key e = k
      · simp [hk, hother]
      · simp [hk]
    rw [hnone, hold, Option.or_none]

end

/-! ### Values that follow a first interval -/

section
variable {α : Type}

theorem getElem?_fromInterval (first : Word) (l : List α) (i : Nat) :
    (fromInterval first l)[i]? = l[i]?.map fun a => (first + BitVec.ofNat 16 i, a) := by
  induction l generalizing first i with
  | nil => simp [fromInterval]
  | cons a rest ih =>
    cases i with
    | zero => simp [fromInterval]
    | succ i =>
      have hnext : first + 1 + BitVec.ofNat 16 i = first + BitVec.ofNat 16 (i + 1) := by
        rw [BitVec.ofNat_add]
        bv_omega
      simp only [fromInterval, List.getElem?_cons_succ, ih, hnext]

/-- The intervals of up to 8 values are distinct. -/
theorem nodup_fromInterval (first : Word) {l : List α} (h : l.length ≤ 8) : ((fromInterval first l).map (·.1)).Nodup := by
  have hkeys : (fromInterval first l).map (·.1) = (List.range l.length).map (atSlot first) := by
    refine List.ext_getElem? fun i => ?_
    rw [List.getElem?_map, getElem?_fromInterval, List.getElem?_map]
    by_cases hi : i < l.length
    · rw [List.getElem?_range hi, List.getElem?_eq_getElem hi]
      rfl
    · rw [List.getElem?_eq_none (not_lt.mp hi), List.getElem?_eq_none (by simpa using hi)]
      rfl
  rw [hkeys]
  refine List.Nodup.map_on (fun i hi j hj heq => ?_) List.nodup_range
  rw [← slotOf_atSlot first i (by have := List.mem_range.mp hi; omega), heq,
    slotOf_atSlot first j (by have := List.mem_range.mp hj; omega)]

/-- What is stored of the values named for horizon intervals. -/
def namedEntries {E : Type} (mk : Word → α → E) (cur first : Word) (l : List α) : List E :=
  ((fromInterval first l).filter fun kv => inHorizon cur kv.1).map fun kv => mk kv.1 kv.2

variable {E : Type} {key : E → Word} {mk : Word → α → E} (hkey : ∀ k a, key (mk k a) = k)
include hkey

theorem find?_named (cur first : Word) {l : List α} (hlength : l.length ≤ 8) {i : Nat} {a : α} (ha : l[i]? = some a)
    (hin : inHorizon cur (first + BitVec.ofNat 16 i) = true) :
    (namedEntries mk cur first l).find? (fun e => key e == first + BitVec.ofNat 16 i) = some (mk (first + BitVec.ofNat 16 i) a) := by
  have hmem : (first + BitVec.ofNat 16 i, a) ∈ fromInterval first l :=
    List.mem_iff_getElem?.mpr ⟨i, by rw [getElem?_fromInterval, ha]; rfl⟩
  have hnodup : ((namedEntries mk cur first l).map key).Nodup := by
    have hkeys : (namedEntries mk cur first l).map key = ((fromInterval first l).filter fun kv => inHorizon cur kv.1).map (·.1) := by
      simp [namedEntries, hkey, Function.comp_def]
    rw [hkeys]
    exact (nodup_fromInterval first hlength).sublist (List.filter_sublist.map _)
  have hstored : mk (first + BitVec.ofNat 16 i) a ∈ namedEntries mk cur first l :=
    List.mem_map.mpr ⟨_, List.mem_filter.mpr ⟨hmem, hin⟩, rfl⟩
  have hfound := find?_of_mem_nodup hnodup hstored
  rwa [hkey] at hfound

theorem not_named (cur first : Word) {l : List α} {k : Word} (h : ∀ i, i < l.length → k ≠ first + BitVec.ofNat 16 i) :
    (namedEntries mk cur first l).any (fun n => key n == k) = false := by
  refine List.any_eq_false.mpr fun e he => ?_
  obtain ⟨⟨j, a⟩, hmem, rfl⟩ := List.mem_map.mp he
  obtain ⟨i, hi⟩ := List.mem_iff_getElem?.mp (List.mem_filter.mp hmem).1
  rw [getElem?_fromInterval] at hi
  obtain ⟨b, hb, hpair⟩ := Option.map_eq_some_iff.mp hi
  obtain ⟨rfl, rfl⟩ := Prod.mk.inj hpair
  obtain ⟨hlt, -⟩ := List.getElem?_eq_some_iff.mp hb
  simpa [hkey] using (h i hlt).symm

/-- The stored entry of a horizon interval that is named, and the old one of an interval that is not. -/
theorem find?_storedNamed (old : List E) (cur first : Word) {l : List α} (hlength : l.length ≤ 8) :
    let stored := old.filter (fun e => !(namedEntries mk cur first l).any fun n => key n == key e) ++ namedEntries mk cur first l
    (∀ i a, l[i]? = some a → inHorizon cur (first + BitVec.ofNat 16 i) = true →
      stored.find? (fun e => key e == first + BitVec.ofNat 16 i) = some (mk (first + BitVec.ofNat 16 i) a)) ∧
    ∀ k, (∀ i, i < l.length → k ≠ first + BitVec.ofNat 16 i) →
      stored.find? (fun e => key e == k) = old.find? fun e => key e == k := by
  refine ⟨fun i a ha hin => ?_, fun k hk => ?_⟩
  · have hfound := find?_named hkey cur first hlength ha hin
    have hany : (namedEntries mk cur first l).any (fun n => key n == first + BitVec.ofNat 16 i) = true :=
      List.any_eq_true.mpr ⟨_, List.mem_of_find?_eq_some hfound, by simp [hkey]⟩
    rw [find?_stored, if_pos hany, hfound]
  · rw [find?_stored, if_neg (by simp [not_named hkey cur first hk])]

end

/-! ### SET_PRICE and SET_BASELINE taken -/

/-- What a computation that starts reads of a horizon interval is what was stored (R40). -/
theorem takenSetting_lookup {price : Bool} {effect : State → State} {s : State} {k : Word}
    (hclock : (effect s).clock = s.clock) (hk : inHorizon s.clock.current k = true) :
    baselineOf s.ctrl.config (takenSetting price effect s).pledge k = baselineOf s.ctrl.config (effect s).pledge k := by
  unfold takenSetting
  split
  · rw [← baselineOf_pruneEntries s.ctrl.config (effect s).pledge hk, ← hclock]
    rfl
  · rfl

/-- What a setting's computation leaves of the Pledge Engine, beside entries and computation. -/
theorem takenSetting_figures (price : Bool) (effect : State → State) (s : State) :
    let t := (takenSetting price effect s).pledge
    t.positioned = (effect s).pledge.positioned ∧ t.eHost = (effect s).pledge.eHost ∧ t.eFloor = (effect s).pledge.eFloor ∧
    t.eCeil = (effect s).pledge.eCeil ∧ t.acc = (effect s).pledge.acc ∧ t.refresh = (effect s).pledge.refresh ∧
    t.raiseBand = (effect s).pledge.raiseBand ∧ t.lowerBand = (effect s).pledge.lowerBand := by
  dsimp only
  unfold takenSetting
  split
  · exact ⟨rfl, rfl, rfl, rfl, rfl, rfl, rfl, rfl⟩
  · exact ⟨rfl, rfl, rfl, rfl, rfl, rfl, rfl, rfl⟩

/-- A computation writes the Pledge Engine alone. -/
theorem takenSetting_only (price : Bool) (effect : State → State) (s : State) :
    takenSetting price effect s = { effect s with pledge := (takenSetting price effect s).pledge } := by
  unfold takenSetting
  split <;> rfl

theorem storeBaseline_baselines (b : BaselineBody) (s : State) : (storeBaseline b s).pledge.baselines =
    (s.pledge.baselines.filter fun e => inHorizon s.clock.current e.interval).filter (fun e =>
      !(namedEntries (fun k (v : BitVec 32) => BaselineEntry.mk k (clampBaseline s.ctrl.config v.toInt)) s.clock.current b.first b.values).any
        fun n => n.interval == e.interval) ++
      namedEntries (fun k (v : BitVec 32) => BaselineEntry.mk k (clampBaseline s.ctrl.config v.toInt)) s.clock.current b.first b.values := rfl

theorem mem_storeBaseline {b : BaselineBody} {s : State} {e : BaselineEntry} (he : e ∈ (storeBaseline b s).pledge.baselines) :
    inHorizon s.clock.current e.interval = true := by
  rw [storeBaseline_baselines] at he
  rcases List.mem_append.mp he with hold | hnew
  · exact (List.mem_filter.mp (List.mem_filter.mp hold).1).2
  · obtain ⟨kv, hkv, rfl⟩ := List.mem_map.mp hnew
    exact (List.mem_filter.mp hkv).2

/-- What a taken setting leaves alone. -/
def SettingKept (s t : State) : Prop :=
  t.ctrl = s.ctrl ∧ t.clock = s.clock ∧ t.table = s.table ∧ t.line = s.line ∧ t.view = s.view ∧
  t.freq = s.freq ∧ t.act = s.act ∧ t.mon = s.mon ∧ t.host.log = s.host.log ∧ t.host.flags = s.host.flags ∧
  t.pledge.positioned = s.pledge.positioned ∧ t.pledge.eHost = s.pledge.eHost ∧
  t.pledge.eFloor = s.pledge.eFloor ∧ t.pledge.eCeil = s.pledge.eCeil ∧
  t.pledge.acc = s.pledge.acc ∧ t.pledge.refresh = s.pledge.refresh ∧ t.pending = s.pending

/-- A setting that writes the Pledge Engine alone, and there none of the energy figures. -/
theorem settingKept_taken (n : Nat) {price : Bool} {effect : State → State} {p : PledgeEngine} {s : State}
    (heffect : effect (clockOut n s) = (clockOut n s).setPledge p)
    (hfigures : p.positioned = s.pledge.positioned ∧ p.eHost = s.pledge.eHost ∧ p.eFloor = s.pledge.eFloor ∧
      p.eCeil = s.pledge.eCeil ∧ p.acc = s.pledge.acc ∧ p.refresh = s.pledge.refresh) :
    SettingKept s (holdAnswer (plain .done) (takenSetting price effect (clockOut n s))) := by
  obtain ⟨hpositioned, hhost, hfloor, hceil, hacc, hrefresh, -⟩ := takenSetting_figures price effect (clockOut n s)
  rw [heffect] at hpositioned hhost hfloor hceil hacc hrefresh
  rw [takenSetting_only, heffect]
  generalize (takenSetting price effect (clockOut n s)).pledge = q at *
  obtain ⟨hp1, hp2, hp3, hp4, hp5, hp6⟩ := hfigures
  refine ⟨by simp, by simp, by simp, by simp, by simp, by simp, by simp, by simp, by simp, by simp, hpositioned.trans hp1, hhost.trans hp2,
    hfloor.trans hp3, hceil.trans hp4, hacc.trans hp5, hrefresh.trans hp6, by simp⟩

/-- Settles O27: the bands of a price, and each baseline by whether its interval is named. -/
theorem priceAndBaselineStored : Obligations.PriceAndBaselineStored := by
  unfold Obligations.PriceAndBaselineStored
  intro n p b s hstays hcomp hheld
  have hfree := not_engineBusy hcomp hheld
  refine ⟨fun hraise hlower => ?_, fun hpos hle => ?_⟩
  · have hexec : exec (.setPrice ⟨n, some p⟩) s = .next (holdAnswer (plain .done) (takenSetting true (storePrice p) (clockOut n s))) :=
      congrArg _ (hostCommand_of_accepted (outOfRange := 15 < p.raiseBand.toNat ∨ 15 < p.lowerBand.toNat)
        (checksSetting_serveSetting true storePrice (by simp [priceInRange])) hstays hfree (by omega))
    obtain ⟨-, -, -, -, -, -, hraiseBand, hlowerBand⟩ := takenSetting_figures true (storePrice p) (clockOut n s)
    refine ⟨_, hexec, by simp, settingKept_taken n rfl ⟨rfl, rfl, rfl, rfl, rfl, rfl⟩, ?_, ?_, fun hjoined => ?_⟩
    · exact hraiseBand
    · exact hlowerBand
    · have hstarted := takenSetting_of_joined (s := clockOut n s) true (storePrice p) (by simpa using hjoined)
      rw [hstarted]
      exact (startComputation_marks false false true (storePrice p (clockOut n s))).2.2.2.1
  · have hexec : exec (.setBaseline ⟨n, some b⟩) s =
        .next (holdAnswer (plain .done) (takenSetting false (storeBaseline b) (clockOut n s))) :=
      congrArg _ (hostCommand_of_accepted (checksSetting_serveSetting false storeBaseline (countAllowed_iff _)) hstays hfree (by omega))
    obtain ⟨-, -, -, -, -, -, hraiseBand, hlowerBand⟩ := takenSetting_figures false (storeBaseline b) (clockOut n s)
    obtain ⟨hnamed, hother⟩ := find?_storedNamed (key := BaselineEntry.interval)
      (mk := fun k (v : BitVec 32) => BaselineEntry.mk k (clampBaseline s.ctrl.config v.toInt)) (fun _ _ => rfl)
      (s.pledge.baselines.filter fun e => inHorizon s.clock.current e.interval) s.clock.current b.first hle
    have hlookup {k : Word} (hk : inHorizon s.clock.current k = true) :
        baselineOf s.ctrl.config (takenSetting false (storeBaseline b) (clockOut n s)).pledge k =
          baselineOf s.ctrl.config (storeBaseline b s).pledge k :=
      takenSetting_lookup (s := clockOut n s) rfl hk
    refine ⟨_, hexec, by simp, settingKept_taken n rfl ⟨rfl, rfl, rfl, rfl, rfl, rfl⟩, ?_, ?_, fun i v hv hk => ?_, fun k hk hnot => ?_,
      fun e he => ?_⟩
    · exact hraiseBand
    · exact hlowerBand
    · refine (hlookup hk).trans ?_
      have hbounds : -(s.ctrl.config.chargeMax : Int) ≤ s.ctrl.config.dischargeMax := by omega
      obtain ⟨hlow, hhigh⟩ := clampInt_bounds v.toInt hbounds
      unfold baselineOf
      rw [storeBaseline_baselines, hnamed i v hv hk]
      exact clampInt_of_mem hlow hhigh
    · refine (hlookup hk).trans (Eq.trans ?_ (baselineOf_pruneEntries s.ctrl.config s.pledge hk))
      unfold baselineOf
      rw [storeBaseline_baselines, hother k hnot]
      rfl
    · refine mem_storeBaseline (b := b) ?_
      have he : e ∈ (takenSetting false (storeBaseline b) (clockOut n s)).pledge.baselines := he
      unfold takenSetting at he
      split at he
      · exact (List.mem_filter.mp he).1
      · exact he

end Sys2Proof.Machine

/-! PROOFS. The fresh pledge, the snapshot it is formed from, and the energy position (R36, R38, R40, R44 to R47, R49). -/

namespace Sys2Proof.Machine

/-! ### The fresh pledge by the rules -/

/-- The sum over the slots between the current one and slot `j`. -/
theorem sum_between (l : List Int) (j : Nat) : ((l.take j).drop 1).sum =
    (((List.range j).filter fun i => 1 ≤ i).map fun i => l.getD i 0).sum := by
  cases l with
  | nil => simp
  | cons x rest =>
    induction j with
    | zero => simp
    | succ j ih =>
      rw [List.range_succ, List.filter_append, List.map_append, List.sum_append, ← ih]
      cases j with
      | zero => simp
      | succ j =>
        rw [List.take_succ_cons, List.take_succ_cons, List.drop_succ_cons, List.drop_succ_cons, List.drop_zero, List.drop_zero,
          List.take_add_one, List.sum_append]
        cases hx : rest[j]? <;> simp [hx]

theorem projectedEnergy_eq (c : Computation) (j : Nat) : projectedEnergy c j = if j = 0 then 3600 * (c.estimate : Int)
    else 3600 * c.estimate - (c.baselines.getD 0 0 * c.remaining +
      300 * (((List.range j).filter fun i => 1 ≤ i).map fun i => c.baselines.getD i 0).sum) := by
  rw [← sum_between]
  rfl

/-- The raw pledge of what is offered: the lower of energy limit and headroom (R36, R46). -/
theorem rawPledge_eq (cfg : StationConfig) (p : PledgeEngine) (c : Computation) (j : Nat) (d : Direction) (isOpen : Bool) :
    rawPledge cfg p c j d isOpen =
      if flagFor (c.avails.getD j (true, true)) d = true ∧ ¬ (c.stale = true ∧ isOpen = true) ∧ (d = .raise → p.positioned = true) then
        min (energyLimit cfg p c j d) (ratingHeadroom cfg c j d)
      else 0 := by
  have hwithheld : withheld p d = true ↔ ¬ (d = .raise → p.positioned = true) := by simp [withheld]
  have htest : (flagFor (c.avails.getD j (true, true)) d = false ∨ (c.stale = true ∧ isOpen = true) ∨ withheld p d = true) ↔
      ¬ (flagFor (c.avails.getD j (true, true)) d = true ∧ ¬ (c.stale = true ∧ isOpen = true) ∧ (d = .raise → p.positioned = true)) := by
    rw [hwithheld, ← Bool.not_eq_true]
    tauto
  unfold rawPledge
  simp only [htest, ite_not]

theorem energyLimit_eq (cfg : StationConfig) (p : PledgeEngine) (c : Computation) (j : Nat) (d : Direction) :
    (energyLimit cfg p c j d : Int) = match d with
      | .raise => max 0 (projectedEnergy c j - 3600 * p.eFloor) / (60 * cfg.sustain)
      | .lower => max 0 (3600 * p.eCeil - projectedEnergy c j) / (60 * cfg.sustain) := by
  cases d <;> simp [energyLimit, max_comm]

theorem ratingHeadroom_eq (cfg : StationConfig) (c : Computation) (j : Nat) (d : Direction) :
    (ratingHeadroom cfg c j d : Int) = match d with
      | .raise => max 0 (cfg.dischargeMax - c.baselines.getD j 0)
      | .lower => max 0 (cfg.chargeMax + c.baselines.getD j 0) := by
  cases d <;> simp [ratingHeadroom, max_comm]

theorem freshPledge_eq_pledgeByRules (cfg : StationConfig) (p : PledgeEngine) (c : Computation) (j : Nat) (d : Direction) (isOpen : Bool) :
    freshPledge cfg p c j d isOpen = pledgeByRules cfg p c j d isOpen := by
  have havailable : flagFor (c.avails.getD j (true, true)) d = true ↔ ((c.avails[j]?).all fun f => match d with
      | .raise => f.1
      | .lower => f.2) = true := by
    rw [List.getD_eq_getElem?_getD]
    cases c.avails[j]? <;> cases d <;> simp [flagFor]
  have hraw : rawPledge cfg p c j d isOpen = _ := rawPledge_eq cfg p c j d isOpen
  have hmin : min (energyLimit cfg p c j d) (ratingHeadroom cfg c j d) =
      (min (energyLimit cfg p c j d : Int) (ratingHeadroom cfg c j d)).toNat := by omega
  rw [hmin, energyLimit_eq, ratingHeadroom_eq, projectedEnergy_eq] at hraw
  simp only [havailable] at hraw
  unfold freshPledge quantised
  rw [hraw]
  rfl

/-- Derate, quantum and minimum (R47). -/
theorem quantised_spec (cfg : StationConfig) (errors raw : Nat) : let x := quantised cfg errors raw
    x % 10 = 0 ∧ (x = 0 ∨ cfg.minPledge ≤ x) ∧ x * 16 ≤ raw * (16 - errors) ∧ (raw = 0 → x = 0) := by
  unfold quantised
  dsimp only
  split
  · simp
  · refine ⟨by omega, .inr (by omega), by omega, fun hzero => ?_⟩
    simp [hzero]

/-- What a fresh pledge keeps to (R36, R46, R47). -/
theorem freshPledge_bounds (cfg : StationConfig) (p : PledgeEngine) (c : Computation) (j : Nat) (d : Direction) (isOpen : Bool) :
    let x := freshPledge cfg p c j d isOpen
    x % 10 = 0 ∧ (x = 0 ∨ cfg.minPledge ≤ x) ∧ x * 16 ≤ ratingHeadroom cfg c j d * (16 - c.errors) ∧
    x * 16 ≤ energyLimit cfg p c j d * (16 - c.errors) ∧
    (flagFor (c.avails.getD j (true, true)) d = false → x = 0) ∧ (c.stale = true → isOpen = true → x = 0) ∧
    (d = .raise → p.positioned = false → x = 0) ∧
    (-(cfg.chargeMax : Int) ≤ c.baselines.getD j 0 → c.baselines.getD j 0 ≤ cfg.dischargeMax → x ≤ cfg.dischargeMax + cfg.chargeMax) := by
  obtain ⟨hquantum, hminimum, hderated, hzero⟩ := quantised_spec cfg c.errors (rawPledge cfg p c j d isOpen)
  have hraw := rawPledge_eq cfg p c j d isOpen
  have hle : rawPledge cfg p c j d isOpen ≤ energyLimit cfg p c j d ∧ rawPledge cfg p c j d isOpen ≤ ratingHeadroom cfg c j d := by
    rw [hraw]
    split
    · exact ⟨min_le_left _ _, min_le_right _ _⟩
    · exact ⟨Nat.zero_le _, Nat.zero_le _⟩
  have hheadroom := hderated.trans (Nat.mul_le_mul_right (16 - c.errors) hle.2)
  refine ⟨hquantum, hminimum, hheadroom, hderated.trans (Nat.mul_le_mul_right _ hle.1), fun hflag => hzero ?_, fun hstale hopen => hzero ?_,
    fun hraise hnone => hzero ?_, fun hlow hhigh => ?_⟩
  · rw [hraw, if_neg fun hoffered => absurd hoffered.1 (by rw [hflag]; decide)]
  · rw [hraw, if_neg (by simp [hstale, hopen])]
  · rw [hraw, if_neg (by simp [hraise, hnone])]
  · have hrating := ratingHeadroom_eq cfg c j d
    have hbound : ratingHeadroom cfg c j d ≤ cfg.dischargeMax + cfg.chargeMax := by
      cases d <;> simp only at hrating <;> omega
    have hshare : ratingHeadroom cfg c j d * (16 - c.errors) ≤ (cfg.dischargeMax + cfg.chargeMax) * 16 :=
      Nat.mul_le_mul hbound (Nat.sub_le _ _)
    exact Nat.le_of_mul_le_mul_right (hheadroom.trans hshare) (by decide)

/-! ### The snapshot -/

theorem mem_openRecs {table : List CRecord} {k : Word} {d : Direction} :
    (k, d) ∈ (table.filter fun r => r.state == .opened).map (fun r => (r.interval, r.dir)) ↔
      ∃ r ∈ table, r.interval = k ∧ r.dir = d ∧ r.state = .opened := by
  simp only [List.mem_map, List.mem_filter, beq_iff_eq, Prod.mk.injEq]
  constructor
  · rintro ⟨r, ⟨hr, hopen⟩, hk, hd⟩
    exact ⟨r, hr, hk, hd, hopen⟩
  · rintro ⟨r, hr, hk, hd, hopen⟩
    exact ⟨r, ⟨hr, hopen⟩, hk, hd⟩

theorem energyEstimate_eq (p : PledgeEngine) :
    (energyEstimate p : Int) = max 0 (min (p.eCeil : Int) ((p.eHost : Int) - Int.tdiv p.acc 3600)) := by
  unfold energyEstimate clampInt truncDiv
  exact Int.toNat_of_nonneg (le_max_left _ _)

/-! ### The energy position (R36) -/

section
variable (s : State)

@[simp] theorem positioned_startComputation (b r p : Bool) : (startComputation b r p s).pledge.positioned = s.pledge.positioned := rfl

@[simp] theorem positioned_triggerComputation (r : Bool) : (triggerComputation r s).pledge.positioned = s.pledge.positioned := by
  unfold triggerComputation
  split
  · split <;> rfl
  · rfl

@[simp] theorem positioned_enterListening : (enterListening s).pledge.positioned = s.pledge.positioned :=
  supplyWhenFiltered_keeps (P := fun t => t.pledge.positioned = s.pledge.positioned) (fun q _ _ h => by simpa using h) rfl

@[simp] theorem positioned_enterActive : (enterActive s).pledge.positioned = s.pledge.positioned := by
  unfold enterActive
  refine entryRequests_keeps (P := fun t => t.pledge.positioned = s.pledge.positioned) (fun q _ _ h => by simpa using h) (fun _ _ h => h) ?_
  split <;> simp

@[simp] theorem positioned_performBoundary : (performBoundary s).pledge.positioned = s.pledge.positioned := by
  simp [performBoundary, pruneEntries, keepLadders]

@[simp] theorem positioned_boundaryAtTable : (boundaryAtTable s).pledge.positioned = s.pledge.positioned := by
  unfold boundaryAtTable
  split
  · split <;> simp
  · rfl

@[simp] theorem positioned_issueBoundary : (issueBoundary s).pledge.positioned = s.pledge.positioned := by
  simp [issueBoundary_eq]

@[simp] theorem positioned_naturalBoundary : (naturalBoundary s).pledge.positioned = s.pledge.positioned := by
  unfold naturalBoundary
  split <;> simp

@[simp] theorem positioned_performMarkBoundary (m : ForwardMark) : (performMarkBoundary m s).pledge.positioned = s.pledge.positioned := by
  obtain ⟨clk, second, -, hperformed, -⟩ := performMarkBoundary_eq m s
  rw [hperformed]
  simp

@[simp] theorem positioned_performRebuild (k : Word) (n : Nat) : (performRebuild k n s).pledge.positioned = s.pledge.positioned := by
  unfold performRebuild
  dsimp only
  split <;> simp [rebuildHorizon, pruneEntries, keepLadders]

@[simp] theorem positioned_afterWrite : (afterWrite s).pledge.positioned = s.pledge.positioned := by
  unfold afterWrite
  dsimp only
  split
  · simp
  · split <;> simp

@[simp] theorem positioned_endComputation (c : Computation) : (endComputation c s).pledge.positioned = s.pledge.positioned := by
  obtain ⟨l, hl⟩ := formLadders_pledge (frozenPairs s c) (s.setTable (writtenTable s c))
  simp [endComputation, hl]

@[simp] theorem positioned_endJudgePeriod : (endJudgePeriod s).pledge.positioned = s.pledge.positioned := by
  have hgood (u : State) : (goodVerdict u).pledge.positioned = u.pledge.positioned := by
    unfold goodVerdict
    split
    · rfl
    · split <;> simp
  have hbad (u : State) : (badVerdict u).pledge.positioned = u.pledge.positioned := by
    unfold badVerdict
    dsimp only
    split <;> simp
  unfold endJudgePeriod
  dsimp only
  split
  · simp [hgood]
  · simp [hbad]

@[simp] theorem positioned_returnToUnjoined : (returnToUnjoined s).pledge.positioned = s.pledge.positioned := by
  simp [returnToUnjoined, PledgeEngine.idle]

@[simp] theorem positioned_endTransmission : (endTransmission s).pledge.positioned = s.pledge.positioned := by
  unfold endTransmission
  split
  · rfl
  · dsimp only
    split <;> simp

@[simp] theorem positioned_reachStaleLimit : (reachStaleLimit s).pledge.positioned = s.pledge.positioned := by
  unfold reachStaleLimit
  dsimp only
  split <;> simp

@[simp] theorem positioned_takenSetting (price : Bool) (effect : State → State) :
    (takenSetting price effect s).pledge.positioned = (effect s).pledge.positioned := (takenSetting_figures price effect s).1

end

/-- An energy position comes with SET_STATE and goes with a reset; nothing else writes it (R36, R38). -/
theorem positioned_effect {i : Instr} {s t : State} (heffect : Effect i s t) : t.pledge.positioned = s.pledge.positioned ∨
    (t.pledge.positioned = false ∧ (i = .powerOnReset ∨ ∃ x, i = .restart x)) ∨ ∃ x, i = .setState x := by
  cases heffect with
  | powerOn hi => exact .inr (.inl ⟨rfl, .inl hi⟩)
  | restart x hi => exact .inr (.inl ⟨rfl, .inr ⟨x, hi⟩⟩)
  | setState x hi => exact .inr (.inr ⟨x, hi⟩)
  | join =>
    exact .inl (joinStation_preserves (P := fun t => t.pledge.positioned = s.pledge.positioned) (fun _ h => by simpa using h)
      (positioned_enterListening _))
  | clearSuspend =>
    exact .inl (clearSuspension_preserves (P := fun t => t.pledge.positioned = s.pledge.positioned) (fun _ h => by simpa using h)
      (positioned_enterListening _))
  | setAvailability b => exact .inl (by simp [storeAvailability_pledge, storeAvails, pruneEntries])
  | setBaseline b => exact .inl (positioned_takenSetting s _ _)
  | setPrice b => exact .inl (positioned_takenSetting s _ _)
  | refresh => exact .inl (positioned_triggerComputation _ _)
  | endMeasurement => exact .inl rfl
  | _ => exact .inl (by simp)

theorem positioned_sameButAnswers {s u : State} (h : SameButAnswers s u) : u.pledge.positioned = s.pledge.positioned := by
  obtain ⟨sdo, held, rfl⟩ := h
  rfl

theorem positioned_takenState (b : StateBody) (s : State) : (takenState b s).pledge.positioned = true := by
  unfold takenState
  split <;> simp [storeState]

/-- A reset takes the energy position away, and SET_STATE answered DONE gives one. -/
theorem positioned_exec {i : Instr} {s t : State} (hexec : exec i s = .next t) :
    t.pledge.positioned = s.pledge.positioned ∨ (t.pledge.positioned = false ∧ (i = .powerOnReset ∨ ∃ x, i = .restart x)) ∨
      (t.pledge.positioned = true ∧ ∃ n a, i = .setState ⟨n, some a⟩ ∧ t.host.held = some (plain .done)) := by
  obtain ⟨u, v, hsu, huv, hvt⟩ := exec_served hexec
  obtain hsame | ⟨hfalse, hreset⟩ | ⟨⟨n, body⟩, rfl⟩ := positioned_effect huv
  · exact .inl (by rw [positioned_sameButAnswers hvt, hsame, positioned_sameButAnswers hsu])
  · exact .inr (.inl ⟨by rw [positioned_sameButAnswers hvt, hfalse], hreset⟩)
  · cases body with
    | none =>
      obtain rfl := Host.Outcome.next.inj hexec
      exact .inl rfl
    | some a =>
      obtain ⟨code, -, rfl⟩ | rfl := exec_setState_cases hexec
      · exact .inl rfl
      · exact .inr (.inr ⟨by simpa using positioned_takenState a _, n, a, rfl, by simp⟩)

/-- Settles O29: the rules against the model's terms, the bounds that follow, the snapshot's fields, and who writes the energy
position. -/
theorem freshPledgeForm : Obligations.FreshPledgeForm := by
  unfold Obligations.FreshPledgeForm
  refine ⟨fun cfg p c j d isOpen => ⟨freshPledge_eq_pledgeByRules cfg p c j d isOpen, freshPledge_bounds cfg p c j d isOpen⟩, energyEstimate_eq,
    fun b r p s => ⟨rfl, rfl, by simp [snapshot], by simp [snapshot], fun j hj => ?_, rfl, rfl, rfl, rfl, fun k d => mem_openRecs, rfl, rfl, rfl, rfl⟩,
    fun i s t hexec => ?_, fun n a s t hexec hdone => ?_⟩
  · simp [snapshot, hj, atSlot]
  · obtain hsame | ⟨hfalse, hreset⟩ | ⟨htrue, hstate⟩ := positioned_exec hexec
    · exact ⟨fun h => .inl (hsame ▸ h), fun h => .inl (hsame ▸ h)⟩
    · exact ⟨fun h => absurd (hfalse.symm.trans h) (by decide), fun _ => .inr hreset⟩
    · exact ⟨fun _ => .inr hstate, fun h => absurd (htrue.symm.trans h) (by decide)⟩
  · obtain ⟨code, hcode, rfl⟩ | rfl := exec_setState_cases hexec
    · exact absurd (by simpa [answeredOnly, plain] using hdone) hcode
    · simpa using positioned_takenState a _

end Sys2Proof.Machine


/-! PROOFS. The order of award contents, the sums of the merit takes, and the walks of an evaluation (R97, R105, R113 to
R117): facts of lists and numbers. -/

namespace Sys2Proof.Machine

/-! ### Conflicting contents -/

/-- The content of an award in the order of Table 6-4: quantity, band, zone mask, zone compare. -/
def Award.rankKey (a : Award) : ℕ ×ₗ ℕ ×ₗ ℕ ×ₗ ℕ := toLex (a.quantity, toLex (a.band, toLex (a.mask.toNat, a.compare.toNat)))

theorem greater_iff_rankKey (a b : Award) : a.greater b = true ↔ b.rankKey < a.rankKey := by
  have hmask : a.mask = b.mask ↔ a.mask.toNat = b.mask.toNat := BitVec.toNat_inj.symm
  simp only [Award.greater, Award.rankKey, Prod.Lex.toLex_lt_toLex]
  split
  · simp; omega
  · split
    · simp; omega
    · split <;> simp [hmask] at * <;> omega

theorem greater_iff (a b : Award) : a.greater b = true ↔ b.quantity < a.quantity ∨ (a.quantity = b.quantity ∧
    (b.band < a.band ∨ (a.band = b.band ∧
      (b.mask.toNat < a.mask.toNat ∨ (a.mask = b.mask ∧ b.compare.toNat < a.compare.toNat))))) := by
  have hmask : a.mask = b.mask ↔ a.mask.toNat = b.mask.toNat := BitVec.toNat_inj.symm
  rw [greater_iff_rankKey]
  simp only [Award.rankKey, Prod.Lex.toLex_lt_toLex, hmask]
  omega

theorem content_of_rankKey {a b : Award} (h : a.rankKey = b.rankKey) :
    (a.band, a.quantity, a.compare, a.mask) = (b.band, b.quantity, b.compare, b.mask) := by
  simp only [Award.rankKey, toLex_inj, Prod.mk.injEq, BitVec.toNat_inj] at h
  simp [h]

/-- Of two contents the greater, the held one where neither is greater (R97). -/
def keepGreater (h a : Award) : Award := if a.greater h then a else h

theorem rankKey_keepGreater (h a : Award) : (keepGreater h a).rankKey = max h.rankKey a.rankKey := by
  unfold keepGreater
  split
  next hgreater => exact (max_eq_right ((greater_iff_rankKey a h).mp hgreater).le).symm
  next hnot => exact (max_eq_left (not_lt.mp (mt (greater_iff_rankKey a h).mpr hnot))).symm

/-- Contents kept in turn end at one of them, and none of them is greater. -/
theorem foldl_keepGreater (h : Award) (xs : List Award) : xs.foldl keepGreater h ∈ h :: xs ∧
    ∀ x ∈ h :: xs, x.rankKey ≤ (xs.foldl keepGreater h).rankKey := by
  induction xs generalizing h with
  | nil => simp
  | cons x xs ih =>
    obtain ⟨hmem, hmax⟩ := ih (keepGreater h x)
    have hkept := hmax _ (List.mem_cons_self ..)
    rw [rankKey_keepGreater, max_le_iff] at hkept
    refine ⟨?_, fun y hy => ?_⟩
    · rw [List.foldl_cons]
      obtain heq | hin := List.mem_cons.mp hmem
      · rw [heq, keepGreater]
        split <;> simp
      · simp [hin]
    · obtain rfl | hy := List.mem_cons.mp hy
      · exact hkept.1
      · obtain rfl | hy := List.mem_cons.mp hy
        · exact hkept.2
        · exact hmax y (List.mem_cons_of_mem _ hy)

/-- Settles O35: the kept content is the greatest of them all in the order of Table 6-4. -/
theorem conflictOrderIndependent : Obligations.ConflictOrderIndependent := by
  refine ⟨greater_iff, fun h k xs ys hperm => ?_⟩
  obtain ⟨hxs, hxsMax⟩ := foldl_keepGreater h xs
  obtain ⟨hys, hysMax⟩ := foldl_keepGreater k ys
  exact content_of_rankKey (le_antisymm (hysMax _ (hperm.subset hxs)) (hxsMax _ (hperm.symm.subset hys)))

/-! ### The sums of the merit takes -/

/-- Shares of `amount` in proportion, each rounded down: together at most `amount`, and short by less than one for each. -/
theorem floors_sum (amount whole : Nat) (ps : List Nat) :
    whole * (ps.map fun p => p * amount / whole).sum ≤ ps.sum * amount ∧
    (0 < whole → ps.sum * amount ≤ whole * ((ps.map fun p => p * amount / whole).sum + ps.length)) := by
  induction ps with
  | nil => simp
  | cons p ps ih =>
    obtain ⟨hle, hge⟩ := ih
    have hdown := Nat.mul_div_le (p * amount) whole
    simp only [List.map_cons, List.sum_cons, List.length_cons]
    refine ⟨by nlinarith, fun hpos => ?_⟩
    have hup := Nat.lt_mul_div_succ (p * amount) hpos
    have := hge hpos
    nlinarith

theorem meritTake_below {p b clearing quantity : Nat} (below at' : Nat) (hb : b < clearing) (hq : 0 < quantity) :
    meritTake p b clearing quantity below at' = p := by
  unfold meritTake
  split_ifs <;> omega

theorem meritTake_above {p b clearing quantity : Nat} (below at' : Nat) (hb : clearing < b) :
    meritTake p b clearing quantity below at' = 0 := by
  unfold meritTake
  split_ifs <;> omega

theorem meritTake_at {p clearing quantity : Nat} (below at' : Nat) (hq : 0 < quantity) :
    meritTake p clearing clearing quantity below at' =
      if at' ≤ quantity - below then p else p * (quantity - below) / at' := by
  obtain rfl | hp := Nat.eq_zero_or_pos p
  · simp [meritTake]
  · simp [meritTake, hp.ne', hq.ne']

theorem meritTake_none (p b clearing below at' : Nat) : meritTake p b clearing 0 below at' = 0 := by simp [meritTake]

/-- The merit takes of a list of members are the quantities below the clearing band and the shares at it. -/
theorem meritTakes_sum (clearing quantity below at' : Nat) (hq : 0 < quantity) (ms : List Member) :
    (ms.map fun m => meritTake m.qty m.band clearing quantity below at').sum =
      ((ms.filter fun m => decide (m.band < clearing)).map (·.qty)).sum +
        (((ms.filter fun m => m.band == clearing).map (·.qty)).map fun p =>
          if at' ≤ quantity - below then p else p * (quantity - below) / at').sum := by
  induction ms with
  | nil => rfl
  | cons m ms ih =>
    rw [List.map_cons, List.sum_cons, ih]
    obtain hlt | heq | hgt := lt_trichotomy m.band clearing
    · simp [meritTake_below _ _ hlt hq, hlt, hlt.ne, Nat.add_assoc]
    · simp only [heq, meritTake_at _ _ hq]
      simp [heq]
      omega
    · simp [meritTake_above _ _ hgt, hgt.not_gt, hgt.ne']

/-- The own station as a member of its own cluster. -/
def OwnTerm.asMember (own : OwnTerm) : Member := ⟨0, own.band, own.qty, none⟩

theorem bandSum_own (inBand : Nat → Bool) (ms : List Member) (own : OwnTerm) :
    bandSum inBand ms (some own) = (((own.asMember :: ms).filter fun m => inBand m.band).map (·.qty)).sum := by
  unfold bandSum
  cases h : inBand own.band <;> simp [OwnTerm.asMember, h, Nat.add_comm]

/-- Settles O36: the takes below the clearing band are the quantities there, those at it proportional shares of the rest. -/
theorem meritTakesWithinQuantity : Obligations.MeritTakesWithinQuantity := by
  intro ms a own
  refine ⟨ownMerit_le ms a own, fun m _ => meritTake_le .., fun hbelow => ?_⟩
  have htotal : ownMerit ms a own + (ms.map (estimatedTake ms a (some own))).sum =
      ((own.asMember :: ms).map fun m => meritTake m.qty m.band a.band a.quantity (sumBelow a.band ms (some own))
        (sumAt a.band ms (some own))).sum := rfl
  have hcount : (((own.asMember :: ms).filter fun m => m.band == a.band).map (·.qty)).length ≤
      (ms.filter fun m => m.band == a.band).length + 1 := by
    rw [List.length_map, List.filter_cons]
    split <;> simp
  rw [htotal]
  obtain hzero | hpos := Nat.eq_zero_or_pos a.quantity
  · simp [hzero, meritTake_none]
  rw [meritTakes_sum _ _ _ _ hpos]
  have hsumBelow : (((own.asMember :: ms).filter fun m => decide (m.band < a.band)).map (·.qty)).sum = sumBelow a.band ms (some own) :=
    (bandSum_own (fun b => decide (b < a.band)) ms own).symm
  have hsumAt : (((own.asMember :: ms).filter fun m => m.band == a.band).map (·.qty)).sum = sumAt a.band ms (some own) :=
    (bandSum_own (fun b => b == a.band) ms own).symm
  rw [hsumBelow]
  generalize ((own.asMember :: ms).filter fun m => m.band == a.band).map (·.qty) = ps at hsumAt hcount ⊢
  by_cases hfits : sumAt a.band ms (some own) ≤ a.quantity - sumBelow a.band ms (some own)
  · simp only [hfits, if_true, List.map_id']
    omega
  · simp only [hfits, if_false]
    obtain ⟨hle, hge⟩ := floors_sum (a.quantity - sumBelow a.band ms (some own)) (sumAt a.band ms (some own)) ps
    rw [hsumAt] at hle hge
    have hwhole : 0 < sumAt a.band ms (some own) := by omega
    have hle := Nat.le_of_mul_le_mul_left hle hwhole
    have hge := Nat.le_of_mul_le_mul_left (hge hwhole) hwhole
    omega

end Sys2Proof.Machine


/-! PROOFS. The walks of an evaluation: what the stations ranked before the own one leave it (R113 to R117). -/

namespace Sys2Proof.Machine

/-- A test that fails once on a sorted list fails from there on, so that taking while it holds is filtering. -/
theorem takeWhile_eq_filter_of_sorted {α : Type} {le : α → α → Prop} {p : α → Bool} (hdown : ∀ a b, le a b → p b = true → p a = true)
    {xs : List α} (hsorted : xs.Pairwise le) : xs.takeWhile p = xs.filter p := by
  induction xs with
  | nil => rfl
  | cons x xs ih =>
    rw [List.pairwise_cons] at hsorted
    obtain ⟨hx, hxs⟩ := hsorted
    rw [List.takeWhile_cons, List.filter_cons, ih hxs]
    split
    · rfl
    next hfails => exact (List.filter_eq_nil_iff.mpr fun y hy hp => hfails (hdown x y (hx y hy) hp)).symm

theorem insertRanked_eq (le : Ranked → Ranked → Bool) (x : Ranked) (xs : List Ranked) :
    insertRanked le x xs = xs.takeWhile (fun y => !le x y) ++ x :: xs.dropWhile fun y => !le x y := by
  induction xs with
  | nil => rfl
  | cons y ys ih =>
    unfold insertRanked
    cases h : le x y <;> simp [h, ih]

/-- A comparison that ranks: of two stations one goes first, and so on along a chain. -/
structure Ranks (le : Ranked → Ranked → Bool) : Prop where
  total : ∀ x y, le x y = true ∨ le y x = true
  trans : ∀ x y z, le x y = true → le y z = true → le x z = true

theorem ranks_before : Ranks Ranked.before where
  total x y := by simp [Ranked.before]; omega
  trans x y z := by simp [Ranked.before]; omega

theorem Ranks.flip {le : Ranked → Ranked → Bool} (h : Ranks le) : Ranks fun x y => le y x where
  total x y := (h.total x y).symm
  trans x y z hxy hyz := h.trans z y x hyz hxy

theorem insertRanked_sorted {le : Ranked → Ranked → Bool} (hle : Ranks le) (x : Ranked) {xs : List Ranked}
    (h : xs.Pairwise fun a b => le a b = true) : (insertRanked le x xs).Pairwise fun a b => le a b = true := by
  induction xs with
  | nil => simp [insertRanked]
  | cons y ys ih =>
    obtain ⟨hy, hys⟩ := List.pairwise_cons.mp h
    unfold insertRanked
    split
    next hxy =>
      refine List.pairwise_cons.mpr ⟨fun z hz => ?_, h⟩
      obtain rfl | hz := List.mem_cons.mp hz
      · exact hxy
      · exact hle.trans x y z hxy (hy z hz)
    next hxy =>
      refine List.pairwise_cons.mpr ⟨fun z hz => ?_, ih hys⟩
      rw [insertRanked_eq] at hz
      have hz : z = x ∨ z ∈ ys := by
        obtain hz | hz := List.mem_append.mp hz
        · exact .inr ((List.takeWhile_sublist _).subset hz)
        · obtain rfl | hz := List.mem_cons.mp hz
          · exact .inl rfl
          · exact .inr ((List.dropWhile_sublist _).subset hz)
      obtain rfl | hz := hz
      · exact (hle.total y z).resolve_right hxy
      · exact hy z hz

theorem rank_sorted {le : Ranked → Ranked → Bool} (hle : Ranks le) (xs : List Ranked) :
    (rank le xs).Pairwise fun a b => le a b = true := by
  induction xs with
  | nil => exact .nil
  | cons x xs ih => exact insertRanked_sorted hle x ih

/-- Each station before the own one takes its amount first. -/
theorem ownAssigned_append (n : Nat) (own : Ranked) (hown : own.own = true) (pre post : List Ranked) (hpre : ∀ y ∈ pre, y.own = false) :
    ownAssigned n (pre ++ own :: post) = min own.amount (n - (pre.map (·.amount)).sum) := by
  induction pre generalizing n with
  | nil => simp [ownAssigned, hown]
  | cons y ys ih =>
    rw [List.cons_append, ownAssigned, hpre y (List.mem_cons_self ..), if_neg (by decide),
      ih _ fun z hz => hpre z (List.mem_cons_of_mem _ hz), List.map_cons, List.sum_cons]
    omega

/-- What a walk assigns the own station: what all stations that go strictly before it leave. -/
theorem ownAssigned_rank {le : Ranked → Ranked → Bool} (hle : Ranks le) (n : Nat) (own : Ranked) (hown : own.own = true) (others : List Ranked)
    (hothers : ∀ y ∈ others, y.own = false) : ownAssigned n (rank le (own :: others)) =
      min own.amount (n - ((others.filter fun y => !le own y).map (·.amount)).sum) := by
  have hperm := rank_perm le others
  have htake : (rank le others).takeWhile (fun y => !le own y) = (rank le others).filter fun y => !le own y := by
    refine takeWhile_eq_filter_of_sorted (fun a b hab hb => ?_) (rank_sorted hle others)
    have hb : le own b = false := by simpa using hb
    have ha : le own a ≠ true := fun ha => by simpa [hb] using hle.trans own a b ha hab
    simpa using ha
  change ownAssigned n (insertRanked le own (rank le others)) = _
  rw [insertRanked_eq, htake, ownAssigned_append n own hown _ _ fun y hy => hothers y (hperm.subset (List.mem_of_mem_filter hy)),
    ((hperm.filter _).map _).sum_eq]

/-- The stations that a test on band and id selects of the members, each with the same amount. -/
theorem sum_filter_members {ms : List Member} (amount : Member → Nat) {p : Ranked → Bool} {q : Member → Bool}
    (hpq : ∀ m ∈ ms, p ⟨m.band, m.id, amount m, false⟩ = q m) :
    (((ms.map fun m => (⟨m.band, m.id, amount m, false⟩ : Ranked)).filter p).map (·.amount)).sum = ((ms.filter q).map amount).sum := by
  rw [List.filter_map, List.map_map, List.filter_congr (p := p ∘ _) (q := q) fun m hm => hpq m hm]
  rfl

theorem raisingWalk (id : Nat) (ms : List Member) (a : Award) (own : OwnTerm) (take n : Nat) :
    ownAssigned n (rank Ranked.before (raiseStations id ms a own take)) = min (own.qty - take)
      (n - ((ms.filter fun m => m.band < own.band || (m.band == own.band && m.id < id)).map fun m =>
        m.qty - usedTake ms a (some own) m).sum) := by
  rw [raiseStations, ownAssigned_rank ranks_before _ _ rfl _ (by simp)]
  rw [sum_filter_members (fun m => m.qty - usedTake ms a (some own) m)
    (q := fun m => m.band < own.band || (m.band == own.band && m.id < id)) fun m _ => ?_]
  rw [Bool.eq_iff_iff]
  simp [Ranked.before]
  omega

theorem loweringWalk {id : Nat} {ms : List Member} (a : Award) (own : OwnTerm) (take n : Nat) (hids : ∀ m ∈ ms, m.id ≠ id) :
    ownAssigned n (rank (fun x y => y.before x) (lowerStations id ms a own take)) = min take
      (n - ((ms.filter fun m => !(m.band < own.band || (m.band == own.band && m.id < id))).map
        (usedTake ms a (some own))).sum) := by
  rw [lowerStations, ownAssigned_rank ranks_before.flip _ _ rfl _ (by simp)]
  rw [sum_filter_members (usedTake ms a (some own))
    (q := fun m => !(m.band < own.band || (m.band == own.band && m.id < id))) fun m hm => ?_]
  have := hids m hm
  rw [Bool.eq_iff_iff]
  simp [Ranked.before]
  omega

/-- Settles O37: the walks are `raisingWalk` and `loweringWalk`, the used takes those of Table 7-1. -/
theorem evaluationByRank : Obligations.EvaluationByRank := by
  intro id overCover ms a own take htake hids
  refine ⟨fun m _ => ⟨fun h hheard hissue => by simp [usedTake, hheard, hissue], fun hother => ?_⟩, fun hlow hhigh => ?_, fun hshort => ?_,
    fun hover => ?_, evaluatedTake_le id overCover ms a own take htake⟩
  · unfold usedTake
    split
    next h hheard => exact if_neg (hother h hheard)
    next => rfl
  · exact (if_neg (not_lt.mpr hlow)).trans (if_neg (not_lt.mpr hhigh))
  · exact (if_pos hshort).trans (congrArg (take + ·) (raisingWalk ..))
  · have hlong : ¬ coverOf ms a own take + 20 < a.quantity := by
      simp only [coverOf]
      omega
    exact ((if_neg hlong).trans (if_pos hover)).trans (congrArg (take - ·) (loweringWalk a own take _ hids))

end Sys2Proof.Machine


/-! PROOFS. TAKE and PLEDGE inserts (R71, R109): what they leave of the entries in the queue, whatever the queue holds. -/

namespace Sys2Proof.Machine

section
variable {cur : Word} {key : NoticeKey} {w : Option WithdrawContent} {q : List QEntry}

/-- The entry's sends are set afresh, or its renewal where it is in flight. -/
def QEntry.Afresh (n : Nat) (e : QEntry) : Prop := if e.inFlight = true then e.renewal = .plain else e.sends = n

theorem afresh_of_redrawn {n : Nat} {x y : QEntry} (h : Redrawn x y) (hx : x.Afresh n) : y.Afresh n := by
  rw [h]
  exact hx

/-- The queue is full and no PLEDGE entry in it waits, so that no TAKE or PLEDGE can be added. -/
def ShutQueue (q : List QEntry) : Prop := 12 ≤ q.length ∧ ∀ e ∈ q, e.key = .pledge → e.inFlight = true

theorem victim_of_groupB {v : NoticeKey} (hB : key.groupA = false) (hv : victim key q = some v) :
    v = .pledge ∧ key ≠ .pledge := by
  cases key with
  | pledge => cases hv
  | take k d =>
    obtain ⟨e, he, rfl⟩ := Option.map_eq_some_iff.mp hv
    exact ⟨by simpa using List.find?_some he, nofun⟩
  | award k d | withdraw => cases hB

theorem victim_take_none {k : Word} {d : Direction} (hv : victim (.take k d) q = none) : ∀ e ∈ q, e.key = .pledge → e.inFlight = true := by
  intro e he hkey
  have hnone := List.find?_eq_none.mp (Option.map_eq_none_iff.mp hv) e
  by_contra hfree
  exact hnone (List.mem_filter.mpr ⟨he, by simpa [hkey, NoticeKey.groupA] using hfree⟩) (by simp [hkey])

/-- The queue after an insert of a TAKE or PLEDGE: entries of its key are rewritten where it is held, and else it joins the
queue, which loses at most PLEDGE entries, or it is dropped. -/
theorem insertQueue_groupB (cur : Word) (w : Option WithdrawContent) (hB : key.groupA = false) (q : List QEntry) :
    ((∃ e ∈ q, e.key = key) ∧ ∃ f : QEntry → QEntry, (∀ e, (f e).key = e.key ∧ (f e).inFlight = e.inFlight) ∧
      (insertQueue cur key w q).1 = q.map fun e => if e.key = key then f e else e) ∨
    ((∀ e ∈ q, e.key ≠ key) ∧ q.length < 12 ∧ (insertQueue cur key w q).1 = appendGroup (newEntry key w) q) ∨
    ((∀ e ∈ q, e.key ≠ key) ∧ 12 ≤ q.length ∧ key ≠ .pledge ∧ (∃ e ∈ q, e.key = .pledge ∧ e.inFlight = false) ∧
      insertQueue cur key w q = (appendGroup (newEntry key w) (q.filter fun e => e.key != .pledge), true)) ∨
    ((∀ e ∈ q, e.key ≠ key) ∧ 12 ≤ q.length ∧ victim key q = none ∧ insertQueue cur key w q = (q, true)) := by
  cases hfind : q.find? fun e => e.key == key with
  | some e =>
    refine .inl ⟨⟨e, List.mem_of_find?_eq_some hfind, by simpa using List.find?_some hfind⟩, ?_⟩
    cases hflight : e.inFlight with
    | true =>
      exact ⟨(·.renew cur w), fun e => by simp only [renew_eq, and_self], by rw [insertQueue_of_flight hfind hflight]⟩
    | false => exact ⟨(·.coalesce cur w), fun e => ⟨rfl, rfl⟩, by rw [insertQueue_of_waiting hfind hflight]⟩
  | none =>
    right
    have habsent : ∀ e ∈ q, e.key ≠ key := by simpa using List.find?_eq_none.mp hfind
    obtain hroom | hfull := Nat.lt_or_ge q.length 12
    · exact .inl ⟨habsent, hroom, by rw [insertQueue_of_room hfind hroom]⟩
    · right
      cases hv : victim key q with
      | none => exact .inr ⟨habsent, hfull, rfl, insertQueue_of_no_victim hfind hfull hv⟩
      | some v =>
        obtain ⟨rfl, hkey⟩ := victim_of_groupB hB hv
        obtain ⟨e, he, hekey, hfree, -⟩ := victim_free hv
        refine .inl ⟨habsent, hfull, hkey, ⟨e, he, hekey, hfree⟩, ?_⟩
        unfold insertQueue
        rw [hfind]
        dsimp only
        rw [if_neg (by simpa [Config.queueLimit] using hfull), hv]

theorem mem_appendGroup_iff {x e : QEntry} : x ∈ appendGroup e q ↔ x = e ∨ x ∈ q := by
  rw [(appendGroup_perm e q).mem_iff, List.mem_cons]

/-- An insert of a TAKE or PLEDGE adds no entry of another key. -/
theorem of_mem_insertQueue (hB : key.groupA = false) {e : QEntry} (he : e ∈ (insertQueue cur key w q).1) (hne : e.key ≠ key) : e ∈ q := by
  obtain ⟨-, f, hf, heq⟩ | ⟨-, -, heq⟩ | ⟨-, -, -, -, heq⟩ | ⟨-, -, -, heq⟩ := insertQueue_groupB cur w hB q <;> rw [heq] at he
  · obtain ⟨x, hx, rfl⟩ := List.mem_map.mp he
    split at hne
    next hkey => exact absurd ((hf x).1.trans hkey) hne
    next hkey => rwa [if_neg hkey]
  · exact (mem_appendGroup_iff.mp he).resolve_left fun h => hne (by rw [h]; rfl)
  · exact List.mem_of_mem_filter ((mem_appendGroup_iff.mp he).resolve_left fun h => hne (by rw [h]; rfl))
  · exact he

/-- An insert of a TAKE or PLEDGE leaves an entry of another key, but for a PLEDGE entry evicted. -/
theorem mem_insertQueue (hB : key.groupA = false) {e : QEntry} (he : e ∈ q) (hne : e.key ≠ key) :
    e ∈ (insertQueue cur key w q).1 ∨ (e.key = .pledge ∧ (insertQueue cur key w q).2 = true) := by
  obtain ⟨-, f, hf, heq⟩ | ⟨-, -, heq⟩ | ⟨-, -, -, -, heq⟩ | ⟨-, -, -, heq⟩ := insertQueue_groupB cur w hB q <;> rw [heq]
  · exact .inl (List.mem_map.mpr ⟨e, he, if_neg hne⟩)
  · exact .inl (mem_appendGroup_iff.mpr (.inr he))
  · by_cases hpledge : e.key = .pledge
    · exact .inr ⟨hpledge, rfl⟩
    · exact .inl (mem_appendGroup_iff.mpr (.inr (List.mem_filter.mpr ⟨he, by simpa using hpledge⟩)))
  · exact .inl he

theorem shutQueue_insertQueue (hB : key.groupA = false) (h : ShutQueue q) : ShutQueue (insertQueue cur key w q).1 := by
  obtain ⟨-, f, hf, heq⟩ | ⟨-, hroom, -⟩ | ⟨-, -, -, ⟨e, he, hkey, hfree⟩, -⟩ | ⟨-, -, -, heq⟩ := insertQueue_groupB cur w hB q
  · rw [heq]
    refine ⟨by simpa using h.1, fun e he hkey => ?_⟩
    obtain ⟨x, hx, rfl⟩ := List.mem_map.mp he
    split at hkey
    next hx' => rw [if_pos hx', (hf x).2]; exact h.2 x hx ((hf x).1 ▸ hkey)
    next hx' => rw [if_neg hx']; exact h.2 x hx hkey
  · exact absurd h.1 (by omega)
  · exact absurd (h.2 e he hkey) (by simp [hfree])
  · rw [heq]
    exact h

theorem shutQueue_redrawn {q' : List QEntry} (h : List.Forall₂ Redrawn q q') (hq : ShutQueue q) : ShutQueue q' := by
  refine ⟨h.length_eq ▸ hq.1, fun y hy hkey => ?_⟩
  obtain ⟨x, hx, hxy⟩ := of_mem_redrawn h hy
  rw [hxy] at hkey ⊢
  exact hq.2 x hx hkey

/-- An insert leaves an entry of its own key afresh, or the insert is dropped at a queue that is shut, or a PLEDGE's at a full
one. -/
theorem mem_insertQueue_self (cur : Word) (hB : key.groupA = false) (q : List QEntry) :
    (∃ e ∈ (insertQueue cur key none q).1, e.key = key ∧ e.Afresh (initialSends key none)) ∨
    ((insertQueue cur key none q).2 = true ∧ (key ≠ .pledge → ShutQueue (insertQueue cur key none q).1)) := by
  cases hfind : q.find? fun e => e.key == key with
  | some e =>
    left
    cases hflight : e.inFlight with
    | true =>
      obtain ⟨hkey, hmem⟩ := mem_insertQueue_of_flight (w := none) (cur := cur) hfind hflight
      exact ⟨_, hmem, hkey, by simp [QEntry.Afresh, QEntry.renew, hflight]⟩
    | false =>
      obtain ⟨hkey, hmem⟩ := mem_insertQueue_of_waiting (w := none) (cur := cur) hfind hflight
      refine ⟨_, hmem, hkey, ?_⟩
      have hcontent (c : Option WithdrawContent) : initialSends key c = initialSends key none := by
        cases key with
        | take k d => rfl
        | pledge => rfl
        | award k d | withdraw => cases hB
      simp [QEntry.Afresh, QEntry.coalesce, hflight, hkey, hcontent]
  | none =>
    obtain ⟨⟨e, he, hkey⟩, -⟩ | ⟨-, -, heq⟩ | ⟨-, -, -, -, heq⟩ | ⟨-, hfull, hv, heq⟩ := insertQueue_groupB cur none hB q
    · exact absurd hkey (by simpa using List.find?_eq_none.mp hfind e he)
    · rw [heq]
      exact .inl ⟨_, mem_appendGroup _ _, rfl, rfl⟩
    · rw [heq]
      exact .inl ⟨_, mem_appendGroup _ _, rfl, rfl⟩
    · rw [heq]
      refine .inr ⟨rfl, fun hkey => ⟨hfull, ?_⟩⟩
      cases key with
      | take k d => exact victim_take_none hv
      | pledge => exact absurd rfl hkey
      | award k d | withdraw => cases hB

end

end Sys2Proof.Machine


/-! PROOFS. The Allocation Unit's own work (R106, R109, R110, R117 to R119): what every piece of it keeps, and what it makes of
the record of one interval and direction. -/

namespace Sys2Proof.Machine

/-! ### Entries held in the queue -/

/-- A TAKE entry for (k, d) stands afresh; or the insert was dropped, at a queue that stays shut. -/
def TakeHeld (k : Word) (d : Direction) (t : State) : Prop :=
  (ShutQueue t.line.queue ∧ flagSet .queueDrop t = true) ∨ ∃ e ∈ t.line.queue, e.key = .take k d ∧ e.Afresh 2

/-- A PLEDGE entry stands afresh, or QUEUE_DROP tells that it was dropped or evicted. -/
def PledgeHeld (t : State) : Prop :=
  flagSet .queueDrop t = true ∨ ∃ e ∈ t.line.queue, e.key = .pledge ∧ e.Afresh 1

/-- Every entry of a key stood in the queue before, but for its draw. -/
def EntriesFrom (key : NoticeKey) (s t : State) : Prop :=
  ∀ e ∈ t.line.queue, e.key = key → ∃ x ∈ s.line.queue, Redrawn x e

theorem entriesFrom_of_queue {s t : State} (h : t.line.queue = s.line.queue) (key : NoticeKey) : EntriesFrom key s t :=
  fun e he _ => ⟨e, h ▸ he, redrawn_refl e⟩

theorem EntriesFrom.trans {key : NoticeKey} {s t u : State} (h : EntriesFrom key s t) (h' : EntriesFrom key t u) :
    EntriesFrom key s u := by
  intro e he hkey
  obtain ⟨x, hx, hxe⟩ := h' e he hkey
  obtain ⟨y, hy, hyx⟩ := h x hx (by rw [hxe] at hkey; exact hkey)
  refine ⟨y, hy, ?_⟩
  rw [hyx] at hxe
  exact hxe

theorem takeHeld_enqueue (k : Word) (d : Direction) (s : State) : TakeHeld k d (enqueue (.take k d) none s) := by
  obtain ⟨e, he, hkey, hfresh⟩ | ⟨hdrop, hshut⟩ := mem_insertQueue_self s.clock.current (key := .take k d) rfl s.line.queue
  · obtain ⟨y, hy, hey⟩ := mem_enqueue he
    exact .inr ⟨y, hy, by rw [hey]; exact hkey, afresh_of_redrawn hey hfresh⟩
  · refine .inl ⟨?_, queueDrop_enqueue hdrop⟩
    rw [enqueue_line]
    exact shutQueue_redrawn (redrawn_settleHead _ _) (hshut nofun)

theorem pledgeHeld_enqueue (s : State) : PledgeHeld (enqueue .pledge none s) := by
  obtain ⟨e, he, hkey, hfresh⟩ | ⟨hdrop, -⟩ := mem_insertQueue_self s.clock.current (key := .pledge) rfl s.line.queue
  · obtain ⟨y, hy, hey⟩ := mem_enqueue he
    exact .inr ⟨y, hy, by rw [hey]; exact hkey, afresh_of_redrawn hey hfresh⟩
  · exact .inl (queueDrop_enqueue hdrop)

theorem TakeHeld.enqueue {k : Word} {d : Direction} {key : NoticeKey} {s : State} (hB : key.groupA = false)
    (h : TakeHeld k d s) : TakeHeld k d (enqueue key none s) := by
  by_cases hself : key = .take k d
  · rw [hself]
    exact takeHeld_enqueue k d s
  · obtain ⟨hshut, hdrop⟩ | ⟨e, he, hkey, hfresh⟩ := h
    · refine .inl ⟨?_, flagsKept_enqueue _ _ _ _ hdrop⟩
      rw [enqueue_line]
      exact shutQueue_redrawn (redrawn_settleHead _ _) (shutQueue_insertQueue hB hshut)
    · obtain hmem | ⟨hpledge, -⟩ := mem_insertQueue (cur := s.clock.current) (w := none) hB he (by rw [hkey]; exact Ne.symm hself)
      · obtain ⟨y, hy, hey⟩ := mem_enqueue hmem
        exact .inr ⟨y, hy, by rw [hey]; exact hkey, afresh_of_redrawn hey hfresh⟩
      · rw [hkey] at hpledge
        cases hpledge

theorem PledgeHeld.enqueueTake {k : Word} {d : Direction} {s : State} (h : PledgeHeld s) :
    PledgeHeld (Machine.enqueue (.take k d) none s) := by
  obtain hdrop | ⟨e, he, hkey, hfresh⟩ := h
  · exact .inl (flagsKept_enqueue _ _ _ _ hdrop)
  · obtain hmem | ⟨-, hdrop⟩ := mem_insertQueue (cur := s.clock.current) (w := none) (key := .take k d) rfl he (by rw [hkey]; nofun)
    · obtain ⟨y, hy, hey⟩ := mem_enqueue hmem
      exact .inr ⟨y, hy, by rw [hey]; exact hkey, afresh_of_redrawn hey hfresh⟩
    · exact .inl (queueDrop_enqueue hdrop)

theorem entriesFrom_enqueue {key key' : NoticeKey} (hB : key.groupA = false) (hne : key' ≠ key) (w : Option WithdrawContent) (s : State) :
    EntriesFrom key' s (enqueue key w s) := by
  intro e he hkey
  obtain ⟨x, hx, hxe⟩ := of_mem_enqueue he
  exact ⟨x, of_mem_insertQueue hB hx (by rw [hxe] at hkey; exact hkey ▸ hne), hxe⟩

theorem enqueue_rx (key : NoticeKey) (w : Option WithdrawContent) (s : State) : (enqueue key w s).line.rx = s.line.rx := by
  have hbegin (l : LineInterface) : (beginRun l).rx = l.rx := by
    unfold beginRun
    split <;> rfl
  rw [enqueue_line]
  unfold settleHead
  split
  · split
    · rfl
    · exact hbegin _
  · split
    · rfl
    · split
      · rfl
      · exact hbegin _
  · rfl
  · rfl

/-! ### What the Allocation Unit's work keeps -/

/-- What stands through the Allocation Unit's own work: every other block, what is `fixed` of the records, a raised event, and
the entries held in the queue. -/
structure Allocates (s t : State) : Prop where
  ctrl : t.ctrl = s.ctrl
  clock : t.clock = s.clock
  pledge : t.pledge = s.pledge
  view : t.view = s.view
  freq : t.freq = s.freq
  due : t.entryTakesDue = s.entryTakesDue
  pending : t.pending = s.pending
  log : t.host.log = s.host.log
  rx : t.line.rx = s.line.rx
  fixed : fixedTable t.table = fixedTable s.table
  flags : FlagsKept s t
  takes : ∀ k d, TakeHeld k d s → TakeHeld k d t
  pledges : PledgeHeld s → PledgeHeld t
  entries : EntriesFrom .pledge s t

theorem Allocates.refl (s : State) : Allocates s s :=
  ⟨rfl, rfl, rfl, rfl, rfl, rfl, rfl, rfl, rfl, rfl, fun _ => id, fun _ _ => id, id, entriesFrom_of_queue rfl _⟩

theorem Allocates.trans {s t u : State} (h : Allocates s t) (h' : Allocates t u) : Allocates s u where
  ctrl := h'.ctrl.trans h.ctrl
  clock := h'.clock.trans h.clock
  pledge := h'.pledge.trans h.pledge
  view := h'.view.trans h.view
  freq := h'.freq.trans h.freq
  due := h'.due.trans h.due
  pending := h'.pending.trans h.pending
  log := h'.log.trans h.log
  rx := h'.rx.trans h.rx
  fixed := h'.fixed.trans h.fixed
  flags := h.flags.trans h'.flags
  takes k d hk := h'.takes k d (h.takes k d hk)
  pledges hs := h'.pledges (h.pledges hs)
  entries := h.entries.trans h'.entries

/-- Work that leaves the line. -/
theorem Allocates.of_line {s t : State} (hline : t.line = s.line) (hflags : FlagsKept s t) (hfixed : fixedTable t.table = fixedTable s.table)
    (hctrl : t.ctrl = s.ctrl) (hclock : t.clock = s.clock) (hpledge : t.pledge = s.pledge) (hview : t.view = s.view)
    (hfreq : t.freq = s.freq) (hdue : t.entryTakesDue = s.entryTakesDue) (hpending : t.pending = s.pending)
    (hlog : t.host.log = s.host.log) : Allocates s t where
  ctrl := hctrl
  clock := hclock
  pledge := hpledge
  view := hview
  freq := hfreq
  due := hdue
  pending := hpending
  log := hlog
  rx := by rw [hline]
  fixed := hfixed
  flags := hflags
  takes k d h := by
    unfold TakeHeld at h ⊢
    rw [hline]
    exact h.imp_left fun h => ⟨h.1, hflags _ h.2⟩
  pledges h := by
    unfold PledgeHeld at h ⊢
    rw [hline]
    exact h.imp_left (hflags _)
  entries := entriesFrom_of_queue (by rw [hline]) _

theorem allocates_enqueueTake (k : Word) (d : Direction) (s : State) : Allocates s (enqueue (.take k d) none s) where
  ctrl := by simp
  clock := by simp
  pledge := by simp
  view := by simp
  freq := by simp
  due := by simp
  pending := by simp
  log := by simp
  rx := enqueue_rx ..
  fixed := by simp
  flags := flagsKept_enqueue _ _ _
  takes _ _ h := h.enqueue rfl
  pledges h := h.enqueueTake
  entries := entriesFrom_enqueue rfl (fun h => by cases h) _ s

theorem flagsKept_noteTakeChange (k : Word) (d : Direction) (running : Bool) (s : State) : FlagsKept s (noteTakeChange k d running s) := by
  unfold noteTakeChange
  generalize hu : s.updRec k d _ = u
  have hraise : FlagsKept s (raiseEvent .take u) :=
    (flagsKept_of_host (by rw [← hu]; rfl)).trans (flagsKept_raiseEvent _ _)
  dsimp only
  split
  · exact hraise.trans (flagsKept_of_host (by simp))
  · exact hraise

theorem allocates_noteTakeChange (k : Word) (d : Direction) (running : Bool) (s : State) : Allocates s (noteTakeChange k d running s) :=
  .of_line (by simp) (flagsKept_noteTakeChange _ _ _ _) (by simp) (by simp) (by simp) (by simp) (by simp) (by simp) (by simp) (by simp)
    (by unfold noteTakeChange; dsimp only; split <;> simp [State.updRec])

/-- A rewrite of records that leaves what is fixed. -/
theorem allocates_updRec (k : Word) (d : Direction) {f : CRecord → CRecord} (hf : ∀ r, (f r).fixed = r.fixed) (s : State) :
    Allocates s (s.updRec k d f) :=
  .of_line rfl (fun _ => id) (updRec_fixed s k d f hf) rfl rfl rfl rfl rfl rfl rfl rfl

/-! ### The record of one interval and direction -/

/-- A take that the TAKE test sends: above 0, or not the last one sent (R109). -/
def TakeWanted (r : CRecord) (x : Nat) : Prop := 0 < x ∨ x ≠ r.lastSent.getD 0

/-- What becomes of the record of (k, d): `u` from `r`, a change of its take with TAKE raised, and the TAKE test made for
`tests`. -/
structure PairMade (k : Word) (d : Direction) (r u : CRecord) (tests : List Nat) (s t : State) : Prop where
  before : findRec s.table k d = some r
  after : findRec t.table k d = some u
  lastSent : u.lastSent = r.lastSent
  raised : u.take ≠ r.take → flagSet .take t = true
  queued : ∀ x ∈ tests, TakeWanted r x → TakeHeld k d t
  entries : (∀ x ∈ tests, ¬ TakeWanted r x) → EntriesFrom (.take k d) s t

theorem PairMade.refl {k : Word} {d : Direction} {r : CRecord} {s : State} (h : findRec s.table k d = some r) :
    PairMade k d r r [] s s :=
  ⟨h, h, rfl, fun h => absurd rfl h, nofun, fun _ => entriesFrom_of_queue rfl _⟩

theorem PairMade.trans {k : Word} {d : Direction} {r u v : CRecord} {xs ys : List Nat} {s t w : State}
    (h : PairMade k d r u xs s t) (h' : PairMade k d u v ys t w) (hlater : Allocates t w) : PairMade k d r v (xs ++ ys) s w where
  before := h.before
  after := h'.after
  lastSent := h'.lastSent.trans h.lastSent
  raised hne := by
    by_cases hfirst : u.take = r.take
    · exact h'.raised (hfirst ▸ hne)
    · exact hlater.flags _ (h.raised hfirst)
  queued x hx hwanted := by
    obtain hx | hx := List.mem_append.mp hx
    · exact hlater.takes k d (h.queued x hx hwanted)
    · exact h'.queued x hx (by unfold TakeWanted at hwanted ⊢; rw [h.lastSent]; exact hwanted)
  entries hnone := (h.entries fun x hx => hnone x (List.mem_append_left _ hx)).trans
    (h'.entries fun x hx => by
      unfold TakeWanted
      rw [h.lastSent]
      exact hnone x (List.mem_append_right _ hx))

/-- The TAKE test of a record's takes in the statements' words. -/
theorem PairMade.tested {k : Word} {d : Direction} {r u : CRecord} {xs ys : List Nat} {s t : State} (h : PairMade k d r u xs s t)
    (hsame : ∀ x, x ∈ ys ↔ x ∈ xs) : TakeTested ys r s t := by
  obtain ⟨-, hk, hd⟩ := findRec_some h.before
  refine ⟨fun ⟨x, hx, hwanted⟩ => ?_, fun hnone e he hkey => ?_⟩
  · rw [TakeQueued, hk, hd]
    obtain ⟨hshut, hdrop⟩ | hentry := h.queued x ((hsame x).mp hx) hwanted
    · exact .inl ⟨hshut.1, hdrop⟩
    · exact .inr hentry
  · rw [hk, hd] at hkey
    exact h.entries (fun x hx => hnone x ((hsame x).mpr hx)) e he hkey

/-- The work at (k, d) leaves the records of the other pairs, and the entries for them. -/
structure Aside (k : Word) (d : Direction) (s t : State) : Prop where
  records : ∀ k' d', (k', d') ≠ (k, d) → findRec t.table k' d' = findRec s.table k' d'
  entries : ∀ k' d', (k', d') ≠ (k, d) → EntriesFrom (.take k' d') s t

theorem Aside.refl (k : Word) (d : Direction) (s : State) : Aside k d s s :=
  ⟨fun _ _ _ => rfl, fun _ _ _ => entriesFrom_of_queue rfl _⟩

theorem Aside.trans {k : Word} {d : Direction} {s t u : State} (h : Aside k d s t) (h' : Aside k d t u) : Aside k d s u :=
  ⟨fun k' d' hne => (h'.records k' d' hne).trans (h.records k' d' hne), fun k' d' hne => (h.entries k' d' hne).trans (h'.entries k' d' hne)⟩

theorem Aside.pair {k k' : Word} {d d' : Direction} {r : CRecord} {s t : State} (h : Aside k d s t) (hne : (k', d') ≠ (k, d))
    (hr : findRec s.table k' d' = some r) : PairMade k' d' r r [] s t :=
  ⟨hr, (h.records k' d' hne).trans hr, rfl, fun h => absurd rfl h, nofun, fun _ => h.entries k' d' hne⟩

/-- The Allocation Unit's work at the record of (k, d). -/
structure AllocatesAt (k : Word) (d : Direction) (r u : CRecord) (tests : List Nat) (s t : State) : Prop where
  all : Allocates s t
  pair : PairMade k d r u tests s t
  aside : Aside k d s t

theorem AllocatesAt.refl {k : Word} {d : Direction} {r : CRecord} {s : State} (h : findRec s.table k d = some r) :
    AllocatesAt k d r r [] s s := ⟨.refl s, .refl h, .refl k d s⟩

theorem AllocatesAt.trans {k : Word} {d : Direction} {r u v : CRecord} {xs ys : List Nat} {s t w : State}
    (h : AllocatesAt k d r u xs s t) (h' : AllocatesAt k d u v ys t w) : AllocatesAt k d r v (xs ++ ys) s w :=
  ⟨h.all.trans h'.all, h.pair.trans h'.pair h'.all, h.aside.trans h'.aside⟩

/-! ### Elementary changes -/

section
variable {k : Word} {d : Direction} {r : CRecord} {s : State}

theorem findRec_updRec {f : CRecord → CRecord} (hf : ∀ r, (f r).interval = r.interval ∧ (f r).dir = r.dir) (hr : findRec s.table k d = some r) :
    findRec (s.updRec k d f).table k d = some (f r) := by
  change findRec (mapRec k d f s.table) k d = _
  rw [findRec_mapRec_self k d f s.table hf, hr]
  rfl

theorem findRec_updRec_of_ne {k' : Word} {d' : Direction} {f : CRecord → CRecord} (hf : ∀ r, (f r).interval = r.interval ∧ (f r).dir = r.dir)
    (hne : (k', d') ≠ (k, d)) : findRec (s.updRec k d f).table k' d' = findRec s.table k' d' :=
  findRec_mapRec_of_ne k k' d d' f s.table hf hne

theorem fixed_key {f : CRecord → CRecord} (hf : ∀ r, (f r).fixed = r.fixed) (r : CRecord) :
    (f r).interval = r.interval ∧ (f r).dir = r.dir :=
  ⟨(congrArg CRecord.interval (hf r) : (f r).fixed.interval = r.fixed.interval),
    (congrArg CRecord.dir (hf r) : (f r).fixed.dir = r.fixed.dir)⟩

theorem allocatesAt_updRec {f : CRecord → CRecord} (hf : ∀ r, (f r).fixed = r.fixed) (hr : findRec s.table k d = some r)
    (hlast : (f r).lastSent = r.lastSent) (htake : (f r).take = r.take) : AllocatesAt k d r (f r) [] s (s.updRec k d f) where
  all := allocates_updRec k d hf s
  pair := ⟨hr, findRec_updRec (fixed_key hf) hr, hlast, fun h => absurd htake h, nofun, fun _ => entriesFrom_of_queue rfl _⟩
  aside := ⟨fun _ _ hne => findRec_updRec_of_ne (fixed_key hf) hne, fun _ _ _ => entriesFrom_of_queue rfl _⟩

theorem allocatesAt_setEvalPending (b : Bool) (hr : findRec s.table k d = some r) :
    AllocatesAt k d r { r with evalPending := b } [] s (setEvalPending k d b s) :=
  allocatesAt_updRec (f := fun r => { r with evalPending := b }) (fun _ => rfl) hr rfl rfl

/-- A record whose hold has been started (R120). -/
def CRecord.held (c : StationConfig) (r : CRecord) : CRecord := { r with hold := some (holdMs c) }

theorem noteTakeChange_table (running : Bool) :
    (noteTakeChange k d running s).table = (s.updRec k d (CRecord.held s.ctrl.config)).table := by
  unfold noteTakeChange
  dsimp only
  split <;> simp only [recompute_frame, raiseEvent_frame] <;> rfl

theorem flagSet_noteTakeChange (running : Bool) : flagSet .take (noteTakeChange k d running s) = true := by
  unfold noteTakeChange
  dsimp only
  split
  · exact flagSet_recompute (flagSet_raiseEvent ..)
  · exact flagSet_raiseEvent ..

/-- The take written with another value (R110, R120). -/
theorem changeTake_of_ne {x : Nat} (hr : findRec s.table k d = some r) (hx : r.take ≠ x) :
    changeTake k d x s = noteTakeChange k d (r.state == .running) (s.updRec k d fun r => r.withTake x) := by
  unfold changeTake
  rw [hr]
  exact if_neg hx

theorem changeTake_of_eq (hr : findRec s.table k d = some r) : changeTake k d r.take s = s := by
  unfold changeTake
  rw [hr]
  exact if_pos rfl

theorem allocatesAt_changeTake (x : Nat) (hr : findRec s.table k d = some r) :
    AllocatesAt k d r (takeChanged s.ctrl.config x r) [] s (changeTake k d x s) := by
  by_cases hx : x = r.take
  · rw [hx, changeTake_of_eq hr, takeChanged, if_pos rfl]
    exact .refl hr
  · have hfound : findRec (changeTake k d x s).table k d = some (takeChanged s.ctrl.config x r) := by
      rw [changeTake_of_ne hr (Ne.symm hx), noteTakeChange_table, findRec_updRec (f := CRecord.held _) (fun _ => ⟨rfl, rfl⟩)
        (findRec_updRec (f := fun r => r.withTake x) (fun _ => ⟨rfl, rfl⟩) hr), takeChanged, if_neg hx]
      rfl
    refine ⟨?_, ⟨hr, hfound, ?_, fun _ => ?_, nofun, fun _ => entriesFrom_of_queue (by simp) _⟩,
      ⟨fun k' d' hne => ?_, fun _ _ _ => entriesFrom_of_queue (by simp) _⟩⟩
    · rw [changeTake_of_ne hr (Ne.symm hx)]
      exact (allocates_updRec k d (withTake_fixed · x) s).trans (allocates_noteTakeChange ..)
    · rw [takeChanged, if_neg hx]
    · rw [changeTake_of_ne hr (Ne.symm hx)]
      exact flagSet_noteTakeChange _
    · rw [changeTake_of_ne hr (Ne.symm hx), noteTakeChange_table, findRec_updRec_of_ne (f := CRecord.held _) (fun _ => ⟨rfl, rfl⟩) hne,
        findRec_updRec_of_ne (f := fun r => r.withTake x) (fun _ => ⟨rfl, rfl⟩) hne]

theorem aside_enqueueTake (k : Word) (d : Direction) (s : State) : Aside k d s (enqueue (.take k d) none s) where
  records _ _ _ := by simp
  entries k' d' hne := entriesFrom_enqueue rfl (by simpa using hne) _ s

/-- A TAKE entry is inserted for a record. -/
theorem allocatesAt_enqueue (hr : findRec s.table k d = some r) {x : Nat} (hx : TakeWanted r x) :
    AllocatesAt k d r r [x] s (enqueue (.take k d) none s) where
  all := allocates_enqueueTake k d s
  pair := ⟨hr, by simpa using hr, rfl, fun h => absurd rfl h, fun _ _ _ => takeHeld_enqueue k d s,
    fun hnone => absurd hx (hnone x (List.mem_singleton_self x))⟩
  aside := aside_enqueueTake k d s

theorem allocatesAt_takeTest (hr : findRec s.table k d = some r) : AllocatesAt k d r r [r.take] s (takeTest k d s) := by
  unfold takeTest
  rw [hr]
  dsimp only
  split
  next hwanted => exact allocatesAt_enqueue hr hwanted
  next hnot =>
    refine ⟨.refl s, ⟨hr, hr, rfl, fun h => absurd rfl h, fun x hx hwanted => ?_, fun _ => entriesFrom_of_queue rfl _⟩, .refl k d s⟩
    rw [List.mem_singleton.mp hx] at hwanted
    exact absurd hwanted hnot

theorem takeChanged_take (c : StationConfig) (x : Nat) (r : CRecord) : (takeChanged c x r).take = x := by
  unfold takeChanged
  split
  next h => exact h.symm
  next => rfl

/-! ### Evaluations, triggers and merit takes -/

/-- The take that a TAKE test is made for after an evaluation: none where it stands. -/
def changeTest (r u : CRecord) : List Nat := if u.take = r.take then [] else [u.take]

theorem membersFor_eq (view : List Peer) (k : Word) (d : Direction) (a : Award) :
    membersFor view k d a = membersOf view k d a.compare a.mask := by
  unfold membersFor membersOf
  refine List.filterMap_congr fun p _ => ?_
  unfold Peer.asMember zoneMatch
  cases d <;> simp [SlotEntry.band, SlotEntry.qty]

theorem awardMembers_eq {k : Word} {d : Direction} {r : CRecord} (hr : findRec s.table k d = some r) (a : Award) :
    awardMembers s r a = membersFor s.view k d a := by
  obtain ⟨-, hk, hd⟩ := findRec_some hr
  rw [awardMembers, hk, hd, membersFor_eq]

/-- An evaluation in ACTIVE of a record that holds an award; one that changes nothing leaves the state. -/
theorem evaluate_spec {a : Award} (hr : findRec s.table k d = some r) (ha : r.award = some a) (hactive : isActive s = true) :
    let u := evaluatedRecord s.ctrl.config (membersFor s.view k d a) a r
    AllocatesAt k d r u (changeTest r u) s (evaluate k d s) ∧ (u.take = r.take → evaluate k d s = s) := by
  intro u
  have htake : u.take = evaluatedTake s.ctrl.config.stationId s.ctrl.config.overCover (membersFor s.view k d a) a r.ownTerm r.take :=
    takeChanged_take ..
  have heval : evaluate k d s = if u.take = r.take then s else takeTest k d (changeTake k d u.take s) := by
    unfold evaluate
    simp only [hr, ha, hactive, if_true, awardMembers_eq hr, ← htake]
  have hu : takeChanged s.ctrl.config u.take r = u := by rw [htake]; rfl
  by_cases hsame : u.take = r.take
  · have hur : u = r := by rw [← hu, takeChanged, if_pos hsame]
    rw [heval, if_pos hsame, changeTest, if_pos hsame, hur]
    exact ⟨.refl hr, fun _ => rfl⟩
  · rw [heval, if_neg hsame, changeTest, if_neg hsame]
    have hchange := allocatesAt_changeTake u.take hr
    rw [hu] at hchange
    exact ⟨hchange.trans (allocatesAt_takeTest hchange.pair.after), fun h => absurd h hsame⟩

/-- With no award held, or outside ACTIVE, an evaluation does nothing. -/
theorem evaluate_of_not (hr : findRec s.table k d = some r) (hnot : isActive s = false ∨ r.award = none) : evaluate k d s = s := by
  unfold evaluate
  rw [hr]
  dsimp only
  split
  next a ha =>
    obtain hactive | hnone := hnot
    · simp [hactive]
    · cases hnone.symm.trans ha
  next => rfl

/-- What stands where no take changes. -/
structure Calm (s t : State) : Prop where
  line : t.line = s.line
  host : t.host = s.host
  act : t.act = s.act
  mon : t.mon = s.mon

theorem Calm.refl (s : State) : Calm s s := ⟨rfl, rfl, rfl, rfl⟩

theorem Calm.trans {s t u : State} (h : Calm s t) (h' : Calm t u) : Calm s u :=
  ⟨h'.line.trans h.line, h'.host.trans h.host, h'.act.trans h.act, h'.mon.trans h.mon⟩

theorem triggerEvaluation_spec {a : Award} (hr : findRec s.table k d = some r) (ha : r.award = some a) (hactive : isActive s = true) :
    let u := triggeredRecord s.ctrl.config (membersFor s.view k d a) a (busy s) r
    AllocatesAt k d r u (changeTest r u) s (triggerEvaluation s (k, d)) ∧
      (u.take = r.take → Calm s (triggerEvaluation s (k, d))) := by
  intro u
  have htrigger : triggerEvaluation s (k, d) =
      if r.hold.isSome = true ∨ busy s = true then setEvalPending k d true s else evaluate k d s := by
    unfold triggerEvaluation
    rw [hr]
    exact if_pos ⟨hactive, by rw [ha]; rfl⟩
  have hu : u = if r.hold.isSome = true ∨ busy s = true then { r with evalPending := true } else
      evaluatedRecord s.ctrl.config (membersFor s.view k d a) a r := rfl
  rw [htrigger, hu]
  split
  · rw [changeTest, if_pos rfl]
    exact ⟨allocatesAt_setEvalPending true hr, fun _ => ⟨rfl, rfl, rfl, rfl⟩⟩
  · obtain ⟨hat, hsame⟩ := evaluate_spec hr ha hactive
    exact ⟨hat, fun h => by rw [hsame h]; exact .refl s⟩

theorem triggerEvaluation_of_not (hr : findRec s.table k d = some r) (hnot : isActive s = false ∨ r.award = none) :
    triggerEvaluation s (k, d) = s := by
  unfold triggerEvaluation
  rw [hr]
  refine if_neg fun ⟨hactive, haward⟩ => ?_
  obtain h | h := hnot
  · rw [h] at hactive; cases hactive
  · rw [h] at haward; cases haward

theorem writeMerit_spec {a : Award} (hr : findRec s.table k d = some r) (ha : r.award = some a) :
    let merit := meritOf (membersFor s.view k d a) a r
    AllocatesAt k d r (takeChanged s.ctrl.config merit r) [merit] s (writeMerit k d s) := by
  intro merit
  have hwrite : writeMerit k d s = takeTest k d (changeTake k d merit s) := by
    unfold writeMerit
    simp only [hr, ha, awardMembers_eq hr]
    rfl
  have hchange := allocatesAt_changeTake merit hr
  have htest := allocatesAt_takeTest hchange.pair.after
  rw [takeChanged_take] at htest
  rw [hwrite]
  exact hchange.trans htest

theorem takeChanged_award (c : StationConfig) (x : Nat) (r : CRecord) : (takeChanged c x r).award = r.award := by
  unfold takeChanged
  split <;> rfl

/-- A merit take in ACTIVE and the trigger that follows (R106, R118). -/
theorem meritAndTrigger_spec {a : Award} (hr : findRec s.table k d = some r) (ha : r.award = some a) (hactive : isActive s = true)
    (hfree : busy s = false) :
    let ms := membersFor s.view k d a
    let u := allocatedRecord s.ctrl.config ms a r
    AllocatesAt k d r u (meritOf ms a r :: changeTest (takeChanged s.ctrl.config (meritOf ms a r) r) u) s (meritAndTrigger s (k, d)) := by
  intro ms u
  have hmerit := writeMerit_spec hr ha
  have hactive' : isActive (writeMerit k d s) = true := by simpa [isActive] using hactive
  obtain ⟨htrigger, -⟩ := triggerEvaluation_spec hmerit.pair.after ((takeChanged_award ..).trans ha) hactive'
  have hbusy : busy (writeMerit k d s) = false := by simpa [busy] using hfree
  rw [hbusy, hmerit.all.view, hmerit.all.ctrl] at htrigger
  rw [meritAndTrigger, if_pos hactive]
  exact hmerit.trans htrigger

end

end Sys2Proof.Machine


/-! PROOFS. View change reports (R83, R118, R119), the ageing of peers (R84, R85), and the hold's expiry (R119, R120). -/

namespace Sys2Proof.Machine

/-! ### One report -/

section
variable {k : Word} {d : Direction} {r : CRecord} {s : State}

@[simp] theorem reportedRecord_unnamed (s : State) (view : List Peer) (r : CRecord) : reportedRecord s view false r = r := by
  unfold reportedRecord
  split
  · exact if_neg fun h => absurd h.1 (by decide)
  · rfl

theorem isActive_iff (s : State) : isActive s = true ↔ s.ctrl.station = .active := by simp [isActive]

theorem reportedRecord_of_award {a : Award} (view : List Peer) (ha : r.award = some a) (hactive : s.ctrl.station = .active) :
    reportedRecord s view true r = triggeredRecord s.ctrl.config (membersFor view r.interval r.dir a) a s.pledge.comp.isSome r := by
  unfold reportedRecord
  rw [ha]
  exact if_pos ⟨rfl, hactive⟩

theorem reportedRecord_of_not (view : List Peer) (named : Bool) (hnot : s.ctrl.station ≠ .active ∨ r.award = none) :
    reportedRecord s view named r = r := by
  unfold reportedRecord
  split
  next a ha => exact if_neg fun h => hnot.elim (fun h' => h' h.2) fun h' => by cases h'.symm.trans ha
  next => rfl

/-- A trigger at a record in the statements' words. -/
theorem triggerEvaluation_reported (hr : findRec s.table k d = some r) :
    let u := reportedRecord s s.view true r
    AllocatesAt k d r u (changeTest r u) s (triggerEvaluation s (k, d)) ∧ (u.take = r.take → Calm s (triggerEvaluation s (k, d))) := by
  intro u
  by_cases hnot : s.ctrl.station ≠ .active ∨ r.award = none
  · have hu : u = r := reportedRecord_of_not _ _ hnot
    rw [triggerEvaluation_of_not hr (hnot.imp_left fun h => by simpa [isActive] using h), hu, changeTest, if_pos rfl]
    exact ⟨.refl hr, fun _ => .refl s⟩
  · simp only [not_or, not_not] at hnot
    obtain ⟨hactive, haward⟩ := hnot
    obtain ⟨a, ha⟩ := Option.ne_none_iff_exists'.mp haward
    obtain ⟨-, hk, hd⟩ := findRec_some hr
    have hu : u = triggeredRecord s.ctrl.config (membersFor s.view k d a) a (busy s) r := by
      rw [← hk, ← hd]
      exact reportedRecord_of_award s.view ha hactive
    rw [hu]
    exact triggerEvaluation_spec hr ha ((isActive_iff s).mpr hactive)

theorem triggerEvaluation_of_absent (h : findRec s.table k d = none) : triggerEvaluation s (k, d) = s := by
  unfold triggerEvaluation
  rw [h]

theorem reportedRecord_congr {s t : State} (hctrl : t.ctrl = s.ctrl) (hpledge : t.pledge = s.pledge) (view : List Peer) (named : Bool)
    (r : CRecord) : reportedRecord t view named r = reportedRecord s view named r := by
  unfold reportedRecord
  rw [hctrl, hpledge]

end

/-- What a report makes of the records: each named one takes its trigger, every other stands, and where no take changes so do
line, events, setpoint and monitor. -/
structure ReportMade (pairs : Report) (s t : State) : Prop where
  all : Allocates s t
  records : ∀ k d r, findRec s.table k d = some r →
    let u := reportedRecord s s.view (decide ((k, d) ∈ pairs)) r
    PairMade k d r u (changeTest r u) s t
  calm : (∀ k d r, findRec s.table k d = some r → (reportedRecord s s.view (decide ((k, d) ∈ pairs)) r).take = r.take) → Calm s t

theorem ReportMade.nil (s : State) : ReportMade [] s s where
  all := .refl s
  records k d r hr := by
    simp only [List.not_mem_nil, decide_false, reportedRecord_unnamed, changeTest, if_true]
    exact .refl hr
  calm _ := .refl s

theorem actOnReport_made {pairs : Report} (hnodup : pairs.Nodup) (s : State) : ReportMade pairs s (actOnReport pairs s) := by
  induction pairs generalizing s with
  | nil => exact .nil s
  | cons kd pairs ih =>
    obtain ⟨hfresh, hrest⟩ := List.nodup_cons.mp hnodup
    obtain ⟨k₀, d₀⟩ := kd
    change ReportMade _ s (actOnReport pairs (triggerEvaluation s (k₀, d₀)))
    cases hr₀ : findRec s.table k₀ d₀ with
    | none =>
      rw [triggerEvaluation_of_absent hr₀]
      obtain ⟨hall, hrecords, hcalm⟩ := ih hrest s
      have hnamed {k : Word} {d : Direction} {r : CRecord} (hr : findRec s.table k d = some r) :
          decide ((k, d) ∈ (k₀, d₀) :: pairs) = decide ((k, d) ∈ pairs) := by
        have hne : (k, d) ≠ (k₀, d₀) := by
          rintro ⟨⟩
          cases hr.symm.trans hr₀
        simp [hne]
      refine ⟨hall, fun k d r hr => ?_, fun hsame => hcalm fun k d r hr => ?_⟩
      · rw [hnamed hr]
        exact hrecords k d r hr
      · rw [← hnamed hr]
        exact hsame k d r hr
    | some r₀ =>
      obtain ⟨hat, hstill⟩ := triggerEvaluation_reported hr₀
      generalize triggerEvaluation s (k₀, d₀) = t at hat hstill
      obtain ⟨hall, hrecords, hcalm⟩ := ih hrest t
      have hreported (named : Bool) (r : CRecord) : reportedRecord t t.view named r = reportedRecord s s.view named r := by
        rw [hat.all.view, reportedRecord_congr hat.all.ctrl hat.all.pledge]
      have hmember {k : Word} {d : Direction} (hne : (k, d) ≠ (k₀, d₀)) :
          decide ((k, d) ∈ (k₀, d₀) :: pairs) = decide ((k, d) ∈ pairs) := by simp [hne]
      refine ⟨hat.all.trans hall, fun k d r hr => ?_, fun hsame => ?_⟩
      · by_cases hhere : (k, d) = (k₀, d₀)
        · obtain ⟨rfl, rfl⟩ := Prod.mk.inj hhere
          obtain rfl : r = r₀ := Option.some.inj (hr.symm.trans hr₀)
          have hnamed : decide ((k, d) ∈ (k, d) :: pairs) = true := by simp
          have hlater := hrecords k d _ hat.pair.after
          simp only [hfresh, decide_false, reportedRecord_unnamed, changeTest, if_true] at hlater
          rw [hnamed]
          simpa [changeTest] using hat.pair.trans hlater hall
        · have hlater := hrecords k d r ((hat.aside.records k d hhere).trans hr)
          rw [hreported, ← hmember hhere] at hlater
          exact (hat.aside.pair hhere hr).trans hlater hall
      · have hfirst : (reportedRecord s s.view true r₀).take = r₀.take := by simpa using hsame k₀ d₀ r₀ hr₀
        refine (hstill hfirst).trans (hcalm fun k d r hr => ?_)
        rw [hreported]
        by_cases hhere : (k, d) = (k₀, d₀)
        · obtain ⟨rfl, rfl⟩ := Prod.mk.inj hhere
          simp [hfresh]
        · rw [← hmember hhere]
          exact hsame k d r ((hat.aside.records k d hhere).symm.trans hr)

theorem mem_reportWhere {cur : Word} {named : Word → Direction → Bool} {k : Word} {d : Direction} :
    (k, d) ∈ reportWhere cur named ↔ inHorizon cur k = true ∧ named k d = true := by
  rw [reportWhere, List.mem_filter, mem_horizonPairs]

theorem reportWhere_nodup (cur : Word) (named : Word → Direction → Bool) : (reportWhere cur named).Nodup :=
  (horizonPairs_nodup cur).filter _

/-! ### Two reports -/

theorem evaluatedRecord_hold {c : StationConfig} {ms : List Member} {a : Award} {r : CRecord}
    (h : (evaluatedRecord c ms a r).take ≠ r.take) : (evaluatedRecord c ms a r).hold = some (2000 + c.stationId % 16 * 250) := by
  unfold evaluatedRecord takeChanged at h ⊢
  split
  next hsame => rw [if_pos hsame] at h; exact absurd rfl h
  next => rfl

/-- A take that a report changes starts the hold, and with the hold running no report changes a take. -/
theorem reportedRecord_hold {s : State} {view : List Peer} {named : Bool} {r : CRecord}
    (h : (reportedRecord s view named r).take ≠ r.take) : (reportedRecord s view named r).hold.isSome = true := by
  unfold reportedRecord triggeredRecord at h ⊢
  split
  next a ha =>
    rw [ha] at h
    dsimp only at h
    split
    next hnamed =>
      rw [if_pos hnamed] at h
      split
      next hheld => rw [if_pos hheld] at h; exact absurd rfl h
      next hheld =>
        rw [if_neg hheld] at h
        rw [evaluatedRecord_hold h]
        rfl
    next hnamed => rw [if_neg hnamed] at h; exact absurd rfl h
  next hnone => rw [hnone] at h; exact absurd rfl h

theorem reportedRecord_of_hold {s : State} {view : List Peer} {named : Bool} {r : CRecord} (h : r.hold.isSome = true) :
    (reportedRecord s view named r).take = r.take := by
  unfold reportedRecord triggeredRecord
  split
  · split
    · rw [if_pos (.inl h)]
    · rfl
  · rfl

theorem takeTested_congr {xs : List Nat} {r u : CRecord} {s t : State} (hinterval : u.interval = r.interval) (hdir : u.dir = r.dir)
    (hlast : u.lastSent = r.lastSent) (h : TakeTested xs r s t) : TakeTested xs u s t := by
  unfold TakeTested TakeQueued at *
  rw [hinterval, hdir, hlast]
  exact h

/-- A change of a take and its one TAKE test. -/
theorem PairMade.noted {k : Word} {d : Direction} {r u : CRecord} {xs : List Nat} {s t : State} (h : PairMade k d r u xs s t)
    (hxs : u.take ≠ r.take → ∀ x, x ∈ xs ↔ x = u.take) : TakeNoted r u s t := by
  intro hne
  obtain ⟨-, hk, hd⟩ := findRec_some h.before
  obtain ⟨-, hk', hd'⟩ := findRec_some h.after
  exact ⟨h.raised hne, takeTested_congr (hk'.trans hk.symm) (hd'.trans hd.symm) h.lastSent
    (h.tested fun x => by rw [hxs hne x, List.mem_singleton])⟩

/-- The reports of a header's and of a body's update, made one after the other on a view just changed. -/
theorem reportsActed_of_made {header body : Word → Direction → Bool} {hp bp : Report} {s u v t : State} (htable : u.table = s.table)
    (hctrl : u.ctrl = s.ctrl) (hpledge : u.pledge = s.pledge) (hline : u.line = { s.line with rx := u.line.rx }) (hhost : u.host = s.host)
    (hact : u.act = s.act) (hmon : u.mon = s.mon) (hheader : ∀ k d, (k, d) ∈ hp ↔ header k d = true)
    (hbody : ∀ k d, (k, d) ∈ bp ↔ body k d = true) (hfirst : ReportMade hp u v) (hsecond : ReportMade bp v t) :
    ReportsActed header body s t := by
  have hview : t.view = u.view := hsecond.all.view.trans hfirst.all.view
  have hqueue : u.line.queue = s.line.queue := by rw [hline]
  have hone (k : Word) (d : Direction) (r : CRecord) :
      reportedRecord u u.view (decide ((k, d) ∈ hp)) r = reportedRecord s t.view (header k d) r := by
    rw [reportedRecord_congr hctrl hpledge, hview]
    simp [hheader]
  have htwo (k : Word) (d : Direction) (r : CRecord) :
      reportedRecord v v.view (decide ((k, d) ∈ bp)) r = reportedRecord s t.view (body k d) r := by
    rw [reportedRecord_congr hfirst.all.ctrl hfirst.all.pledge, reportedRecord_congr hctrl hpledge, ← hsecond.all.view]
    simp [hbody]
  have hmade (k : Word) (d : Direction) (r : CRecord) (hr : findRec s.table k d = some r) :
      let r₁ := reportedRecord s t.view (header k d) r
      let r₂ := reportedRecord s t.view (body k d) r₁
      findRec v.table k d = some r₁ ∧ PairMade k d r r₂ (changeTest r r₁ ++ changeTest r₁ r₂) u t := by
    have h₁ := hfirst.records k d r (by rw [htable]; exact hr)
    rw [hone] at h₁
    have h₂ := hsecond.records k d _ h₁.after
    rw [htwo] at h₂
    exact ⟨h₁.after, h₁.trans h₂ hsecond.all⟩
  refine ⟨fun k d r hr => ?_, fun hsame => ?_⟩
  · obtain ⟨-, hpair⟩ := hmade k d r hr
    refine ⟨_, hpair.after, rfl, ?_⟩
    have hnoted : TakeNoted r _ u t := hpair.noted fun hne x => by
      by_cases hchanged : (reportedRecord s t.view (header k d) r).take = r.take
      · rw [changeTest, if_pos hchanged, changeTest, if_neg (hchanged ▸ hne)]
        simp
      · rw [changeTest, if_neg hchanged, changeTest, if_pos (reportedRecord_of_hold (reportedRecord_hold hchanged)),
          reportedRecord_of_hold (reportedRecord_hold hchanged)]
        simp
    unfold TakeNoted TakeTested at *
    rwa [hqueue] at hnoted
  · have htakes (k : Word) (d : Direction) (r : CRecord) (hr : findRec s.table k d = some r) :
        (reportedRecord s t.view (header k d) r).take = r.take ∧
        (reportedRecord s t.view (body k d) (reportedRecord s t.view (header k d) r)).take = r.take := by
      obtain ⟨-, hpair⟩ := hmade k d r hr
      have hfinal : (reportedRecord s t.view (body k d) (reportedRecord s t.view (header k d) r)).take = r.take := by
        simpa [hpair.after, hr] using hsame k d
      by_contra hne
      have hchanged : (reportedRecord s t.view (header k d) r).take ≠ r.take := fun h => hne ⟨h, hfinal⟩
      rw [reportedRecord_of_hold (reportedRecord_hold hchanged)] at hfinal
      exact hchanged hfinal
    have hcalm₁ : Calm u v := hfirst.calm fun k d r hr => by
      rw [hone]
      exact (htakes k d r (htable ▸ hr)).1
    have hcalm₂ : Calm v t := hsecond.calm fun k d r₁ hr₁ => by
      rw [htwo]
      have hkeys : findRec s.table k d ≠ none := fun hnone => by
        have habsent : (k, d) ∉ recordKeys s.table := fun hmem => by
          have := (findRec_isSome s.table k d).mpr hmem
          rw [hnone] at this
          cases this
        rw [← htable, ← recordKeys_of_fixed hfirst.all.fixed] at habsent
        exact habsent ((findRec_isSome v.table k d).mp (by rw [hr₁]; rfl))
      obtain ⟨r, hr⟩ := Option.ne_none_iff_exists'.mp hkeys
      obtain rfl : _ = r₁ := Option.some.inj ((hmade k d r hr).1.symm.trans hr₁)
      exact (htakes k d r hr).2.trans (htakes k d r hr).1.symm
    have hcalm := hcalm₁.trans hcalm₂
    exact ⟨by rw [hcalm.line]; exact hline, hcalm.host.trans hhost, hcalm.act.trans hact, hcalm.mon.trans hmon⟩

end Sys2Proof.Machine


/-! PROOFS. The hold's expiry (R119, R120) and the ageing of peers (R84, R85). -/

namespace Sys2Proof.Machine

section
variable {k : Word} {d : Direction} {r : CRecord} {s : State}

/-! ### The setpoint after a change of a take -/

theorem noteTakeChange_stands (k : Word) (d : Direction) (s : State) :
    (noteTakeChange k d false s).act = s.act ∧ (noteTakeChange k d false s).mon = s.mon := by
  simp [noteTakeChange]

theorem deltaHanded_noteTakeChange {u : State} (k : Word) (d : Direction) (running : Bool) (hact : u.act = s.act) (hmon : u.mon = s.mon)
    (hctrl : u.ctrl = s.ctrl) : DeltaHanded s (noteTakeChange k d running u) := by
  cases running with
  | false =>
    obtain ⟨hact', hmon'⟩ := noteTakeChange_stands k d u
    exact deltaHanded_of_same (hact'.trans hact) (hmon'.trans hmon)
  | true =>
    unfold noteTakeChange
    rw [if_pos rfl]
    exact deltaHanded_recompute (by simp [hact]) (by simp [hmon]) (by simp [hctrl])

/-- A take written: a changed take of a RUNNING record forms the setpoint anew (R110, R144). -/
theorem changeTake_setpoint (x : Nat) (hr : findRec s.table k d = some r) : DeltaHanded s (changeTake k d x s) ∧
    (r.state ≠ .running → (changeTake k d x s).act = s.act) := by
  by_cases hx : r.take = x
  · subst hx
    rw [changeTake_of_eq hr]
    exact ⟨deltaHanded_of_same rfl rfl, fun _ => rfl⟩
  · rw [changeTake_of_ne hr hx]
    refine ⟨deltaHanded_noteTakeChange _ _ _ rfl rfl rfl, fun hstate => ?_⟩
    rw [show (r.state == .running) = false by simpa using hstate]
    exact (noteTakeChange_stands ..).1

theorem evaluate_setpoint (hr : findRec s.table k d = some r) : DeltaHanded s (evaluate k d s) ∧
    (r.state ≠ .running → (evaluate k d s).act = s.act) := by
  have hsame : DeltaHanded s s ∧ (r.state ≠ .running → s.act = s.act) := ⟨deltaHanded_of_same rfl rfl, fun _ => rfl⟩
  unfold evaluate
  rw [hr]
  dsimp only
  split
  next a ha =>
    split
    · split
      · exact hsame
      · obtain ⟨hdelta, hact⟩ := changeTake_setpoint (evaluatedTake s.ctrl.config.stationId s.ctrl.config.overCover
          (awardMembers s r a) a r.ownTerm r.take) hr
        exact ⟨hdelta.congr rfl rfl rfl (by simp) (by simp), fun hstate => by simpa using hact hstate⟩
    · exact hsame
  · exact hsame

/-! ### The hold's expiry -/

/-- A record whose hold has run out. -/
def CRecord.holdStopped (r : CRecord) : CRecord := { r with hold := none }

theorem allocatesAt_holdStopped (hr : findRec s.table k d = some r) :
    AllocatesAt k d r r.holdStopped [] s (s.updRec k d CRecord.holdStopped) :=
  allocatesAt_updRec (fun _ => rfl) hr rfl rfl

theorem exec_holdExpiry_eq (hr : findRec s.table k d = some r) (hheld : r.hold.isSome = true) :
    exec (.holdExpiry k d) s = .next (if r.evalPending && !busy s then
      evaluate k d (setEvalPending k d false (s.updRec k d CRecord.holdStopped)) else s.updRec k d CRecord.holdStopped) := by
  change execHoldExpiry k d s = _
  unfold execHoldExpiry
  rw [hr]
  dsimp only
  rw [if_pos hheld]
  rfl

theorem evaluatedRecord_take (c : StationConfig) (ms : List Member) (a : Award) (r : CRecord) :
    (evaluatedRecord c ms a r).take = evaluatedTake c.stationId c.overCover ms a ⟨r.cap.getD 0, r.frozenBand.getD 0⟩ r.take :=
  takeChanged_take ..

theorem evaluatedRecord_of_same {c : StationConfig} {ms : List Member} {a : Award} {r : CRecord}
    (h : (evaluatedRecord c ms a r).take = r.take) : evaluatedRecord c ms a r = r := by
  rw [evaluatedRecord_take] at h
  unfold evaluatedRecord takeChanged
  exact if_pos h

theorem evaluatedRecord_pending (c : StationConfig) (ms : List Member) (a : Award) (r : CRecord) :
    (evaluatedRecord c ms a r).evalPending = r.evalPending := by
  unfold evaluatedRecord takeChanged
  split <;> rfl

/-- Settles O38: the expiry is `exec_holdExpiry_eq`, a waiting evaluation `evaluate_spec`. -/
theorem holdExpires : Obligations.HoldExpires := by
  intro k d r s hr hheld
  have hstop := allocatesAt_holdStopped hr
  have hframe {t : State} (ht : Allocates s t) : t.ctrl = s.ctrl ∧ t.clock = s.clock ∧ t.pledge = s.pledge ∧ t.view = s.view ∧
      t.freq = s.freq ∧ t.host.log = s.host.log ∧ t.pending = s.pending :=
    ⟨ht.ctrl, ht.clock, ht.pledge, ht.view, ht.freq, ht.log, ht.pending⟩
  by_cases hwaits : r.evalPending = true ∧ s.pledge.comp = none
  · obtain ⟨hpending, hcomp⟩ := hwaits
    have hexec := exec_holdExpiry_eq hr hheld
    rw [if_pos (by simp [hpending, busy, hcomp])] at hexec
    have hclear := hstop.trans (allocatesAt_setEvalPending false hstop.pair.after)
    generalize hx : ({ r.holdStopped with evalPending := false } : CRecord) = x at hclear
    generalize hv : setEvalPending k d false (s.updRec k d CRecord.holdStopped) = v at hexec hclear
    have hcalm : Calm s v := by rw [← hv]; exact ⟨rfl, rfl, rfl, rfl⟩
    obtain ⟨hdelta, hact⟩ := evaluate_setpoint hclear.pair.after
    have hdelta := hdelta.congr (s' := s) (t' := evaluate k d v) hcalm.mon.symm (by rw [hcalm.act]) hclear.all.ctrl.symm rfl rfl
    have htake : x.take = r.take := by rw [← hx]; rfl
    have hstate : x.state = r.state := by rw [← hx]; rfl
    have haward : x.award = r.award := by rw [← hx]; rfl
    have hnotRefuted {P : Prop} (h : r.evalPending = false) : P := by rw [hpending] at h; cases h
    have hnotBusy {P : Prop} (h : s.pledge.comp.isSome = true) : P := by rw [hcomp] at h; cases h
    by_cases hevaluated : s.ctrl.station = .active ∧ ∃ a, r.award = some a
    · obtain ⟨hactive, a, ha⟩ := hevaluated
      obtain ⟨hat, hsame⟩ := evaluate_spec hclear.pair.after (haward.trans ha) ((isActive_iff v).mpr (hclear.all.ctrl ▸ hactive))
      have hall := hclear.trans hat
      rw [hclear.all.ctrl, hclear.all.view] at hall hsame
      generalize hu : evaluatedRecord s.ctrl.config (membersFor s.view k d a) a x = u at hall hsame
      have hutake : u.take = evaluatedTake s.ctrl.config.stationId s.ctrl.config.overCover (awardMembers s r a) a
          ⟨r.cap.getD 0, r.frozenBand.getD 0⟩ r.take := by
        rw [← hu, evaluatedRecord_take, awardMembers_eq hr, ← hx]
        rfl
      have hsamea {b : Award} (hb : r.award = some b) : a = b := Option.some.inj (ha.symm.trans hb)
      refine ⟨_, u, hexec, hall.pair.after, hnotRefuted, fun _ => hnotBusy, fun _ _ _ b hb => ?_, fun _ _ => ⟨fun _ b hb => ?_, fun hnot => ?_⟩,
        hall.pair.noted fun hne y => ?_, hdelta, fun hor => ?_, fun hsameTake => ?_, hall.aside.records, hframe hall.all⟩
      · obtain rfl := hsamea hb
        refine ⟨hutake, by rw [← hu, evaluatedRecord_pending, ← hx], fun hkept => ?_, fun hchanged => ⟨?_, ?_⟩⟩
        · rw [← hu, evaluatedRecord_of_same (by rw [hu, hutake, hkept, htake]), ← hx]
          rfl
        · rw [← hu]
          exact evaluatedRecord_hold (by rw [hu, hutake, htake]; exact hchanged)
        · exact hall.pair.raised (by rw [hutake]; exact hchanged)
      · obtain rfl := hsamea hb
        rw [← hu, ← hx]
        rfl
      · exact (hnot.elim (fun h => h hactive) fun h => by cases h.symm.trans ha).elim
      · simp [changeTest, htake, hne]
      · obtain hkept | hstill := hor
        · rw [hsame (hkept.trans htake.symm)]
          exact hcalm.act
        · exact (hact (hstate ▸ hstill)).trans hcalm.act
      · rw [hsame (hsameTake.trans htake.symm)]
        exact ⟨hcalm.line, hcalm.host⟩
    · have hnot : s.ctrl.station ≠ .active ∨ r.award = none := by
        by_contra hboth
        simp only [not_or, not_not] at hboth
        exact hevaluated ⟨hboth.1, Option.ne_none_iff_exists'.mp hboth.2⟩
      have hstays : evaluate k d v = v := evaluate_of_not hclear.pair.after
        (hnot.imp (fun h => by simpa [isActive, hclear.all.ctrl] using h) haward.trans)
      rw [hstays] at hexec hdelta
      refine ⟨_, x, hexec, hclear.pair.after, hnotRefuted, fun _ => hnotBusy, fun _ _ hactive b hb => absurd ⟨hactive, b, hb⟩ hevaluated,
        fun _ _ => ⟨fun hactive b hb => absurd ⟨hactive, b, hb⟩ hevaluated, fun _ => hx.symm⟩, hclear.pair.noted fun hne => absurd htake hne, hdelta,
        fun _ => hcalm.act, fun _ => ⟨hcalm.line, hcalm.host⟩, hclear.aside.records, hframe hclear.all⟩
  · have hexec := exec_holdExpiry_eq hr hheld
    have hwait : (r.evalPending && !busy s) = false := by
      by_cases hpending : r.evalPending = true
      · have hcomp : s.pledge.comp.isSome = true := Option.isSome_iff_ne_none.mpr fun h => hwaits ⟨hpending, h⟩
        simp [busy, hcomp]
      · simp [hpending]
    rw [hwait, if_neg (by decide)] at hexec
    exact ⟨_, r.holdStopped, hexec, hstop.pair.after, fun _ => rfl, fun _ _ => rfl, fun hp hc => absurd ⟨hp, hc⟩ hwaits,
      fun hp hc => absurd ⟨hp, hc⟩ hwaits, hstop.pair.noted fun hne => absurd rfl hne, deltaHanded_of_same rfl rfl, fun _ => rfl,
      fun _ => ⟨rfl, rfl⟩, hstop.aside.records, hframe hstop.all⟩

end

/-! ### The ageing of peers -/

section
variable {view : List Peer} {id : Nat}

theorem findPeer_some {p : Peer} (h : findPeer view id = some p) : p ∈ view ∧ p.id = id :=
  ⟨List.mem_of_find?_eq_some h, by simpa using List.find?_some h⟩

theorem findPeer_mapPeer {f : Peer → Peer} (hf : ∀ p, p.id = id → (f p).id = id) : findPeer (mapPeer id f view) id = (findPeer view id).map f := by
  induction view with
  | nil => rfl
  | cons p view ih =>
    unfold findPeer mapPeer at *
    by_cases hp : p.id = id
    · simp [hp, hf p hp]
    · simpa [hp] using ih

theorem findPeer_mapPeer_of_ne {f : Peer → Peer} (hf : ∀ p, p.id = id → (f p).id = id) {j : Nat} (hne : j ≠ id) :
    findPeer (mapPeer id f view) j = findPeer view j := by
  induction view with
  | nil => rfl
  | cons p view ih =>
    unfold findPeer mapPeer at *
    by_cases hp : p.id = id
    · simpa [hp, hf p hp, Ne.symm hne] using ih
    · by_cases hpj : p.id = j
      · simp [hpj, hne]
      · simpa [hp, hpj] using ih

theorem findPeer_filter_of_ne {j : Nat} (hne : j ≠ id) : findPeer (view.filter fun q => q.id != id) j = findPeer view j := by
  unfold findPeer
  rw [List.find?_filter]
  refine List.find?_congr fun p _ => ?_
  by_cases hp : p.id = j
  · simp [hp, hne]
  · simp [hp]

theorem findPeer_filter_self : findPeer (view.filter fun q => q.id != id) id = none := by
  simp [findPeer, List.find?_eq_none]

end

/-- A peer at the age of 3 × Tp (R84). -/
def Peer.aged (c : StationConfig) (p : Peer) : Peer := { p with ageMs := max p.ageMs (staleAgeMs c), status := .stale }

/-- The report of a peer at that age: one STALE already is named no more (R83, R84). -/
def staleReport (p : Peer) (s : State) : Report := if p.status = .stale then [] else p.entryPairs s.clock.current

theorem exec_peerStale_eq {id : Nat} {p : Peer} {s : State} (hp : findPeer s.view id = some p) :
    exec (.peerStale id) s =
      .next (actOnReport (staleReport p s) (s.setView (mapPeer id (Peer.aged s.ctrl.config) s.view))) := by
  change execPeerStale id s = _
  unfold execPeerStale makeStale staleReport
  rw [hp]
  dsimp only
  split <;> rfl

theorem exec_peerRemoved_eq {id : Nat} {p : Peer} {s : State} (hp : findPeer s.view id = some p) :
    exec (.peerRemoved id) s =
      .next (actOnReport (p.entryPairs s.clock.current) (s.setView (s.view.filter fun q => q.id != id))) := by
  change execPeerRemoved id s = _
  unfold execPeerRemoved
  rw [hp]
  rfl

theorem mem_staleReport {p : Peer} {s : State} (k : Word) (d : Direction) : (k, d) ∈ staleReport p s ↔
    (p.status != .stale && inHorizon s.clock.current k && (p.entryAt k).isSome) = true := by
  unfold staleReport
  split
  next h => simp [h]
  next h => simp [Peer.entryPairs, mem_reportWhere, h]

/-- One report acted on after a change of the view. -/
theorem reportsActed_of_one {body : Word → Direction → Bool} {pairs : Report} (hnodup : pairs.Nodup) (view : List Peer) (s : State)
    (hbody : ∀ k d, (k, d) ∈ pairs ↔ body k d = true) :
    ReportsActed (fun _ _ => false) body s (actOnReport pairs (s.setView view)) :=
  reportsActed_of_made (hp := []) (u := s.setView view) rfl rfl rfl rfl rfl rfl rfl (by simp) hbody (.nil (s.setView view)) (actOnReport_made hnodup _)

/-- A member of an award is a FRESH peer of the view (R87). -/
theorem mem_membersOf {view : List Peer} {k : Word} {d : Direction} {compare mask : Word} {m : Member} (h : m ∈ membersOf view k d compare mask) :
    ∃ p ∈ view, p.status = .fresh ∧ m.id = p.id := by
  obtain ⟨p, hp, hm⟩ := List.mem_filterMap.mp h
  unfold Peer.asMember at hm
  split at hm
  next hfresh =>
    obtain ⟨e, -, rfl⟩ := Option.map_eq_some_iff.mp hm
    exact ⟨p, hp, hfresh.1, rfl⟩
  next => cases hm

/-- Settles O42: the view is changed at the id alone, and the report reaches the records by `reportsActed_of_one`. -/
theorem peersAge : Obligations.PeersAge := by
  refine fun id s => ⟨fun p hp => ⟨⟨_, exec_peerStale_eq hp, ?_⟩, ⟨_, exec_peerRemoved_eq hp, ?_⟩⟩, fun hnone => ⟨?_, ?_⟩⟩
  · have hnodup : (staleReport p s).Nodup := by
      unfold staleReport
      split
      · exact List.nodup_nil
      · exact reportWhere_nodup _ _
    refine ⟨by simp [mapPeer], ?_, fun j hj => ?_, fun k d compare mask m hm => ?_,
      reportsActed_of_one hnodup _ s mem_staleReport, by simp, by simp, by simp, by simp, by simp⟩
    · simp only [actOnReport_frame, State.setView]
      rw [findPeer_mapPeer (f := Peer.aged _) fun _ h => h, hp]
      rfl
    · simpa using findPeer_mapPeer_of_ne (f := Peer.aged _) (fun _ h => h) hj
    · obtain ⟨q, hq, hfresh, hid⟩ := mem_membersOf hm
      simp only [actOnReport_frame, State.setView] at hq
      obtain ⟨x, -, rfl⟩ := List.mem_map.mp hq
      rw [hid]
      split at hfresh
      · cases hfresh
      next hne => rwa [if_neg hne]
  · refine ⟨by simpa using findPeer_filter_self, fun j hj => by simpa using findPeer_filter_of_ne hj,
      reportsActed_of_one (reportWhere_nodup _ _) _ s fun k d => by simp [mem_reportWhere],
      by simp, by simp, by simp, by simp, by simp⟩
  · change execPeerStale id s = _
    unfold execPeerStale
    rw [hnone]
  · change execPeerRemoved id s = _
    unfold execPeerRemoved
    rw [hnone]

end Sys2Proof.Machine


/-! PROOFS. What a taken frame leaves in the Cluster View, and the records its reports reach (R78 to R83, R118, R119). -/

namespace Sys2Proof.Machine

/-! ### Placing a record -/

section
variable {view : List Peer}

theorem findPeer_placePeer {p : Peer} (hnew : ∀ q ∈ view, q.id ≠ p.id) : findPeer (placePeer p view) p.id = some p := by
  induction view with
  | nil => simp [placePeer, findPeer]
  | cons q view ih =>
    unfold placePeer
    split
    · simp [findPeer]
    · have hq : q.id ≠ p.id := hnew q List.mem_cons_self
      have hrest := ih fun x hx => hnew x (List.mem_cons_of_mem _ hx)
      unfold findPeer at hrest ⊢
      rw [List.find?_cons_of_neg (by simpa using hq), hrest]

theorem findPeer_placePeer_of_ne {p : Peer} {j : Nat} (hne : j ≠ p.id) : findPeer (placePeer p view) j = findPeer view j := by
  induction view with
  | nil => simp [placePeer, findPeer, Ne.symm hne]
  | cons q view ih =>
    unfold placePeer
    split
    · unfold findPeer
      rw [List.find?_cons_of_neg (by simpa using Ne.symm hne)]
    · unfold findPeer at ih ⊢
      rw [List.find?_cons, List.find?_cons, ih]

end

/-! ### The header's update -/

/-- A record after the header's update (R78). -/
def Peer.headed (zone : Word) (p : Peer) : Peer := { p with zone := zone, ageMs := 0 }

/-- The sender's record as the header leaves it: held, or created (R78, R79). -/
def headedPeer (s : State) (n : Notice) : Peer :=
  match findPeer s.view n.sender.toNat with
  | some p => p.headed n.zone
  | none => newPeer n.sender.toNat n.zone

theorem headedPeer_header (s : State) (n : Notice) :
    (headedPeer s n).id = n.sender.toNat ∧ (headedPeer s n).zone = n.zone ∧ (headedPeer s n).ageMs = 0 := by
  unfold headedPeer
  split
  next p hp => exact ⟨(findPeer_some hp).2, rfl, rfl⟩
  next => exact ⟨rfl, rfl, rfl⟩

theorem headedPeer_body (s : State) (n : Notice) :
    (headedPeer s n).status = ((findPeer s.view n.sender.toNat).map (·.status)).getD .fresh ∧
    (headedPeer s n).entries = ((findPeer s.view n.sender.toNat).map (·.entries)).getD [] ∧
    (headedPeer s n).heard = ((findPeer s.view n.sender.toNat).map (·.heard)).getD [] := by
  unfold headedPeer
  split
  next p hp => rw [hp]; exact ⟨rfl, rfl, rfl⟩
  next hnone => rw [hnone]; exact ⟨rfl, rfl, rfl⟩

theorem headedPeer_entryAt (s : State) (n : Notice) (k : Word) :
    (headedPeer s n).entryAt k = (findPeer s.view n.sender.toNat).bind (·.entryAt k) := by
  unfold headedPeer
  split
  next p hp => rw [hp]; rfl
  next hnone => rw [hnone]; rfl

theorem headedPeer_heardAt (s : State) (n : Notice) (k : Word) (d : Direction) :
    (headedPeer s n).heardAt k d = (findPeer s.view n.sender.toNat).bind (·.heardAt k d) := by
  unfold headedPeer
  split
  next p hp => rw [hp]; rfl
  next hnone => rw [hnone]; rfl

/-- The report of a header's update: the pairs it names where it changes the zone code (R83). -/
def headerReport (s : State) (n : Notice) : Report := (horizonPairs s.clock.current).filter fun kd => zoneNames s n kd.1 kd.2

theorem mem_headerReport (s : State) (n : Notice) (k : Word) (d : Direction) : (k, d) ∈ headerReport s n ↔ zoneNames s n k d = true := by
  rw [headerReport, List.mem_filter, mem_horizonPairs]
  refine ⟨And.right, fun h => ⟨?_, h⟩⟩
  unfold zoneNames at h
  cases hp : findPeer s.view n.sender.toNat <;> simp_all

theorem headerReport_nodup (s : State) (n : Notice) : (headerReport s n).Nodup := (horizonPairs_nodup _).filter _

/-- A view with the sender's record in place of any it held. -/
structure SenderPlaced (s : State) (n : Notice) (view : List Peer) : Prop where
  found : findPeer view n.sender.toNat = some (headedPeer s n)
  others : ∀ p ∈ s.view, p.id ≠ n.sender.toNat → findPeer view p.id = findPeer s.view p.id

/-- With the sender's record held or room for it, the header's update finds or creates it (R78, R79). -/
theorem headerUpdate_of_room {s : State} {n : Notice} (hroom : HasRoom s n) :
    ∃ view, headerUpdate s.clock.current n.sender.toNat n.zone s.view = some (view, headerReport s n) ∧ SenderPlaced s n view := by
  unfold headerUpdate
  cases hfind : findPeer s.view n.sender.toNat with
  | some p =>
    refine ⟨_, congrArg some (Prod.ext rfl ?_), ?_, fun q _ hq => findPeer_mapPeer_of_ne (f := Peer.headed n.zone) (fun _ h => h) hq⟩
    · dsimp only
      unfold headerReport reportWhere zoneNames
      rw [hfind]
      split
      next hzone => simp [hzone]
      next hzone =>
        refine List.filter_congr fun kd hkd => ?_
        have hin : inHorizon s.clock.current kd.1 = true := (mem_horizonPairs _ _ kd.2).mp hkd
        simp [hin, bne_iff_ne.mpr hzone]
    · have hmapped := findPeer_mapPeer (view := s.view) (id := n.sender.toNat) (f := Peer.headed n.zone) fun _ h => h
      rw [hfind] at hmapped
      rw [headedPeer, hfind]
      exact hmapped
  | none =>
    have hlimit : s.view.length < Config.viewLimit := by
      obtain hsome | hlimit := hroom
      · rw [hfind] at hsome
        cases hsome
      · exact hlimit
    have hnew := findPeer_none hfind
    dsimp only
    rw [if_pos hlimit]
    refine ⟨_, congrArg some (Prod.ext rfl ?_), ?_, fun q _ hq => findPeer_placePeer_of_ne hq⟩
    · simp [headerReport, zoneNames, hfind]
    · rw [headedPeer, hfind]
      exact findPeer_placePeer (p := newPeer n.sender.toNat n.zone) hnew

/-! ### A frame taken -/

theorem dispatchable_of_front {s : State} {n : Notice} {rest : List Notice} (h : FrontFrame s n rest) : dispatchable s = some n :=
  (dispatchable_eq_some s n).mpr ⟨rest, h⟩

theorem takeFrame_eq {n : Notice} {body : Peer → Peer × Report} {s : State} {view : List Peer} {report : Report} {p : Peer}
    (hheader : headerUpdate s.clock.current n.sender.toNat n.zone s.view = some (view, report))
    (hp : findPeer view n.sender.toNat = some p) : takeFrame n body s =
      actOnReport (body p).2 (actOnReport report (s.setView (mapPeer n.sender.toNat (fun _ => (body p).1) view))) := by
  unfold takeFrame
  simp only [hheader, hp]

/-- A frame taken by a view with room: the sender's record is what the body's update makes of the headed one, and both reports
are acted on. -/
theorem takeFrame_spec {s : State} {n : Notice} {rest : List Notice} (hfront : FrontFrame s n rest) (hroom : HasRoom s n)
    {update : Peer → Peer × Report} {names : Word → Direction → Bool}
    (hsame : ∀ p, (update p).1.id = p.id ∧ (update p).1.zone = p.zone ∧ (update p).1.ageMs = p.ageMs)
    (hnodup : (update (headedPeer s n)).2.Nodup) (hnames : ∀ k d, (k, d) ∈ (update (headedPeer s n)).2 ↔ names k d = true) :
    let t := takeFrame n update (dropFront s)
    HeaderTaken s t n rest (update (headedPeer s n)).1 ∧ ReportsActed (zoneNames s n) names s t ∧
      Allocates ((dropFront s).setView t.view) t := by
  intro t
  obtain ⟨view, hheader, hplaced⟩ := headerUpdate_of_room hroom
  obtain ⟨hid, hzone, hage⟩ := headedPeer_header s n
  obtain ⟨hid', hzone', hage'⟩ := hsame (headedPeer s n)
  have ht : t = _ := takeFrame_eq (s := dropFront s) (body := update) hheader hplaced.found
  generalize hq : (update (headedPeer s n)).1 = q at ht hid' hzone' hage'
  generalize hu : (dropFront s).setView (mapPeer n.sender.toNat (fun _ => q) view) = u at ht
  have hfirst : ReportMade (headerReport s n) u _ := actOnReport_made (headerReport_nodup s n) u
  have hsecond : ReportMade (update (headedPeer s n)).2 _ _ := actOnReport_made hnodup (actOnReport (headerReport s n) u)
  rw [← ht] at hsecond
  have hall := hfirst.all.trans hsecond.all
  have hview : t.view = mapPeer n.sender.toNat (fun _ => q) view := by
    rw [hall.view, ← hu]
    rfl
  have hrx : u.line.rx = rest := by
    rw [← hu]
    change s.line.rx.drop 1 = rest
    rw [hfront.2.1]
    rfl
  have hqid : q.id = n.sender.toNat := hid'.trans hid
  have hkept : u.table = s.table ∧ u.ctrl = s.ctrl ∧ u.clock = s.clock ∧ u.pledge = s.pledge ∧ u.freq = s.freq ∧ u.pending = s.pending ∧
      u.line = { s.line with rx := u.line.rx } ∧ u.host = s.host ∧ u.act = s.act ∧ u.mon = s.mon := by
    rw [← hu]
    exact ⟨rfl, rfl, rfl, rfl, rfl, rfl, rfl, rfl, rfl, rfl⟩
  obtain ⟨htable, hctrl, hclock, hpledge, hfreq, hpending, hline, hhost, hact, hmon⟩ := hkept
  refine ⟨⟨hall.rx.trans hrx, ?_, hzone'.trans hzone, hage'.trans hage, fun p hp hne => ?_, hall.ctrl.trans hctrl, hall.clock.trans hclock,
    hall.pledge.trans hpledge, hall.freq.trans hfreq, (recordKeys_of_fixed hall.fixed).trans (by rw [htable]), hall.pending.trans hpending⟩,
    reportsActed_of_made htable hctrl hpledge hline hhost hact hmon (mem_headerReport s n) hnames hfirst hsecond, ?_⟩
  · rw [hview, findPeer_mapPeer fun _ _ => hqid, hplaced.found]
    rfl
  · rw [hview, findPeer_mapPeer_of_ne (fun _ _ => hqid) hne]
    exact hplaced.others p hp hne
  · rw [hview, hu]
    exact hall

end Sys2Proof.Machine


/-! PROOFS. Received PLEDGE, TAKE and WITHDRAW notices (R80 to R83), and a full view (R79). -/

namespace Sys2Proof.Machine

/-! ### PLEDGE -/

theorem mem_carriedEntries {cur first : Word} {entries : List SlotEntry} {x : PeerEntry} : x ∈ carriedEntries cur first entries ↔
    inHorizon cur x.interval = true ∧ ∃ i, entries[i]? = some x.entry ∧ x.interval = first + BitVec.ofNat 16 i := by
  unfold carriedEntries
  rw [List.mem_map]
  constructor
  · rintro ⟨ke, hke, rfl⟩
    obtain ⟨hmem, hin⟩ := List.mem_filter.mp hke
    obtain ⟨i, hi⟩ := List.mem_iff_getElem?.mp hmem
    rw [getElem?_fromInterval] at hi
    obtain ⟨e, he, rfl⟩ := Option.map_eq_some_iff.mp hi
    exact ⟨hin, i, he, rfl⟩
  · rintro ⟨hin, i, he, hk⟩
    refine ⟨(x.interval, x.entry), List.mem_filter.mpr ⟨List.mem_iff_getElem?.mpr ⟨i, ?_⟩, hin⟩, rfl⟩
    rw [getElem?_fromInterval, he, hk]
    rfl

theorem carriedEntries_nodup (cur first : Word) {entries : List SlotEntry} (h : entries.length ≤ 8) :
    ((carriedEntries cur first entries).map (·.interval)).Nodup := by
  unfold carriedEntries
  rw [List.map_map]
  exact (nodup_fromInterval first h).sublist (List.filter_sublist.map _)

/-- An entry held for another horizon interval than those carried is zeroed with its bands kept (R80). -/
def keptEntry (cur : Word) (e : PeerEntry) : PeerEntry := if inHorizon cur e.interval then { e with entry := e.entry.zeroed } else e

theorem takePledge_entries (cur first : Word) (entries : List SlotEntry) (p : Peer) : (p.takePledge cur first entries).entries =
    carriedEntries cur first entries ++
      (p.entries.filter fun e => !carries (carriedEntries cur first entries) e.interval).map (keptEntry cur) := rfl

theorem takePledge_entryAt_carried {cur first : Word} {entries : List SlotEntry} (hcount : entries.length ≤ 8) (p : Peer) {i : Nat}
    {e : SlotEntry} (he : entries[i]? = some e) (hin : inHorizon cur (first + BitVec.ofNat 16 i) = true) :
    (p.takePledge cur first entries).entryAt (first + BitVec.ofNat 16 i) = some e := by
  have hmem : (⟨first + BitVec.ofNat 16 i, e⟩ : PeerEntry) ∈ carriedEntries cur first entries := mem_carriedEntries.mpr ⟨hin, i, he, rfl⟩
  unfold Peer.entryAt
  rw [takePledge_entries, List.find?_append, find?_of_mem_nodup (key := PeerEntry.interval) (carriedEntries_nodup cur first hcount) hmem]
  rfl

theorem keptEntry_interval (cur : Word) (e : PeerEntry) : (keptEntry cur e).interval = e.interval := by
  unfold keptEntry
  split <;> rfl

theorem takePledge_entryAt_other {cur first : Word} {entries : List SlotEntry} (p : Peer) {k : Word} (hin : inHorizon cur k = true)
    (hother : ∀ i, i < entries.length → k ≠ first + BitVec.ofNat 16 i) :
    (p.takePledge cur first entries).entryAt k = (p.entryAt k).map SlotEntry.zeroed := by
  have hnone : ∀ x ∈ carriedEntries cur first entries, x.interval ≠ k := by
    intro x hx hxk
    obtain ⟨-, i, hi, hk⟩ := mem_carriedEntries.mp hx
    exact hother i (List.getElem?_eq_some_iff.mp hi).1 (hxk.symm.trans hk)
  have hcarries : carries (carriedEntries cur first entries) k = false := by simpa [carries] using hnone
  unfold Peer.entryAt
  rw [takePledge_entries, List.find?_append, List.find?_eq_none.mpr (by simpa using hnone), Option.none_or, List.find?_map, List.find?_filter,
    Option.map_map, Option.map_map]
  rw [List.find?_congr (p₂ := fun e => e.interval == k) fun e _ => ?_]
  · refine Option.map_congr fun e he => ?_
    have hek : e.interval = k := by simpa using List.find?_some he
    simp [keptEntry, hek, hin]
  · by_cases hek : e.interval = k
    · simp [keptEntry_interval, hek, hcarries]
    · simp [keptEntry_interval, hek]

theorem pledgeUpdate_report (cur first : Word) (entries : List SlotEntry) (p : Peer) : (pledgeUpdate cur first entries p).2 =
    reportWhere cur fun k _ => ((p.takePledge cur first entries).entryAt k).isSome := rfl

theorem exec_receivedPledge_eq {s : State} {n : Notice} {rest : List Notice} {first : Word} {entries : List SlotEntry}
    (hfront : FrontFrame s n rest) (hbody : n.body = .pledge first entries) :
    exec .receivedPledge s = .next (takeFrame n (pledgeUpdate s.clock.current first entries) (dropFront s)) := by
  change execReceivedPledge s = _
  simp only [execReceivedPledge, dispatchable_of_front hfront, hbody]

/-- Settles O39: the frame's taking is `takeFrame_spec`, its update that of R80. -/
theorem pledgeNoticeTaken : Obligations.PledgeNoticeTaken := by
  intro n rest first entries s hfront hbody hcount hroom
  obtain ⟨hheader, hreports, -⟩ := takeFrame_spec hfront hroom (update := pledgeUpdate s.clock.current first entries)
    (names := fun k _ => inHorizon s.clock.current k && (((headedPeer s n).takePledge s.clock.current first entries).entryAt k).isSome)
    (fun _ => ⟨rfl, rfl, rfl⟩) (by rw [pledgeUpdate_report]; exact reportWhere_nodup _ _) fun k d => by
      rw [pledgeUpdate_report, mem_reportWhere, Bool.and_eq_true]
  refine ⟨_, _, exec_receivedPledge_eq hfront hbody, hheader, rfl, fun i e he hin => takePledge_entryAt_carried hcount _ he hin,
    fun k hin hother => ?_, fun k d => headedPeer_heardAt s n k d, hreports⟩
  rw [← headedPeer_entryAt]
  exact takePledge_entryAt_other _ hin hother

/-! ### TAKE -/

theorem takeTake_heardAt_self (p : Peer) (k : Word) (d : Direction) (issue amount : Nat) :
    (p.takeTake k d issue amount).heardAt k d = some ⟨k, d, amount, issue⟩ := by
  simp [Peer.heardAt, Peer.takeTake]

theorem takeTake_heardAt_of_ne (p : Peer) {k k' : Word} {d d' : Direction} (issue amount : Nat) (hne : (k', d') ≠ (k, d)) :
    (p.takeTake k d issue amount).heardAt k' d' = p.heardAt k' d' := by
  have hhead : (k == k' && d == d') = false := by
    by_contra h
    simp only [Bool.not_eq_false, Bool.and_eq_true, beq_iff_eq] at h
    exact hne (by rw [h.1, h.2])
  unfold Peer.heardAt Peer.takeTake
  rw [List.find?_cons_of_neg (by simp [hhead]), List.find?_filter]
  refine List.find?_congr fun h _ => ?_
  by_cases hh : h.interval = k' ∧ h.dir = d'
  · have hother : (k' == k && d' == d) = false := by
      rw [← hhead, Bool.beq_comm, Bool.beq_comm (a := d')]
    simp [hh.1, hh.2, hother]
  · have : (h.interval == k' && h.dir == d') = false := by simpa using hh
    simp [this]

theorem exec_receivedTake_eq {s : State} {n : Notice} {rest : List Notice} {k : Word} {d : Direction} {issue : Byte} {amount : Word}
    (hfront : FrontFrame s n rest) (hbody : n.body = .take k d issue amount) :
    exec .receivedTake s = .next (takeFrame n (takeUpdate s.clock.current k d issue.toNat amount.toNat) (dropFront s)) := by
  change execReceivedTake s = _
  simp only [execReceivedTake, dispatchable_of_front hfront, hbody]

/-- A TAKE is stored unless a heard take of a higher issue is held (R81). -/
theorem takeStored_iff (held : Option HeardTake) (i : Nat) : takeStored held i = true ↔ ∀ h ∈ held, h.issue ≤ i := by
  cases held <;> simp [takeStored]

theorem takeUpdate_of_stored {cur k : Word} {d : Direction} {issue amount : Nat} {p : Peer}
    (h : inHorizon cur k = true ∧ ∀ h ∈ p.heardAt k d, h.issue ≤ issue) :
    takeUpdate cur k d issue amount p = (p.takeTake k d issue amount, [(k, d)]) := by
  unfold takeUpdate
  rw [if_pos (by rw [Bool.and_eq_true, takeStored_iff]; exact h)]
  rfl

theorem takeUpdate_of_not {cur k : Word} {d : Direction} {issue amount : Nat} {p : Peer}
    (h : ¬ (inHorizon cur k = true ∧ ∀ h ∈ p.heardAt k d, h.issue ≤ issue)) : takeUpdate cur k d issue amount p = (p, []) := by
  unfold takeUpdate
  exact if_neg (by rw [Bool.and_eq_true, takeStored_iff]; exact h)

theorem takeNoticeTaken {n : Notice} {rest : List Notice} {s : State} (hfront : FrontFrame s n rest) (hroom : HasRoom s n) {k : Word}
    {d : Direction} {issue : Byte} {amount : Word} (hbody : n.body = .take k d issue amount) :
    let old := findPeer s.view n.sender.toNat
    ∃ t q, exec .receivedTake s = .next t ∧ HeaderTaken s t n rest q ∧
      q.status = (old.map (·.status)).getD .fresh ∧ q.entries = (old.map (·.entries)).getD [] ∧
      (∀ k' d', (k', d') ≠ (k, d) → q.heardAt k' d' = old.bind (·.heardAt k' d')) ∧
      q.heardAt k d =
        (if inHorizon s.clock.current k = true ∧ ∀ h ∈ old.bind (·.heardAt k d), h.issue ≤ issue.toNat then
          some ⟨k, d, amount.toNat, issue.toNat⟩
        else old.bind (·.heardAt k d)) ∧
      ReportsActed (zoneNames s n) (fun k' d' => k' == k && d' == d && inHorizon s.clock.current k &&
        (old.bind (·.heardAt k d)).all fun h => h.issue ≤ issue.toNat) s t := by
  intro old
  have hspec := takeFrame_spec hfront hroom (update := takeUpdate s.clock.current k d issue.toNat amount.toNat)
    (names := fun k' d' => k' == k && d' == d && inHorizon s.clock.current k &&
        (old.bind (·.heardAt k d)).all fun h => h.issue ≤ issue.toNat)
    (fun p => by unfold takeUpdate; split <;> exact ⟨rfl, rfl, rfl⟩)
  obtain ⟨hstatus, hentries, -⟩ := headedPeer_body s n
  have hheard (k' : Word) (d' : Direction) : (headedPeer s n).heardAt k' d' = old.bind (·.heardAt k' d') := headedPeer_heardAt s n k' d'
  by_cases hstored : inHorizon s.clock.current k = true ∧ ∀ h ∈ old.bind (·.heardAt k d), h.issue ≤ issue.toNat
  · rw [takeUpdate_of_stored (by rw [hheard]; exact hstored)] at hspec
    have hall : ((old.bind (·.heardAt k d)).all fun h => decide (h.issue ≤ issue.toNat)) = true := by
      simpa [Option.all_eq_true] using hstored.2
    obtain ⟨hheader, hreports, -⟩ := hspec (List.nodup_singleton _) fun k' d' => by simp [hstored.1, hall]
    refine ⟨_, _, exec_receivedTake_eq hfront hbody, hheader, hstatus, hentries, fun k' d' hne => ?_, ?_, hreports⟩
    · rw [takeTake_heardAt_of_ne _ _ _ hne, hheard]
    · rw [if_pos hstored, takeTake_heardAt_self]
  · rw [takeUpdate_of_not (by rw [hheard]; exact hstored)] at hspec
    obtain ⟨hheader, hreports, -⟩ := hspec List.nodup_nil fun k' d' => by
      simp only [List.not_mem_nil, false_iff, Bool.and_eq_true, not_and]
      rintro ⟨-, hin⟩ hall
      exact hstored ⟨hin, by simpa [Option.all_eq_true] using hall⟩
    refine ⟨_, _, exec_receivedTake_eq hfront hbody, hheader, hstatus, hentries, fun k' d' _ => hheard k' d', ?_, hreports⟩
    rw [if_neg hstored, hheard]

/-! ### WITHDRAW -/

theorem mem_affectedIntervals {first k : Word} {affected : Byte} :
    ((affectedIntervals first affected).any (· == k)) = true ↔
      ∃ o ∈ List.range 8, affected.getLsbD o = true ∧ k = first + BitVec.ofNat 16 o := by
  simp only [affectedIntervals, List.any_map, List.any_filter, List.any_eq_true, Function.comp, Bool.and_eq_true, beq_iff_eq, atSlot]
  exact ⟨fun ⟨o, ho, hset, hk⟩ => ⟨o, ho, hset, hk.symm⟩, fun ⟨o, ho, hset, hk⟩ => ⟨o, ho, hset, hk.symm⟩⟩

/-- An interval that a WITHDRAW of an affected set zeroes: of the horizon and of the set (R82). -/
def withdrawHits (cur first : Word) (affected : Byte) (k : Word) : Bool := inHorizon cur k && (affectedIntervals first affected).any (· == k)

theorem withdrawHits_iff {cur first k : Word} {affected : Byte} : withdrawHits cur first affected k = true ↔
    inHorizon cur k = true ∧ ∃ o ∈ List.range 8, affected.getLsbD o = true ∧ k = first + BitVec.ofNat 16 o := by
  rw [withdrawHits, Bool.and_eq_true, mem_affectedIntervals]

theorem takeWithdraw_entryAt (cur first : Word) (affected : Byte) (p : Peer) (k : Word) :
    (p.takeWithdraw cur first affected).entryAt k =
      if withdrawHits cur first affected k = true then (p.entryAt k).map SlotEntry.zeroed else p.entryAt k := by
  have hkey (e : PeerEntry) : (if withdrawHits cur first affected e.interval = true then { e with entry := e.entry.zeroed } else e).interval =
      e.interval := by split <;> rfl
  change ((p.entries.map fun e => if withdrawHits cur first affected e.interval = true then { e with entry := e.entry.zeroed } else e).find?
    fun e => e.interval == k).map (·.entry) = _
  rw [List.find?_map, Option.map_map, List.find?_congr (p₂ := fun e => e.interval == k) fun e _ => by simp only [Function.comp, hkey]]
  unfold Peer.entryAt
  cases hfind : p.entries.find? fun e => e.interval == k with
  | none => simp
  | some e =>
    have hek : e.interval = k := by simpa using List.find?_some hfind
    by_cases hit : withdrawHits cur first affected k = true <;> simp [hek, hit]

theorem takeWithdraw_heardAt (cur first : Word) (affected : Byte) (p : Peer) (k : Word) (d : Direction) :
    (p.takeWithdraw cur first affected).heardAt k d =
      if withdrawHits cur first affected k = true then (p.heardAt k d).map fun h => { h with amount := 0 } else p.heardAt k d := by
  have hkey (h : HeardTake) : (if withdrawHits cur first affected h.interval = true then { h with amount := 0 } else h).interval = h.interval ∧
      (if withdrawHits cur first affected h.interval = true then { h with amount := 0 } else h).dir = h.dir := by split <;> exact ⟨rfl, rfl⟩
  change (p.heard.map fun h => if withdrawHits cur first affected h.interval = true then { h with amount := 0 } else h).find?
    (fun h => h.interval == k && h.dir == d) = _
  rw [List.find?_map, List.find?_congr (p₂ := fun h => h.interval == k && h.dir == d) fun h _ => by
    simp only [Function.comp, (hkey h).1, (hkey h).2]]
  unfold Peer.heardAt
  cases hfind : p.heard.find? fun h => h.interval == k && h.dir == d with
  | none => simp
  | some h =>
    have hhk : h.interval = k := by
      have := List.find?_some hfind
      simp only [Bool.and_eq_true, beq_iff_eq] at this
      exact this.1
    by_cases hit : withdrawHits cur first affected k = true <;> simp [hhk, hit]

theorem takeWithdraw_status (cur first : Word) (affected : Byte) (p : Peer) : (p.takeWithdraw cur first affected).status =
    if affected = 0xFF ∧ first = cur ∧ p.status ≠ .stale then .withdrawn else p.status := by
  simp only [Peer.takeWithdraw, coversHorizon, Bool.and_eq_true, beq_iff_eq, and_assoc]

theorem withdrawUpdate_report (cur first : Word) (affected : Byte) (p : Peer) : (withdrawUpdate cur first affected p).2 =
    reportWhere cur fun k _ => (affectedIntervals first affected).any (· == k) ||
      (p.status != (p.takeWithdraw cur first affected).status && ((p.takeWithdraw cur first affected).entryAt k).isSome) := rfl

theorem exec_receivedWithdraw_eq {s : State} {n : Notice} {rest : List Notice} {reason : Reason} {first : Word} {affected : Byte}
    (hfront : FrontFrame s n rest) (hbody : n.body = .withdraw reason first affected) :
    exec .receivedWithdraw s = .next (takeFrame n (withdrawUpdate s.clock.current first affected) (dropFront s)) := by
  change execReceivedWithdraw s = _
  simp only [execReceivedWithdraw, dispatchable_of_front hfront, hbody]

theorem getD_fresh_ne_stale (o : Option PeerStatus) : o.getD .fresh ≠ .stale ↔ o ≠ some .stale := by
  cases o <;> simp

/-- Settles O40: the frames' taking is `takeFrame_spec`, the updates those of R81 and R82. -/
theorem takeAndWithdrawNoticesTaken : Obligations.TakeAndWithdrawNoticesTaken := by
  refine fun n rest s hfront hroom => ⟨fun k d issue amount hbody => takeNoticeTaken hfront hroom hbody, fun reason first affected hbody => ?_⟩
  obtain ⟨hstatus, -, -⟩ := headedPeer_body s n
  obtain ⟨hheader, hreports, -⟩ := takeFrame_spec hfront hroom (update := withdrawUpdate s.clock.current first affected)
    (names := fun k _ => inHorizon s.clock.current k &&
      ((List.range 8).any (fun o => affected.getLsbD o && k == first + BitVec.ofNat 16 o) ||
        (((headedPeer s n).takeWithdraw s.clock.current first affected).status !=
            ((findPeer s.view n.sender.toNat).map (·.status)).getD .fresh &&
          (((headedPeer s n).takeWithdraw s.clock.current first affected).entryAt k).isSome)))
    (fun _ => ⟨rfl, rfl, rfl⟩) (by rw [withdrawUpdate_report]; exact reportWhere_nodup _ _) fun k d => by
      have hset : ((affectedIntervals first affected).any (· == k)) =
          (List.range 8).any fun o => affected.getLsbD o && k == first + BitVec.ofNat 16 o := by
        rw [Bool.eq_iff_iff, mem_affectedIntervals]
        simp
      rw [withdrawUpdate_report, mem_reportWhere, Bool.and_eq_true, hset, ← hstatus, bne_comm]
  refine ⟨_, _, exec_receivedWithdraw_eq hfront hbody, hheader, fun k hit => ?_, fun k hit => ?_, fun k d hit => ?_, fun k d hit => ?_, ?_,
    hreports⟩
  · change ((headedPeer s n).takeWithdraw s.clock.current first affected).entryAt k = _
    rw [takeWithdraw_entryAt, if_pos (withdrawHits_iff.mpr hit), headedPeer_entryAt]
    rfl
  · change ((headedPeer s n).takeWithdraw s.clock.current first affected).entryAt k = _
    rw [takeWithdraw_entryAt, if_neg (mt withdrawHits_iff.mp hit), headedPeer_entryAt]
  · change ((headedPeer s n).takeWithdraw s.clock.current first affected).heardAt k d = _
    rw [takeWithdraw_heardAt, if_pos (withdrawHits_iff.mpr hit), headedPeer_heardAt]
  · change ((headedPeer s n).takeWithdraw s.clock.current first affected).heardAt k d = _
    rw [takeWithdraw_heardAt, if_neg (mt withdrawHits_iff.mp hit), headedPeer_heardAt]
  · change ((headedPeer s n).takeWithdraw s.clock.current first affected).status = _
    simp only [takeWithdraw_status, hstatus, getD_fresh_ne_stale]

end Sys2Proof.Machine


/-! PROOFS. A full view makes room for a frame by its oldest STALE record, or drops the frame (R79). -/

namespace Sys2Proof.Machine

/-! ### What acceptance keeps -/

theorem keepsRx (rx : List Notice) : AllocationKeeps fun t => t.line.rx = rx where
  raise _ _ h := by simpa using h
  entryDue _ _ h := h
  enqueueTake _ _ _ _ _ h := (enqueue_rx ..).trans h
  changeTake _ _ _ _ _ _ _ _ _ h := by simpa using h
  setEvalPending _ _ _ _ _ h := h
  applied _ _ _ _ _ _ h := h
  replaced _ _ _ _ _ _ _ _ h := h

theorem keepsFlag (e : Event) : AllocationKeeps fun t => flagSet e t = true where
  raise f s h := flagSet_raiseEvent_of f e s h
  entryDue _ _ h := h
  enqueueTake _ _ _ _ _ h := flagsKept_enqueue _ _ _ _ h
  changeTake _ _ _ _ x hr _ _ _ h := (allocatesAt_changeTake x hr).all.flags e h
  setEvalPending _ _ _ _ _ h := h
  applied _ _ _ _ _ _ h := h
  replaced _ _ _ _ _ _ _ _ h := h

/-! ### The record that makes room -/

/-- Of two STALE records the one that makes room before the other, or either of two that are the same in age and id (R79). -/
def Peer.Elder (a b : Peer) : Prop := b.ageMs < a.ageMs ∨ (b.ageMs = a.ageMs ∧ a.id ≤ b.id)

theorem Peer.Elder.trans {a b c : Peer} (h : a.Elder b) (h' : b.Elder c) : a.Elder c := by
  unfold Peer.Elder at *
  omega

theorem elder_olderStale (a b : Peer) : (olderStale a b).Elder a ∧ (olderStale a b).Elder b := by
  unfold olderStale Peer.Elder
  split_ifs <;> omega

theorem elder_foldl (p : Peer) (rest : List Peer) : ∀ q ∈ p :: rest, (rest.foldl olderStale p).Elder q := by
  induction rest generalizing p with
  | nil => simp [Peer.Elder]
  | cons r rest ih =>
    have hkept := ih (olderStale p r)
    have hfirst := hkept _ List.mem_cons_self
    intro q hq
    obtain rfl | hq := List.mem_cons.mp hq
    · exact hfirst.trans (elder_olderStale q r).1
    · obtain rfl | hq := List.mem_cons.mp hq
      · exact hfirst.trans (elder_olderStale p q).2
      · exact hkept q (List.mem_cons_of_mem _ hq)

theorem roomMaker_stale {view : List Peer} {p : Peer} (h : roomMaker view = some p) :
    ∀ q ∈ view, q.status = .stale → p.Elder q := by
  intro q hq hstale
  unfold roomMaker at h
  have hmem : q ∈ view.filter fun p => p.status == .stale := List.mem_filter.mpr ⟨hq, by simpa using hstale⟩
  split at h
  · cases h
  next first rest hlist =>
    obtain rfl := Option.some.inj h
    exact elder_foldl first rest q (hlist ▸ hmem)

theorem roomMaker_none_iff {view : List Peer} : roomMaker view = none ↔ ∀ p ∈ view, p.status ≠ .stale := by
  have hnil : roomMaker view = none ↔ (view.filter fun p => p.status == .stale) = [] := by
    unfold roomMaker
    split
    next h => simp [h]
    next h => simp [h]
  rw [hnil, List.filter_eq_nil_iff]
  simp

/-- Two records of one id in a view that holds each id once are the same. -/
theorem eq_of_id {view : List Peer} (hids : (view.map (·.id)).Nodup) {p q : Peer} (hp : p ∈ view) (hq : q ∈ view) (h : p.id = q.id) : p = q :=
  List.inj_on_of_nodup_map hids hp hq h

theorem roomMaker_eq {view : List Peer} {out : Peer} (hout : out ∈ view) (hstale : out.status = .stale) (hids : (view.map (·.id)).Nodup)
    (heldest : ∀ p ∈ view, p.status = .stale → p.ageMs < out.ageMs ∨ (p.ageMs = out.ageMs ∧ out.id ≤ p.id)) :
    roomMaker view = some out := by
  cases hmaker : roomMaker view with
  | none => exact absurd hstale (roomMaker_none_iff.mp hmaker out hout)
  | some p =>
    have hp := (roomMaker_mem hmaker).1
    have hpout := roomMaker_stale hmaker out hout hstale
    have hpstale := (roomMaker_mem hmaker).2
    have houtp := heldest p hp hpstale
    have hid : p.id = out.id := by
      unfold Peer.Elder at hpout
      omega
    rw [eq_of_id hids hp hout hid]

/-! ### Any dispatched frame -/

/-- The update of a frame's body at its sender's record, and its report: none for an AWARD. -/
def bodyUpdate (cur : Word) : NoticeBody → Peer → Peer × Report
  | .pledge first entries => pledgeUpdate cur first entries
  | .take k d issue amount => takeUpdate cur k d issue.toNat amount.toNat
  | .withdraw _ first affected => withdrawUpdate cur first affected
  | .award .. => fun p => (p, [])

theorem bodyUpdate_header (cur : Word) (b : NoticeBody) (p : Peer) : (bodyUpdate cur b p).1.id = p.id ∧
    (bodyUpdate cur b p).1.zone = p.zone ∧ (bodyUpdate cur b p).1.ageMs = p.ageMs := by
  cases b with
  | pledge first entries => exact ⟨rfl, rfl, rfl⟩
  | take k d issue amount =>
    unfold bodyUpdate takeUpdate
    dsimp only
    split <;> exact ⟨rfl, rfl, rfl⟩
  | withdraw reason first affected => exact ⟨rfl, rfl, rfl⟩
  | award => exact ⟨rfl, rfl, rfl⟩

theorem bodyUpdate_status (cur : Word) (b : NoticeBody) {p : Peer} (h : p.status ≠ .stale) : (bodyUpdate cur b p).1.status ≠ .stale := by
  cases b with
  | pledge first entries => exact nofun
  | take k d issue amount =>
    unfold bodyUpdate takeUpdate
    dsimp only
    split <;> exact h
  | withdraw reason first affected =>
    change (p.takeWithdraw cur first affected).status ≠ .stale
    rw [takeWithdraw_status]
    split
    · nofun
    · exact h
  | award => exact h

/-- What follows a frame's taking: an AWARD goes to the Allocation Unit (R95). -/
def thenAllocated : NoticeBody → State → State
  | .award k d issue band quantity compare mask, s =>
    (acceptAward k d ⟨issue.toNat, band.toNat, quantity.toNat, compare, mask, false⟩ s).1
  | .pledge .., s => s
  | .take .., s => s
  | .withdraw .., s => s

theorem exec_dispatched_eq {s : State} {n : Notice} {rest : List Notice} (hfront : FrontFrame s n rest) : exec (dispatchRow n.body) s =
    .next (thenAllocated n.body (takeFrame n (bodyUpdate s.clock.current n.body) (dropFront s))) := by
  cases hbody : n.body with
  | pledge first entries => exact exec_receivedPledge_eq hfront hbody
  | take k d issue amount => exact exec_receivedTake_eq hfront hbody
  | withdraw reason first affected => exact exec_receivedWithdraw_eq hfront hbody
  | award k d issue band quantity compare mask =>
    change execReceivedAward s = _
    simp only [execReceivedAward, dispatchable_of_front hfront, hbody]
    rfl

theorem thenAllocated_keeps {P : State → Prop} (h : AllocationKeeps P) (b : NoticeBody) {s : State} (hs : P s) : P (thenAllocated b s) := by
  cases b with
  | award => exact h.acceptAward hs
  | pledge | take | withdraw => exact hs

theorem thenAllocated_frame (b : NoticeBody) (s : State) : (thenAllocated b s).view = s.view ∧ (thenAllocated b s).pledge = s.pledge ∧
    (thenAllocated b s).pending = s.pending ∧ (dispatchRow b ≠ .receivedAward → (thenAllocated b s).table = s.table) := by
  cases b with
  | award => exact ⟨by simp [thenAllocated], by simp [thenAllocated], by simp [thenAllocated], fun h => absurd rfl h⟩
  | pledge | take | withdraw => exact ⟨rfl, rfl, rfl, fun _ => rfl⟩

/-! ### Room in a full view -/

theorem headerUpdate_of_full {cur zone : Word} {id : Nat} {view : List Peer} (hnew : findPeer view id = none) (hfull : 47 ≤ view.length) :
    headerUpdate cur id zone view =
      (roomMaker view).map fun out => (placePeer (newPeer id zone) (view.filter fun p => p.id != out.id), []) := by
  unfold headerUpdate
  rw [hnew]
  dsimp only
  rw [if_neg (by simpa [Config.viewLimit] using hfull)]
  cases roomMaker view <;> rfl

/-- A view with no STALE record drops the frame (R79). -/
theorem takeFrame_dropped {n : Notice} {update : Peer → Peer × Report} {s : State} (hnew : findPeer s.view n.sender.toNat = none)
    (hfull : 47 ≤ s.view.length) (hfresh : ∀ p ∈ s.view, p.status ≠ .stale) : takeFrame n update s = raiseEvent .viewFull s := by
  have hheader := headerUpdate_of_full (cur := s.clock.current) (zone := n.zone) hnew hfull
  rw [roomMaker_none_iff.mpr hfresh] at hheader
  simp only [takeFrame, hheader, Option.map_none]

/-- The view in which a new record has the place of another. -/
def replacedView (view : List Peer) (out : Peer) (new : Peer) : List Peer := placePeer new (view.filter fun p => p.id != out.id)

theorem length_replacedView {view : List Peer} {out : Peer} (hout : out ∈ view) (hids : (view.map (·.id)).Nodup) (new : Peer) :
    (replacedView view out new).length = view.length := by
  have hperm : view.Perm (out :: view.filter fun p => p.id != out.id) := by
    refine (List.perm_ext_iff_of_nodup (List.Nodup.of_map _ hids) ?_).mpr fun p => ?_
    · exact List.nodup_cons.mpr ⟨by simp, (List.Nodup.of_map _ hids).filter _⟩
    · rw [List.mem_cons, List.mem_filter]
      refine ⟨fun hp => ?_, fun h => h.elim (fun h => h ▸ hout) And.left⟩
      by_cases hid : p.id = out.id
      · exact .inl (eq_of_id hids hp hout hid)
      · exact .inr ⟨hp, by simpa using hid⟩
  rw [replacedView, length_placePeer, hperm.length_eq, List.length_cons]

/-- A frame taken at a full view whose oldest STALE record makes room: the sender's record takes its place, and no report of the
header's update reaches the records. -/
theorem takeFrame_replacing {n : Notice} {update : Peer → Peer × Report} {s : State} {out : Peer}
    (hnew : findPeer s.view n.sender.toNat = none) (hfull : 47 ≤ s.view.length) (hout : roomMaker s.view = some out) :
    takeFrame n update s = actOnReport (update (newPeer n.sender.toNat n.zone)).2 (s.setView
      (mapPeer n.sender.toNat (fun _ => (update (newPeer n.sender.toNat n.zone)).1)
        (replacedView s.view out (newPeer n.sender.toNat n.zone)))) := by
  have hheader := headerUpdate_of_full (cur := s.clock.current) (zone := n.zone) hnew hfull
  rw [hout] at hheader
  exact takeFrame_eq hheader (findPeer_placePeer (p := newPeer n.sender.toNat n.zone) fun q hq =>
    findPeer_none hnew q (List.mem_of_mem_filter hq))

theorem frontFrame_unique {s : State} {n n' : Notice} {rest rest' : List Notice} (h : FrontFrame s n rest) (h' : FrontFrame s n' rest') : n' = n :=
  (List.cons.inj (h'.2.1.symm.trans h.2.1)).1

/-- Settles O41: the two ways of a full view are `takeFrame_dropped` and `takeFrame_replacing`. -/
theorem fullViewMakesRoom : Obligations.FullViewMakesRoom := by
  intro n rest i s hfront hdue hfull hnew
  have hi : i = dispatchRow n.body := by
    obtain ⟨n', rest', hfront', hi⟩ := (mem_dueDispatch s i).mp (by simp [hdue])
    rwa [frontFrame_unique hfront hfront'] at hi
  have hrx : (dropFront s).line.rx = rest := by
    change s.line.rx.drop 1 = rest
    rw [hfront.2.1]
    rfl
  have hexec := exec_dispatched_eq hfront
  rw [← hi] at hexec
  refine ⟨fun hfresh => ⟨_, hexec, ?_⟩, fun out hout hstale hids heldest => ⟨_, hexec, ?_⟩⟩
  · rw [takeFrame_dropped (s := dropFront s) hnew hfull.ge hfresh]
    obtain ⟨hview, hpledge, hpending, htable⟩ := thenAllocated_frame n.body (raiseEvent .viewFull (dropFront s))
    refine ⟨hview.trans (by simp [dropFront]), thenAllocated_keeps (keepsRx rest) _ (by simpa using hrx),
      thenAllocated_keeps (keepsFlag .viewFull) _ (flagSet_raiseEvent ..), fun hne => ?_, hpledge.trans (by simp [dropFront]),
      hpending.trans (by simp [dropFront])⟩
    rw [htable (hi ▸ hne)]
    simp [dropFront]
  · have hmaker := roomMaker_eq hout hstale hids heldest
    rw [takeFrame_replacing (s := dropFront s) hnew hfull.ge hmaker]
    generalize hp : newPeer n.sender.toNat n.zone = p
    obtain ⟨hid, hzone, hage⟩ := bodyUpdate_header s.clock.current n.body p
    have hstatus : (bodyUpdate s.clock.current n.body p).1.status ≠ .stale := bodyUpdate_status _ _ (by rw [← hp]; nofun)
    generalize hq : (bodyUpdate s.clock.current n.body p).1 = q at hid hzone hage hstatus
    generalize hv : (dropFront s).setView (mapPeer n.sender.toNat (fun _ => q) (replacedView (dropFront s).view out p)) = v
    have hpid : p.id = n.sender.toNat := by rw [← hp]; rfl
    have hqid : q.id = n.sender.toNat := hid.trans hpid
    have hothers : ∀ r ∈ s.view, r.id ≠ n.sender.toNat := findPeer_none hnew
    obtain ⟨hview, hpledge, hpending, -⟩ :=
      thenAllocated_frame n.body (actOnReport (bodyUpdate s.clock.current n.body p).2 v)
    have hview : (thenAllocated n.body (actOnReport (bodyUpdate s.clock.current n.body p).2 v)).view =
        mapPeer n.sender.toNat (fun _ => q) (replacedView s.view out p) := by
      rw [hview, (actOnReport_frame ..).2.2.2.1, ← hv]
      rfl
    have hvrest : v.line.rx = rest ∧ v.pledge = s.pledge ∧ v.pending = s.pending := by
      rw [← hv]
      exact ⟨hrx, rfl, rfl⟩
    refine ⟨?_, ?_, ⟨q, ?_, hzone.trans (by rw [← hp]; rfl), hage.trans (by rw [← hp]; rfl), hstatus⟩, ?_, fun r hr hne => ?_, ?_, ?_⟩
    · rw [hview, mapPeer, List.length_map, length_replacedView hout hids, hfull]
    · exact thenAllocated_keeps (keepsRx rest) _ ((keepsRx rest).actOnReport _ hvrest.1)
    · rw [hview, findPeer_mapPeer fun _ _ => hqid, ← hpid, replacedView,
        findPeer_placePeer fun r hr => hpid ▸ hothers r (List.mem_of_mem_filter hr)]
      rfl
    · have hne : out.id ≠ n.sender.toNat := hothers out hout
      rw [hview, findPeer_mapPeer_of_ne (fun _ _ => hqid) hne, replacedView, findPeer_placePeer_of_ne (by rwa [hpid])]
      exact findPeer_filter_self
    · rw [hview]
      refine List.mem_map.mpr ⟨r, mem_placePeer.mpr (.inr (List.mem_filter.mpr ⟨hr, ?_⟩)), if_neg (hothers r hr)⟩
      simpa using fun hid => hne (eq_of_id hids hr hout hid)
    · rw [hpledge, (actOnReport_frame ..).2.2.1, hvrest.2.1]
    · rw [hpending, (actOnReport_frame ..).2.2.2.2.2.2.2, hvrest.2.2]

end Sys2Proof.Machine


/-! PROOFS. An award that meets a record (R95 to R100, R106): the record by Table 6-3, and in ACTIVE its merit take. -/

namespace Sys2Proof.Machine

/-! ### The record after its merit take -/

/-- What the Allocation Unit's own work leaves of a record. -/
theorem fields_of_fixed {r u : CRecord} (h : u.fixed = r.fixed) : u.interval = r.interval ∧ u.dir = r.dir ∧ u.state = r.state ∧
    u.live = r.live ∧ u.frozen = r.frozen ∧ u.frozenBand = r.frozenBand ∧ u.cap = r.cap ∧ u.award = r.award ∧ u.withdrawn = r.withdrawn := by
  simp only [CRecord.fixed, CRecord.mk.injEq] at h
  exact ⟨h.1, h.2.1, h.2.2.1, h.2.2.2.1, h.2.2.2.2.1, h.2.2.2.2.2.1, h.2.2.2.2.2.2.1, h.2.2.2.2.2.2.2.1, by simpa using h.2.2.2.2.2.2.2.2⟩

/-- A record with the pieces that an allocation writes taken from another. -/
def CRecord.restored (v u : CRecord) : CRecord := { u with take := v.take, hold := v.hold, evalPending := v.evalPending, run := v.run }

theorem takeChanged_restored (c : StationConfig) (x : Nat) (v r : CRecord) : v.restored (takeChanged c x r) = v.restored r := by
  unfold takeChanged
  split <;> rfl

theorem triggeredRecord_restored (c : StationConfig) (ms : List Member) (a : Award) (locked : Bool) (v r : CRecord) :
    v.restored (triggeredRecord c ms a locked r) = v.restored r := by
  unfold triggeredRecord evaluatedRecord
  split
  · rfl
  · exact takeChanged_restored ..

theorem allocatedRecord_restored (c : StationConfig) (ms : List Member) (a : Award) (v r : CRecord) :
    v.restored (allocatedRecord c ms a r) = v.restored r :=
  (triggeredRecord_restored ..).trans (takeChanged_restored ..)

/-- An allocated record but for what the allocation writes. -/
theorem restored_fields {v r u : CRecord} (h : v.restored u = v.restored r) : u.fixed = r.fixed ∧ u.lastSent = r.lastSent := by
  simp only [CRecord.restored, CRecord.mk.injEq] at h
  refine ⟨?_, h.2.2.2.2.2.2.2.2.2.1⟩
  simp only [CRecord.fixed, CRecord.mk.injEq]
  simp [h]

/-- A changed merit take starts the hold, so that the trigger only sets the pending flag. -/
theorem allocatedRecord_changed {c : StationConfig} {ms : List Member} {a : Award} {r : CRecord} (h : meritOf ms a r ≠ r.take) :
    (allocatedRecord c ms a r).take = meritOf ms a r ∧ (allocatedRecord c ms a r).hold = some (2000 + c.stationId % 16 * 250) := by
  have hhold : (takeChanged c (meritOf ms a r) r).hold = some (2000 + c.stationId % 16 * 250) := by
    unfold takeChanged
    rw [if_neg h]
  unfold allocatedRecord triggeredRecord
  rw [if_pos (.inl (by rw [hhold]; rfl))]
  exact ⟨takeChanged_take .., hhold⟩

/-- The conflict flag of an award plays no part in its allocation. -/
theorem allocatedRecord_flag (c : StationConfig) (view : List Peer) (k : Word) (d : Direction) (a : Award) (b : Bool) (r : CRecord) :
    allocatedRecord c (membersFor view k d { a with conflict := b }) { a with conflict := b } r =
      allocatedRecord c (membersFor view k d a) a r := rfl

/-! ### An award stored -/

/-- The incoming award is stored: applied, or the greater of a conflict. -/
def StoredOver (a : Award) (v : CRecord) : Prop :=
  ∀ h ∈ v.award, h.issue < a.issue ∨ (h.issue = a.issue ∧ a.sameContent h = false ∧ a.greater h = true)

/-- A rewrite of a record's award and what is frozen with it. -/
structure Awards (f : CRecord → CRecord) : Prop where
  key : ∀ r, (f r).interval = r.interval ∧ (f r).dir = r.dir
  kept : ∀ r, r.restored (f r) = f r
  lastSent : ∀ r, (f r).lastSent = r.lastSent
  withdrawn : ∀ r, (f r).withdrawn = r.withdrawn

section
variable {k : Word} {d : Direction} {v : CRecord} {s : State}

/-- A record with its award rewritten and an event raised. -/
def awardStored (k : Word) (d : Direction) (e : Event) (f : CRecord → CRecord) (s : State) : State := raiseEvent e (s.updRec k d f)

theorem awardStored_frame (e : Event) (f : CRecord → CRecord) : (awardStored k d e f s).ctrl = s.ctrl ∧
    (awardStored k d e f s).view = s.view ∧ (awardStored k d e f s).pledge = s.pledge ∧ (awardStored k d e f s).line = s.line ∧
    (awardStored k d e f s).act = s.act ∧ (awardStored k d e f s).mon = s.mon := by
  simp [awardStored]

theorem awardStored_found {f : CRecord → CRecord} (hf : Awards f) (e : Event) (hv : findRec s.table k d = some v) :
    findRec (awardStored k d e f s).table k d = some (f v) := by
  simpa [awardStored] using findRec_updRec hf.key hv

theorem awardStored_others {f : CRecord → CRecord} (hf : Awards f) (e : Event) {k' : Word} {d' : Direction} (hne : (k', d') ≠ (k, d)) :
    findRec (awardStored k d e f s).table k' d' = findRec s.table k' d' := by
  simpa [awardStored] using findRec_updRec_of_ne (s := s) hf.key hne

/-- What becomes of the record of (k, d), `w` once the award is stored, and what else stands. -/
structure StoredAs (k : Word) (d : Direction) (a : Award) (v w u : CRecord) (s t : State) : Prop where
  found : findRec t.table k d = some u
  fixed : u.fixed = w.fixed
  allocated : AwardAllocated a v u s t
  others : ∀ k' d', (k', d') ≠ (k, d) → findRec t.table k' d' = findRec s.table k' d'
  still : s.ctrl.station ≠ .active → t.line = s.line ∧ t.act = s.act ∧ t.mon = s.mon

/-- An award stored with no allocation to follow, outside ACTIVE or for the lesser of a conflict. -/
theorem awardStored_alone {f : CRecord → CRecord} (hf : Awards f) (e : Event) (hv : findRec s.table k d = some v) {a : Award}
    (hnot : ¬ (s.ctrl.station = .active ∧ StoredOver a v)) : StoredAs k d a v (f v) (f v) s (awardStored k d e f s) := by
  obtain ⟨-, -, -, hline, hact, hmon⟩ := awardStored_frame (k := k) (d := d) (s := s) e f
  exact ⟨awardStored_found hf e hv, rfl, ⟨hf.lastSent v, hf.withdrawn v, fun h => absurd h hnot, fun _ => (hf.kept v).symm⟩,
    fun k' d' hne => awardStored_others hf e hne, fun _ => ⟨hline, hact, hmon⟩⟩

theorem takeTested_of_queue {xs : List Nat} {r : CRecord} {s u t : State} (hqueue : u.line.queue = s.line.queue) (h : TakeTested xs r u t) :
    TakeTested xs r s t := by
  unfold TakeTested at *
  rwa [hqueue] at h

/-- An award stored, and in ACTIVE its merit take and trigger (R99, R106). -/
theorem awardStored_allocated {f : CRecord → CRecord} (hf : Awards f) (e : Event) (hv : findRec s.table k d = some v) (hfree : busy s = false)
    {a : Award} (hstored : StoredOver a v) {b : Bool} (haward : (f v).award = some { a with conflict := b }) :
    ∃ u, StoredAs k d a v (f v) u s (meritAndTrigger (awardStored k d e f s) (k, d)) := by
  obtain ⟨hctrl, hview, hpledge, hline, hact, hmon⟩ := awardStored_frame (k := k) (d := d) (s := s) e f
  by_cases hactive : s.ctrl.station = .active
  · obtain ⟨hall, hpair, haside⟩ := meritAndTrigger_spec (awardStored_found hf e hv) haward ((isActive_iff _).mpr (hctrl ▸ hactive))
      (by rw [← hfree]; simp [busy, hpledge])
    rw [hctrl, hview, allocatedRecord_flag] at hpair
    generalize hu : allocatedRecord s.ctrl.config (membersFor s.view k d a) a (f v) = u at hpair
    generalize meritAndTrigger (awardStored k d e f s) (k, d) = t at hall hpair haside
    obtain ⟨-, hk, hd⟩ := findRec_some hv
    have hms : membersFor t.view v.interval v.dir a = membersFor s.view k d a := by rw [hall.view, hview, hk, hd]
    have hrestored : v.restored u = f v := by
      rw [← hu, allocatedRecord_restored]
      exact hf.kept v
    have hfields := restored_fields (hrestored.trans (hf.kept v).symm)
    have htake : (f v).take = v.take := by rw [← hf.kept v]; rfl
    refine ⟨u, hpair.after, hfields.1, ⟨hfields.2.trans (hf.lastSent v), ?_, fun _ => ⟨?_, fun hne => hpair.raised (by rwa [htake]), ?_⟩,
      fun hnot => absurd ⟨hactive, hstored⟩ hnot⟩, fun k' d' hne => (haside.records k' d' hne).trans (awardStored_others hf e hne),
      fun hnot => absurd hactive hnot⟩
    · exact (fields_of_fixed hfields.1).2.2.2.2.2.2.2.2.trans (hf.withdrawn v)
    · change u = allocatedRecord _ _ a (v.restored u)
      rw [hms, hrestored, hu]
    · change TakeTested [meritOf _ a (v.restored u), u.take] u s t
      rw [hms, hrestored]
      refine takeTested_of_queue (congrArg _ hline) (takeTested_congr (fields_of_fixed hfields.1).1 (fields_of_fixed hfields.1).2.1 hfields.2
        (hpair.tested fun x => ?_))
      change _ ↔ x ∈ meritOf (membersFor s.view k d a) a (f v) :: changeTest (takeChanged _ (meritOf (membersFor s.view k d a) a (f v)) (f v)) u
      unfold changeTest
      rw [takeChanged_take]
      split
      next hsame => simp [hsame]
      next => rfl
  · refine ⟨f v, ?_⟩
    rw [meritAndTrigger, if_neg (by simpa [isActive, hctrl] using hactive)]
    exact awardStored_alone hf e hv fun h => hactive h.1

/-! ### The comparison with the held award -/

theorem awards_withApplied (band : Nat) (a : Award) : Awards fun r => r.withApplied band a where
  key r := (withApplied_fields r band a).2
  kept r := by unfold CRecord.withApplied; split <;> rfl
  lastSent r := by unfold CRecord.withApplied; split <;> rfl
  withdrawn r := by unfold CRecord.withApplied; split <;> rfl

theorem awards_replaced (a : Award) : Awards fun r => { r with award := some a } :=
  ⟨fun _ => ⟨rfl, rfl⟩, fun _ => rfl, fun _ => rfl, fun _ => rfl⟩

theorem withApplied_states (r : CRecord) (band : Nat) (a : Award) :
    (r.state = .running → (r.withApplied band a).state = .running) ∧ (r.state ≠ .running → (r.withApplied band a).state = .awarded) ∧
    (r.state = .opened → (r.withApplied band a).live = none ∧ (r.withApplied band a).frozen = some (r.live.getD 0) ∧
      (r.withApplied band a).cap = some (r.live.getD 0) ∧ (r.withApplied band a).frozenBand = some band) ∧
    (r.state ≠ .opened → (r.withApplied band a).frozen = r.frozen ∧ (r.withApplied band a).cap = r.cap ∧
      (r.withApplied band a).frozenBand = r.frozenBand) := by
  cases h : r.state <;> simp [CRecord.withApplied, h]

/-- What an award leaves of the record it meets (Table 6-3). -/
structure AwardTaken (k : Word) (d : Direction) (a : Award) (v u : CRecord) (s t : State) : Prop where
  found : findRec t.table k d = some u
  met : AwardMet a (bandOf s.pledge d) v u t
  allocated : AwardAllocated a v u s t
  others : ∀ k' d', (k', d') ≠ (k, d) → findRec t.table k' d' = findRec s.table k' d'
  still : s.ctrl.station ≠ .active → t.line = s.line ∧ t.act = s.act ∧ t.mon = s.mon

theorem flagSet_meritAndTrigger (e : Event) (f : CRecord → CRecord) : flagSet e (meritAndTrigger (awardStored k d e f s) (k, d)) = true :=
  (keepsFlag e).meritAndTrigger _ (flagSet_raiseEvent ..)

theorem applyAward_spec {a : Award} (hv : findRec s.table k d = some v) (hfree : busy s = false) (hnewer : ∀ h ∈ v.award, h.issue < a.issue) :
    ∃ u, AwardTaken k d a v u s (applyAward k d a s) := by
  obtain ⟨u, hfound, hfixed, hallocated, hothers, hstill⟩ := awardStored_allocated (awards_withApplied (bandOf s.pledge d) { a with conflict := false })
    .award hv hfree (fun h hh => .inl (hnewer h hh)) (b := false) (withApplied_fields ..).1
  obtain ⟨hrunning, hawarded, hopen, hcommitted⟩ := withApplied_states v (bandOf s.pledge d) { a with conflict := false }
  obtain ⟨-, -, hstate, hlive, hfrozen, hband, hcap, haward, -⟩ := fields_of_fixed hfixed
  have hflag : flagSet .award (applyAward k d a s) = true := flagSet_meritAndTrigger _ _
  rw [← hstate] at hrunning hawarded
  rw [← hlive, ← hfrozen, ← hband, ← hcap] at hopen
  rw [← hfrozen, ← hband, ← hcap] at hcommitted
  have happlied := And.intro (haward.trans (withApplied_fields ..).1) (And.intro hflag (And.intro hrunning (And.intro hawarded
    (And.intro hopen hcommitted))))
  refine ⟨u, hfound, ⟨fun _ => happlied, fun h hh => ⟨fun _ => happlied, fun hlow => ?_, fun hsame => ?_, fun hsame => ?_⟩⟩, hallocated, hothers, hstill⟩
  all_goals
    have := hnewer h hh
    omega

theorem conflictAward_spec {a held : Award} (hv : findRec s.table k d = some v) (hfree : busy s = false) (hheld : v.award = some held)
    (hissue : a.issue = held.issue) (hcontent : a.sameContent held = false) : ∃ u, AwardTaken k d a v u s (conflictAward k d a held s) := by
  have hmember {h : Award} (hh : h ∈ v.award) : h = held := Option.some.inj (hh.symm.trans hheld)
  have hresult : ∃ u, StoredAs k d a v { v with award := some { (if a.greater held then a else held) with conflict := true } } u s
      (conflictAward k d a held s) ∧ flagSet .awardConflict (conflictAward k d a held s) = true := by
    by_cases hgreater : a.greater held = true
    · have hconflict : conflictAward k d a held s = meritAndTrigger (awardStored k d .awardConflict
          (fun r => { r with award := some { a with conflict := true } }) s) (k, d) := by
        simp only [conflictAward, hgreater, if_true]
        rfl
      obtain ⟨u, hu⟩ := awardStored_allocated (awards_replaced { a with conflict := true }) .awardConflict hv hfree (a := a)
        (fun h hh => by rw [hmember hh]; exact .inr ⟨hissue.symm, hcontent, hgreater⟩) (b := true) rfl
      rw [hconflict, if_pos hgreater]
      exact ⟨u, hu, flagSet_meritAndTrigger _ _⟩
    · have hconflict : conflictAward k d a held s = awardStored k d .awardConflict
          (fun r => { r with award := some { held with conflict := true } }) s := by
        simp only [conflictAward, hgreater]
        rfl
      rw [hconflict, if_neg hgreater]
      refine ⟨_, awardStored_alone (awards_replaced { held with conflict := true }) .awardConflict hv fun h => ?_, flagSet_raiseEvent ..⟩
      obtain hlower | ⟨-, -, hstored⟩ := h.2 held hheld
      · omega
      · exact hgreater hstored
  obtain ⟨u, ⟨hfound, hfixed, hallocated, hothers, hstill⟩, hflag⟩ := hresult
  obtain ⟨-, -, hstate, -, -, -, -, haward, -⟩ := fields_of_fixed hfixed
  refine ⟨u, hfound, ⟨fun hnone => ?_, fun h hh => ?_⟩, hallocated, hothers, hstill⟩
  · cases hnone.symm.trans hheld
  · rw [hmember hh]
    refine ⟨fun hlow => by omega, fun hhigh => by omega, fun _ hsame => ?_, fun _ _ => ⟨haward, hstate, hflag⟩⟩
    rw [hcontent] at hsame
    cases hsame

/-- An award that leaves the record it meets: a stale one, or a duplicate. -/
theorem awardTaken_refl {a held : Award} (hv : findRec s.table k d = some v) (hheld : v.award = some held)
    (hleft : a.issue < held.issue ∨ (a.issue = held.issue ∧ a.sameContent held = true)) : AwardTaken k d a v v s s := by
  have hmember {h : Award} (hh : h ∈ v.award) : h = held := Option.some.inj (hh.symm.trans hheld)
  have hnot : ¬ (s.ctrl.station = .active ∧ StoredOver a v) := by
    rintro ⟨-, hstored⟩
    obtain hlower | ⟨hsame, hcontent, -⟩ := hstored held hheld
    · omega
    · obtain hlow | ⟨-, hsameContent⟩ := hleft
      · omega
      · rw [hcontent] at hsameContent
        cases hsameContent
  refine ⟨hv, ⟨fun hnone => ?_, fun h hh => ?_⟩, ⟨rfl, rfl, fun h => absurd h hnot, fun _ => rfl⟩, fun _ _ _ => rfl, fun _ => ⟨rfl, rfl, rfl⟩⟩
  · cases hnone.symm.trans hheld
  · rw [hmember hh]
    refine ⟨fun hlow => by omega, fun _ => ⟨hheld, rfl⟩, fun _ _ => ⟨hheld, rfl⟩, fun hsame hcontent => ?_⟩
    obtain hlow | ⟨-, hsameContent⟩ := hleft
    · omega
    · rw [hcontent] at hsameContent
      cases hsameContent

/-- Table 6-3: what an award does to the record it meets, and its outcome. -/
theorem compareAward_spec {a : Award} (hv : findRec s.table k d = some v) (hfree : busy s = false) :
    (∃ u, AwardTaken k d a v u s (compareAward k d a v s).1) ∧
    ((compareAward k d a v s).2 = some .applied ↔ ∀ h ∈ v.award, h.issue < a.issue) ∧
    ((compareAward k d a v s).2 = some .duplicate ↔ ∃ h ∈ v.award, h.issue = a.issue ∧ a.sameContent h = true) := by
  unfold compareAward
  cases hheld : v.award with
  | none =>
    refine ⟨applyAward_spec hv hfree fun h hh => ?_, by simp, by simp⟩
    cases hheld.symm.trans hh
  | some held =>
    have hmember {h : Award} (hh : h ∈ v.award) : h = held := Option.some.inj (hh.symm.trans hheld)
    dsimp only
    split_ifs with hnewer holder hsame
    · refine ⟨applyAward_spec hv hfree fun h hh => by rw [hmember hh]; exact hnewer, by simp [hnewer], ?_⟩
      simp only [Option.mem_def, Option.some.injEq, exists_eq_left', reduceCtorEq, false_iff, not_and]
      omega
    · refine ⟨⟨v, awardTaken_refl hv hheld (.inl holder)⟩, ?_, ?_⟩
      · simp; omega
      · simp; omega
    · have hissue : a.issue = held.issue := by omega
      exact ⟨⟨v, awardTaken_refl hv hheld (.inr ⟨hissue, hsame⟩)⟩, by simp [hissue], by simp [hissue, hsame]⟩
    · have hissue : a.issue = held.issue := by omega
      exact ⟨conflictAward_spec hv hfree hheld hissue (by simpa using hsame), by simp [hissue], by simp [hsame]⟩

end

end Sys2Proof.Machine


/-! PROOFS. A received AWARD (R78, R79, R95): its header at the view, then the record it names. -/

namespace Sys2Proof.Machine

/-! ### What acceptance keeps of keys and log -/

theorem keepsKeys (keys : List (Word × Direction)) : AllocationKeeps fun t => recordKeys t.table = keys where
  raise _ _ h := by simpa using h
  entryDue _ _ h := h
  enqueueTake _ _ _ _ _ h := by simpa using h
  changeTake _ _ _ _ x hr _ _ _ h := (recordKeys_of_fixed (allocatesAt_changeTake x hr).all.fixed).trans h
  setEvalPending _ _ _ _ _ h := (recordKeys_of_fixed (setEvalPending_fixed ..)).trans h
  applied _ _ _ _ _ _ h := (recordKeys_mapRec _ _ _ _ (awards_withApplied ..).key).trans h
  replaced _ _ _ _ _ a _ _ h := (recordKeys_mapRec _ _ _ _ (awards_replaced a).key).trans h

theorem keepsLog (log : List Settlement) : AllocationKeeps fun t => t.host.log = log where
  raise _ _ h := by simpa using h
  entryDue _ _ h := h
  enqueueTake _ _ _ _ _ h := by simpa using h
  changeTake _ _ _ _ x hr _ _ _ h := (allocatesAt_changeTake x hr).all.log.trans h
  setEvalPending _ _ _ _ _ h := h
  applied _ _ _ _ _ _ h := h
  replaced _ _ _ _ _ _ _ _ h := h

/-! ### The record met, told of an earlier moment -/

/-- Table 6-3 speaks of a record's award, state and frozen values alone, and of flags that stand. -/
theorem AwardMet.congr {a : Award} {band : Nat} {r v u : CRecord} {t t' : State} (hfixed : v.fixed = r.fixed) (hflags : FlagsKept t t')
    (h : AwardMet a band v u t) : AwardMet a band r u t' := by
  obtain ⟨-, -, hstate, hlive, hfrozen, hband, hcap, haward, -⟩ := fields_of_fixed hfixed
  rw [AwardMet, haward, hstate, hlive, hfrozen, hband, hcap] at h
  have happlied {A B C D E : Prop} (h : A ∧ flagSet .award t = true ∧ B ∧ C ∧ D ∧ E) : A ∧ flagSet .award t' = true ∧ B ∧ C ∧ D ∧ E :=
    ⟨h.1, hflags _ h.2.1, h.2.2⟩
  refine ⟨fun hnone => happlied (h.1 hnone), fun held hheld => ?_⟩
  obtain ⟨hnewer, holder, hsame, hconflict⟩ := h.2 held hheld
  refine ⟨fun hlow => happlied (hnewer hlow), holder, hsame, fun hissue hcontent => ?_⟩
  obtain ⟨hu, hust, hflag⟩ := hconflict hissue hcontent
  exact ⟨hu, hust, hflags _ hflag⟩

theorem findRec_fixed {t u : List CRecord} (h : fixedTable t = fixedTable u) (k : Word) (d : Direction) :
    (findRec t k d).map CRecord.fixed = (findRec u k d).map CRecord.fixed := by
  have hread (l : List CRecord) : (findRec l k d).map CRecord.fixed = findRec (fixedTable l) k d := by
    rw [fixedTable, findRec, findRec, List.find?_map]
    rfl
  rw [hread, hread, h]

/-! ### The header of a received AWARD -/

section
variable {s : State} {n : Notice} {rest : List Notice}

theorem dropFront_rx (hfront : FrontFrame s n rest) : (dropFront s).line.rx = rest := by
  change s.line.rx.drop 1 = rest
  rw [hfront.2.1]
  rfl

/-- The state after the header of a received AWARD, which has no body for the view. -/
def awardHeader (n : Notice) (s : State) : State := takeFrame n (fun p => (p, [])) (dropFront s)

/-- A view without room drops the frame, or puts the sender's record in the place of a STALE one; neither names a pair. -/
theorem awardHeader_of_full (hroom : ¬ HasRoom s n) :
    (roomMaker s.view = none ∧ awardHeader n s = raiseEvent .viewFull (dropFront s)) ∨
    ∃ out view, roomMaker s.view = some out ∧ (findPeer view n.sender.toNat).isSome = true ∧ awardHeader n s = (dropFront s).setView view := by
  obtain ⟨hnew, hfull⟩ := not_or.mp hroom
  have hnew : findPeer s.view n.sender.toNat = none := by simpa using hnew
  have hfull : 47 ≤ s.view.length := by omega
  cases hmaker : roomMaker s.view with
  | none => exact .inl ⟨rfl, takeFrame_dropped (s := dropFront s) hnew hfull (roomMaker_none_iff.mp hmaker)⟩
  | some out =>
    refine .inr ⟨out, _, rfl, ?_, takeFrame_replacing (s := dropFront s) (update := fun p => (p, [])) hnew hfull hmaker⟩
    have hplaced : findPeer (replacedView s.view out (newPeer n.sender.toNat n.zone)) n.sender.toNat = some (newPeer n.sender.toNat n.zone) :=
      findPeer_placePeer (p := newPeer n.sender.toNat n.zone) fun q hq => findPeer_none hnew q (List.mem_of_mem_filter hq)
    have hmapped := findPeer_mapPeer (f := fun _ => newPeer n.sender.toNat n.zone)
      (view := replacedView s.view out (newPeer n.sender.toNat n.zone)) (id := n.sender.toNat) fun _ _ => rfl
    rw [hplaced] at hmapped
    exact Option.isSome_iff_exists.mpr ⟨_, hmapped⟩

theorem awardHeader_of_room (hfront : FrontFrame s n rest) (hroom : HasRoom s n) :
    HeaderTaken s (awardHeader n s) n rest (headedPeer s n) ∧ ReportsActed (zoneNames s n) (fun _ _ => false) s (awardHeader n s) ∧
      Allocates ((dropFront s).setView (awardHeader n s).view) (awardHeader n s) :=
  takeFrame_spec hfront hroom (update := fun p => (p, [])) (fun _ => ⟨rfl, rfl, rfl⟩) List.nodup_nil (by simp)

/-- What the header leaves, with room or without. -/
structure HeaderKept (s m : State) (rest : List Notice) : Prop where
  rx : m.line.rx = rest
  fixed : fixedTable m.table = fixedTable s.table
  ctrl : m.ctrl = s.ctrl
  clock : m.clock = s.clock
  pledge : m.pledge = s.pledge
  freq : m.freq = s.freq
  log : m.host.log = s.host.log
  due : m.entryTakesDue = s.entryTakesDue
  pending : m.pending = s.pending

theorem awardHeader_kept (hfront : FrontFrame s n rest) : HeaderKept s (awardHeader n s) rest := by
  have hkept (view : List Peer) : HeaderKept s ((dropFront s).setView view) rest := ⟨dropFront_rx hfront, rfl, rfl, rfl, rfl, rfl, rfl, rfl, rfl⟩
  by_cases hroom : HasRoom s n
  · obtain ⟨-, -, hall⟩ := awardHeader_of_room hfront hroom
    obtain ⟨hrx, hfixed, hctrl, hclock, hpledge, hfreq, hlog, hdue, hpending⟩ := hkept (awardHeader n s).view
    exact ⟨hall.rx.trans hrx, hall.fixed.trans hfixed, hall.ctrl.trans hctrl, hall.clock.trans hclock, hall.pledge.trans hpledge,
      hall.freq.trans hfreq, hall.log.trans hlog, hall.due.trans hdue, hall.pending.trans hpending⟩
  · obtain ⟨-, hdropped⟩ | ⟨_, view, -, -, hreplaced⟩ := awardHeader_of_full hroom
    · rw [hdropped]
      exact ⟨by simpa using dropFront_rx hfront, by simp [dropFront], by simp [dropFront], by simp [dropFront], by simp [dropFront],
        by simp [dropFront], by simp [dropFront], by simp [dropFront], by simp [dropFront]⟩
    · rw [hreplaced]
      exact hkept view

/-! ### The award -/

theorem exec_receivedAward_eq {k : Word} {d : Direction} {issue : Byte} {band : BitVec 4} {quantity compare mask : Word}
    (hfront : FrontFrame s n rest) (hbody : n.body = .award k d issue band quantity compare mask) : exec .receivedAward s =
      .next (acceptAward k d ⟨issue.toNat, band.toNat, quantity.toNat, compare, mask, false⟩ (awardHeader n s)).1 := by
  have hexec := exec_dispatched_eq hfront
  rw [hbody] at hexec
  exact hexec

theorem awardConcerns_iff {k : Word} {a : Award} {m : State} (hjoined : m.ctrl.station ≠ .unjoined) : awardConcerns k a m = true ↔
    m.ctrl.station ≠ .leaving ∧ inHorizon (tableFirst m) k = true ∧ (m.ctrl.config.zone ^^^ a.compare) &&& ~~~a.mask = 0 := by
  simp only [awardConcerns, Bool.and_eq_true, Bool.or_eq_true, beq_iff_eq, zoneMatch, and_assoc]
  cases hstation : m.ctrl.station <;> simp_all

end

/-- Settles O33: the header is `awardHeader`, the record met that of `compareAward_spec`. -/
theorem receivedAwardMeetsRecord : Obligations.ReceivedAwardMeetsRecord := by
  intro n rest k d issue band quantity compare mask s hlaw hfront hbody a old concerns kept
  have hm := awardHeader_kept hfront
  have hfirst : tableFirst (awardHeader n s) = tableFirst s := by rw [tableFirst, hm.pledge, hm.clock]; rfl
  have hjoined : (awardHeader n s).ctrl.station ≠ .unjoined := by rw [hm.ctrl]; exact hfront.1
  have hconcerns : awardConcerns k a (awardHeader n s) = true ↔ concerns := by
    rw [awardConcerns_iff hjoined, hm.ctrl, hfirst]
  have hkeys := recordKeys_of_fixed hm.fixed
  refine ⟨awardHeader n s, _, exec_receivedAward_eq hfront hbody,
    ⟨hm.rx, hkeys, hm.ctrl, hm.clock, hm.pledge, hm.freq, hm.log, hm.due, hm.pending⟩,
    ⟨(keepsRx rest).acceptAward hm.rx, (keepsKeys _).acceptAward hkeys, by simp [hm.ctrl], by simp [hm.clock], by simp [hm.pledge],
      by simp [hm.freq], (keepsLog _).acceptAward hm.log, by simp [hm.due], by simp [hm.pending]⟩, by simp,
    fun hroom => ?_, fun hroom => ?_, fun hnot => ?_, fun hcon r v hr hv => ?_⟩
  · obtain ⟨hheader, hreports, -⟩ := awardHeader_of_room hfront hroom
    obtain ⟨hstatus, hentries, hheard⟩ := headedPeer_body s n
    exact ⟨_, hheader, hstatus, hentries, hheard, hreports⟩
  · have hline : (dropFront s).line = { s.line with rx := rest } := by
      rw [← dropFront_rx hfront]
      rfl
    obtain ⟨hmaker, hdropped⟩ | ⟨out, view, hmaker, hfound, hreplaced⟩ := awardHeader_of_full hroom
    · rw [hdropped]
      refine ⟨by simp [dropFront], by simp [dropFront], by simp [dropFront], by simpa using hline,
        fun _ => ⟨by simp [dropFront], raised_raiseEvent .viewFull (dropFront s)⟩, fun ⟨p, hp, hstale⟩ => ?_⟩
      exact absurd hstale (roomMaker_none_iff.mp hmaker p hp)
    · rw [hreplaced]
      obtain ⟨hout, hstale⟩ := roomMaker_mem hmaker
      exact ⟨rfl, rfl, rfl, hline, fun hfresh => absurd hstale (hfresh out hout), fun _ => ⟨hfound, rfl⟩⟩
  · rw [acceptAward, if_neg (mt hconcerns.mp hnot)]
  · have hfree : busy (awardHeader n s) = false := by
      obtain hnone | houtside := hfront.2.2
      · simp [busy, hm.pledge, hnone]
      · have hinside := houtside k (by simp [hbody, NoticeBody.intervals])
        rw [hcon.2.1] at hinside
        cases hinside
    obtain ⟨⟨u, hfound, hmet, hallocated, hothers, hstill⟩, -, -⟩ := compareAward_spec (a := a) hv hfree
    rw [acceptAward, if_pos (hconcerns.mpr hcon), hv]
    have hfixed : v.fixed = r.fixed := by simpa [hv, hr] using findRec_fixed hm.fixed k d
    rw [hm.pledge] at hmet
    refine ⟨u, hfound, hmet.congr hfixed fun _ => id, ?_, hothers, fun hstation => hstill (by rwa [hm.ctrl])⟩
    exact hallocated

end Sys2Proof.Machine


/-! PROOFS. An injected award (R102): what its AWARD entry leaves of the TAKE entries, and the record it meets. -/

namespace Sys2Proof.Machine

/-! ### An AWARD entry inserted -/

section
variable {cur : Word} {key : NoticeKey} {w : Option WithdrawContent} {q : List QEntry}

/-- No insert adds an entry of another key. -/
theorem of_mem_insertQueue_ne {e : QEntry} (he : e ∈ (insertQueue cur key w q).1) (hne : e.key ≠ key) : e ∈ q := by
  have hmapped {f : QEntry → QEntry} (hf : ∀ x, (f x).key = x.key) (h : e ∈ q.map fun x => if x.key = key then f x else x) : e ∈ q := by
    obtain ⟨x, hx, rfl⟩ := List.mem_map.mp h
    split at hne
    next hkey => exact absurd ((hf x).trans hkey) hne
    next hkey => rwa [if_neg hkey]
  have hjoined {p : List QEntry} (h : e ∈ appendGroup (newEntry key w) p) : e ∈ p :=
    (mem_appendGroup_iff.mp h).resolve_left fun h => hne (by rw [h]; rfl)
  unfold insertQueue at he
  split at he
  · split at he
    · exact hmapped (fun x => by rw [renew_eq]) he
    · exact hmapped (f := (·.coalesce cur w)) (fun _ => rfl) he
  · split at he
    · exact hjoined he
    · split at he
      · exact List.mem_of_mem_filter (hjoined he)
      · exact he

/-- An insert leaves every entry of another key, or raises QUEUE_DROP at a full queue. -/
theorem mem_insertQueue_ne {e : QEntry} (he : e ∈ q) (hne : e.key ≠ key) :
    e ∈ (insertQueue cur key w q).1 ∨ (12 ≤ q.length ∧ (insertQueue cur key w q).2 = true) := by
  cases hfind : q.find? fun x => x.key == key with
  | some x =>
    left
    unfold insertQueue
    rw [hfind]
    dsimp only
    split <;> exact List.mem_map.mpr ⟨e, he, if_neg hne⟩
  | none =>
    obtain hroom | hfull := Nat.lt_or_ge q.length 12
    · rw [insertQueue_of_room hfind hroom]
      exact .inl (mem_appendGroup_iff.mpr (.inr he))
    · exact .inr ⟨hfull, insertQueue_of_full hfind hfull⟩

/-- A full queue that keeps its form stays full through an insert. -/
theorem length_insertQueue (hform : QueueForm q) (hfull : 12 ≤ q.length) : 12 ≤ (insertQueue cur key w q).1.length := by
  unfold insertQueue
  split
  · split <;> simpa using hfull
  · rw [if_neg (by simpa [Config.queueLimit] using hfull)]
    split
    next v hv =>
      obtain ⟨x, hx, hkey, -, -⟩ := victim_free hv
      have hperm : q.Perm (x :: q.filter fun e => e.key != v) := by
        refine (List.perm_ext_iff_of_nodup (List.Nodup.of_map _ hform.2.1) ?_).mpr fun e => ?_
        · exact List.nodup_cons.mpr ⟨by simp [hkey], (List.Nodup.of_map _ hform.2.1).filter _⟩
        · rw [List.mem_cons, List.mem_filter]
          refine ⟨fun he => ?_, fun h => h.elim (fun h => h ▸ hx) And.left⟩
          by_cases hev : e.key = v
          · exact .inl (eq_of_key hform.2.1 he hx (hev.trans hkey.symm))
          · exact .inr ⟨he, by simpa using hev⟩
      rw [(appendGroup_perm _ _).length_eq, List.length_cons, ← List.length_cons (a := x), ← hperm.length_eq]
      exact hfull
    next => exact hfull

/-- After an insert an entry of its key stands, or QUEUE_DROP has been raised. -/
theorem inserted_or_dropped (key : NoticeKey) (s : State) :
    (∃ e ∈ (enqueue key none s).line.queue, e.key = key) ∨ flagSet .queueDrop (enqueue key none s) = true := by
  have hstands {x : QEntry} (hx : x ∈ (insertQueue s.clock.current key none s.line.queue).1) (hkey : x.key = key) :
      ∃ e ∈ (enqueue key none s).line.queue, e.key = key := by
    obtain ⟨y, hy, hxy⟩ := mem_enqueue hx
    exact ⟨y, hy, by rw [hxy]; exact hkey⟩
  cases hfind : s.line.queue.find? fun e => e.key == key with
  | some e =>
    left
    cases hflight : e.inFlight with
    | true =>
      obtain ⟨hkey, hmem⟩ := mem_insertQueue_of_flight (w := none) (cur := s.clock.current) hfind hflight
      exact hstands hmem (by rw [renew_eq]; exact hkey)
    | false =>
      obtain ⟨hkey, hmem⟩ := mem_insertQueue_of_waiting (w := none) (cur := s.clock.current) hfind hflight
      exact hstands hmem hkey
  | none =>
    obtain hroom | hfull := Nat.lt_or_ge s.line.queue.length 12
    · exact .inl (hstands (mem_insertQueue_of_room hfind hroom) rfl)
    · exact .inr (queueDrop_enqueue (insertQueue_of_full hfind hfull))

/-- The TAKE tests made before an AWARD entry is inserted. -/
theorem takeTested_enqueueAward {xs : List Nat} {r : CRecord} {s t : State} (k : Word) (d : Direction) (hform : QueueForm t.line.queue)
    (h : TakeTested xs r s t) : TakeTested xs r s (enqueue (.award k d) none t) := by
  obtain ⟨hqueued, hstood⟩ := h
  have hlength (h : 12 ≤ t.line.queue.length) : 12 ≤ (enqueue (.award k d) none t).line.queue.length := by
    rw [enqueue_line, (settleHead_queue ..).2.2.2]
    exact length_insertQueue hform h
  refine ⟨fun hwanted => ?_, fun hnone e he hkey => ?_⟩
  · obtain ⟨hfull, hdrop⟩ | ⟨e, he, hkey, hfresh⟩ := hqueued hwanted
    · exact .inl ⟨hlength hfull, flagsKept_enqueue _ _ _ _ hdrop⟩
    · obtain hmem | ⟨hfull, hdrop⟩ := mem_insertQueue_ne (key := .award k d) (w := none) (cur := t.clock.current) he (by rw [hkey]; nofun)
      · obtain ⟨y, hy, hey⟩ := mem_enqueue hmem
        refine .inr ⟨y, hy, by rw [hey]; exact hkey, ?_⟩
        rw [hey]
        exact hfresh
      · exact .inl ⟨hlength hfull, queueDrop_enqueue hdrop⟩
  · obtain ⟨x, hx, hxe⟩ := of_mem_enqueue he
    have hxkey : x.key = .take r.interval r.dir := by
      rw [hxe] at hkey
      exact hkey
    obtain ⟨y, hy, hyx⟩ := hstood hnone x (of_mem_insertQueue_ne hx (by rw [hxkey]; nofun)) hxkey
    refine ⟨y, hy, ?_⟩
    rw [hyx] at hxe
    exact hxe

end

/-! ### The injection -/

section
variable {n : Nat} {b : AwardBody} {d : Direction} {r : CRecord} {s : State}

theorem awardAllocated_enqueueAward {a : Award} {u : CRecord} {s t : State} (k : Word) (hform : QueueForm t.line.queue)
    (h : AwardAllocated a r u s t) : AwardAllocated a r u s (enqueue (.award k d) none t) := by
  obtain ⟨hlast, hwithdrawn, hstored, hnot⟩ := h
  refine ⟨hlast, hwithdrawn, fun hactive => ?_, hnot⟩
  obtain ⟨hu, hflag, htested⟩ := hstored hactive
  have hview : (enqueue (.award k d) none t).view = t.view := by simp
  rw [hview]
  exact ⟨hu, fun hne => flagsKept_enqueue _ _ _ _ (hflag hne), takeTested_enqueueAward k d hform htested⟩

/-- An injection in range passes every check of Table 6-6. -/
theorem injectRefusal_none (huplink : s.ctrl.config.uplink = true) (hstation : s.ctrl.station = .active ∨ s.ctrl.station = .listening)
    (hfree : s.pledge.comp = none) (hdir : directionOf b.direction = some d) (hband : b.band.toNat ≤ 15)
    (hinside : inHorizon (tableFirst s) b.interval = true) (hzone : zoneMatch s.ctrl.config.zone b.compare b.mask = true)
    (hr : findRec s.table b.interval d = some r) (hissue : ∀ h ∈ r.award, h.issue ≤ b.issue.toNat) : injectRefusal b s = none := by
  have hbelow : issueBelowHeld s b.interval d b.issue.toNat = false := by
    unfold issueBelowHeld
    rw [hr]
    cases haward : r.award with
    | none => simp [haward]
    | some h => simpa [haward] using hissue h haward
  rw [injectRefusal_of_inRange (by simp [huplink]) (by rcases hstation with h | h <;> simp [h]) (by simp [busy, hfree])
    (by simp [hband, hdir, hinside]) hdir, if_neg (by simp [hzone]), if_neg (by simp [hbelow])]

/-- Settles O34: the record is met by `compareAward_spec`, whose result the AWARD entry and the answer leave. -/
theorem injectedAwardMeetsRecord : Obligations.InjectedAwardMeetsRecord := by
  intro n b d r s hlaw huplink hstation hcomp hcode hband hr hzone hissue a
  have hdir : directionOf b.direction = some d := by
    rw [hcode]
    cases d <;> rfl
  have hjoined : s.ctrl.station ≠ .unjoined := by rcases hstation with h | h <;> simp [h]
  have hinside : inHorizon (tableFirst s) b.interval = true := by
    rw [← mem_horizonPairs _ _ d, ← (horizonLaw_of_joined hjoined).mp hlaw, ← findRec_isSome, hr]
    rfl
  have hpass := injectRefusal_none huplink hstation hcomp hdir hband hinside hzone hr hissue
  have hleaving : s.ctrl.station ≠ .leaving := by rcases hstation with h | h <;> simp [h]
  have hexec := exec_injectAward_of_accepted n hleaving hpass hdir
  generalize hv : clockOut n s = v at hexec
  have hsame : v.ctrl = s.ctrl ∧ v.clock = s.clock ∧ v.pledge = s.pledge ∧ v.view = s.view ∧ v.freq = s.freq ∧ v.table = s.table ∧
      v.line = s.line ∧ v.pending = s.pending ∧ v.host.log = s.host.log := by simp [← hv]
  obtain ⟨hctrl, hclock, hpledge, hview, hfreq, htable, hline, hpending, hlog⟩ := hsame
  have hr' : findRec v.table b.interval d = some r := by rw [htable]; exact hr
  obtain ⟨⟨u, hfound, hmet, hallocated, hothers, hstill⟩, happlied, hduplicate⟩ :=
    compareAward_spec (a := a) hr' (by simp [busy, hpledge, hcomp])
  obtain ⟨outcome, held, houtcome, hheld⟩ := compareAward_outcome (a := a) hr' fun h hh => by
    have := hissue h hh
    exact not_lt.mpr this
  have hconcerns : awardConcerns b.interval a v = true := by
    refine (awardConcerns_iff (hctrl ▸ hjoined)).mpr ⟨hctrl ▸ hleaving, ?_, ?_⟩
    · rw [tableFirst, hpledge, hclock]
      exact hinside
    · rw [hctrl]
      simpa [zoneMatch] using hzone
  have haccept : acceptAward b.interval d (awardOfBody b) v = compareAward b.interval d a r v := by
    change acceptAward b.interval d a v = _
    rw [acceptAward, if_pos hconcerns, hr']
  have hframe := compareAward_frame v b.interval d a r
  have hkeepsLog := (keepsLog s.host.log).compareAward (a := a) hr' hlog
  have hkeepsLine (hqueue : QueueLaw s) : HasLineLaw (compareAward b.interval d a r v).1 :=
    hasLineLaw_allocation.compareAward hr' (show LineLaw v.line from hline ▸ (queueLaw_iff s).mp hqueue)
  rw [injectAward_of_outcome (by rw [haccept]; exact houtcome) (by rw [haccept]; exact hheld), haccept] at hexec
  rw [houtcome] at happlied hduplicate
  generalize compareAward b.interval d a r v = c at hexec hfound hmet hallocated hothers hheld hframe hkeepsLog hkeepsLine
  obtain ⟨t₁, _⟩ := c
  dsimp only at hexec hfound hmet hallocated hothers hheld hframe hkeepsLog hkeepsLine
  generalize ht : enqueue (.award b.interval d) none t₁ = t at hexec
  have hflags : FlagsKept t₁ (holdAnswer ⟨.done, .injected outcome held⟩ t) := by
    intro e he
    have := flagsKept_enqueue (.award b.interval d) none t₁ e he
    rw [ht] at this
    simpa [flagSet] using this
  have htableT : t.table = t₁.table := by simp [← ht]
  have huaward : u.award = some held := by simpa [awardHeld, hfound] using hheld
  have hmerit : s.ctrl.station = .active ∧ StoredOver a r → u = allocatedRecord s.ctrl.config (membersFor s.view b.interval d a) a (r.restored u) ∧
      (u.take ≠ r.take → flagSet .take t₁ = true) := by
    intro hactive
    obtain ⟨-, -, hstored, -⟩ := hallocated
    obtain ⟨hu, hflag, -⟩ := hstored (by rw [hctrl]; exact hactive)
    obtain ⟨-, hk, hd⟩ := findRec_some hr
    rw [hframe.2.2.2.1, hview, hk, hd, hctrl] at hu
    exact ⟨hu, hflag⟩
  refine ⟨_, u, held, outcome, hexec, by simpa [htableT] using hfound, ?_, huaward, by simp, ?_, ?_, ?_, fun hlistening => ?_, fun hqueue => ?_,
    fun hactive happly => ?_, fun k' d' hne => ?_, ?_⟩
  · rw [← hpledge]
    exact hmet.congr rfl hflags
  · rw [← happlied]
    simp
  · rw [← hduplicate]
    simp
  · obtain ⟨e, he, hkey⟩ | hdrop := inserted_or_dropped (.award b.interval d) t₁
    · exact .inl ⟨e, by simpa [← ht] using he, hkey⟩
    · refine .inr ?_
      rw [ht] at hdrop
      simpa [flagSet] using hdrop
  · obtain ⟨-, -, -, hnot⟩ := hallocated
    rw [hnot fun h => by rw [hctrl, hlistening] at h; cases h.1]
  · have hmoved := awardAllocated_enqueueAward (d := d) b.interval (hkeepsLine hqueue).1 hallocated
    rw [ht] at hmoved
    unfold AwardAllocated TakeTested TakeQueued at hmoved ⊢
    rw [hctrl, hline] at hmoved
    simpa [flagSet] using hmoved
  · intro merit hne
    have hstored : StoredOver a r := fun h hh => .inl (happlied.mp (by rw [happly]) h hh)
    obtain ⟨hu, hflag⟩ := hmerit ⟨hactive, hstored⟩
    have hmeritEq : meritOf (membersFor s.view b.interval d a) a (r.restored u) = merit := by
      rw [← awardMembers_eq hr]
      rfl
    obtain ⟨htake, hhold⟩ := allocatedRecord_changed (c := s.ctrl.config) (ms := membersFor s.view b.interval d a) (a := a) (r := r.restored u)
      (by rw [hmeritEq]; exact hne)
    rw [← hu, hmeritEq] at htake
    rw [← hu] at hhold
    exact ⟨htake, hhold, hflags _ (hflag (by rw [htake]; exact hne))⟩
  · have := hothers k' d' hne
    rw [htable] at this
    simpa [htableT] using this
  · obtain ⟨hctrl₁, hclock₁, hpledge₁, hview₁, -, hfreq₁, -, hpending₁⟩ := hframe
    simp [← ht, hctrl₁, hclock₁, hpledge₁, hview₁, hfreq₁, hpending₁, hkeepsLog, hctrl, hclock, hpledge, hview, hfreq, hpending]

end

end Sys2Proof.Machine


/-! PROOFS. What SET_AVAILABILITY stores, and the records it withdraws (R42, R157, R158). -/

namespace Sys2Proof.Machine

/-! ### The flags stored -/

theorem availOf_pruneEntries (p : PledgeEngine) {cur k : Word} (hin : inHorizon cur k = true) : availOf (pruneEntries cur p) k = availOf p k := by
  have hfind : (pruneEntries cur p).avails.find? (fun e => e.interval == k) = p.avails.find? fun e => e.interval == k := by
    change (p.avails.filter _).find? _ = _
    rw [List.find?_filter]
    refine List.find?_congr fun e _ => ?_
    by_cases hk : e.interval = k
    · simp [hk, hin]
    · simp [hk]
  unfold availOf
  rw [hfind]

theorem storeAvails_avails (b : AvailabilityBody) (s : State) : (storeAvails b s).pledge.avails =
    (s.pledge.avails.filter fun e => inHorizon s.clock.current e.interval).filter (fun e =>
      !(namedEntries (fun k f => AvailEntry.mk k (availabilityFlags f).1 (availabilityFlags f).2) s.clock.current b.first b.flags).any
        fun n => n.interval == e.interval) ++
      namedEntries (fun k f => AvailEntry.mk k (availabilityFlags f).1 (availabilityFlags f).2) s.clock.current b.first b.flags := rfl

/-- The flags that stand after SET_AVAILABILITY: those it names, and the others' (R42). -/
theorem availOf_storeAvails (b : AvailabilityBody) (s : State) (hcount : b.flags.length ≤ 8) :
    (∀ i f, b.flags[i]? = some f → inHorizon s.clock.current (b.first + BitVec.ofNat 16 i) = true →
      availOf (storeAvails b s).pledge (b.first + BitVec.ofNat 16 i) = (f.getLsbD 0, f.getLsbD 1)) ∧
    ∀ k, inHorizon s.clock.current k = true → (∀ i, i < b.flags.length → k ≠ b.first + BitVec.ofNat 16 i) →
      availOf (storeAvails b s).pledge k = availOf s.pledge k := by
  obtain ⟨hnamed, hother⟩ := find?_storedNamed (key := AvailEntry.interval)
    (mk := fun k f => AvailEntry.mk k (availabilityFlags f).1 (availabilityFlags f).2) (fun _ _ => rfl)
    (s.pledge.avails.filter fun e => inHorizon s.clock.current e.interval) s.clock.current b.first hcount
  refine ⟨fun i f hf hin => ?_, fun k hin hnot => ?_⟩
  · unfold availOf
    rw [storeAvails_avails, hnamed i f hf hin]
    rfl
  · rw [← availOf_pruneEntries s.pledge hin]
    unfold availOf
    rw [storeAvails_avails, hother k hnot]
    rfl

/-- A computation that starts reads of a horizon interval the flags that were stored (R40). -/
theorem takenSetting_avail {price : Bool} {effect : State → State} {s : State} {k : Word} (hclock : (effect s).clock = s.clock)
    (hin : inHorizon s.clock.current k = true) : availOf (takenSetting price effect s).pledge k = availOf (effect s).pledge k := by
  unfold takenSetting
  split
  · rw [← availOf_pruneEntries (effect s).pledge hin, ← hclock]
    rfl
  · rfl

/-! ### The withdrawal of one direction -/

section
variable {before after : PledgeEngine} {d : Direction} {s : State}

theorem ownerWithdrawal_table : (ownerWithdrawal before after d s).table =
    s.table.map fun r => if newlyUnavailable before after d r = true then r.withdraw .owner else r := by
  unfold ownerWithdrawal
  split
  · exact withdrawProcedure_table ..
  next hnone =>
    have hclear : ∀ r ∈ s.table, ¬ newlyUnavailable before after d r = true := by simpa using hnone
    exact ((List.map_congr_left fun r hr => if_neg (hclear r hr)).trans (List.map_id _)).symm

theorem foldl_min_le (j : Nat) (l : List Nat) : l.foldl min j ≤ j ∧ ∀ x ∈ l, l.foldl min j ≤ x := by
  induction l generalizing j with
  | nil => simp
  | cons x l ih =>
    obtain ⟨hle, hall⟩ := ih (min j x)
    simp only [List.foldl_cons, List.mem_cons, forall_eq_or_imp]
    exact ⟨by omega, by omega, hall⟩

theorem foldl_min_choice (j : Nat) (l : List Nat) : l.foldl min j = j ∨ l.foldl min j ∈ l := by
  induction l generalizing j with
  | nil => exact .inl rfl
  | cons x l ih =>
    rw [List.foldl_cons]
    obtain h | h := ih (min j x)
    · obtain hmin | hmin := min_choice j x
      · exact .inl (h.trans hmin)
      · exact .inr (by rw [h, hmin]; exact List.mem_cons_self)
    · exact .inr (List.mem_cons_of_mem x h)

/-- The earliest of some slots. -/
theorem foldl_min_mem {slots : List Nat} (hbound : ∀ j ∈ slots, j < 8) (hsome : ∃ j, j ∈ slots) :
    slots.foldl min 7 ∈ slots ∧ ∀ x ∈ slots, slots.foldl min 7 ≤ x := by
  obtain ⟨hle, hall⟩ := foldl_min_le 7 slots
  refine ⟨?_, hall⟩
  obtain hseven | hmem := foldl_min_choice 7 slots
  · obtain ⟨j, hj⟩ := hsome
    have hleast := hall j hj
    have hsmall := hbound j hj
    rw [hseven] at hleast ⊢
    obtain rfl : j = 7 := by omega
    exact hj
  · exact hmem

/-- The slots of an affected set, the earliest of them, and one flag for each (R158). -/
theorem withdrawContent_names {sel : CRecord → Bool} (q : Reason) (hhorizon : ∀ r ∈ s.table, inHorizon (tableFirst s) r.interval = true)
    (hsome : ∃ r ∈ s.table, sel r = true) : (withdrawContent q s sel).affected.getLsbD 0 = true ∧
      ∀ k, (withdrawContent q s sel).Names k ↔ ∃ r ∈ s.table, r.interval = k ∧ sel r = true := by
  have hslots (j : Nat) : j ∈ affectedSlots s sel ↔ ∃ r ∈ s.table, sel r = true ∧ slotOf (tableFirst s) r.interval = j := by
    simp [affectedSlots, and_assoc]
  have hbound : ∀ j ∈ affectedSlots s sel, j < 8 := by
    intro j hj
    obtain ⟨r, hr, -, rfl⟩ := (hslots j).mp hj
    simpa [inHorizon] using hhorizon r hr
  obtain ⟨hmem, hleast⟩ := foldl_min_mem hbound (by
    obtain ⟨r, hr, hsel⟩ := hsome
    exact ⟨_, (hslots _).mpr ⟨r, hr, hsel, rfl⟩⟩)
  have hcontent : withdrawContent q s sel = ⟨q, atSlot (tableFirst s) ((affectedSlots s sel).foldl min 7),
    (affectedSlots s sel).foldl (fun w j => w ||| (1#8 <<< (j - (affectedSlots s sel).foldl min 7))) 0#8⟩ := rfl
  rw [hcontent]
  generalize affectedSlots s sel = slots at *
  generalize slots.foldl min 7 = m at hmem hleast
  have hbit (j : Nat) : (slots.foldl (fun w j => w ||| (1#8 <<< (j - m))) 0#8).getLsbD j = true ↔ ∃ x ∈ slots, x - m = j := by
    refine (getLsbD_foldl_set (fun x => some (x - m)) slots 0#8 j).trans ?_
    simp only [BitVec.getLsbD_zero, Bool.false_eq_true, false_or, Option.some.injEq]
    refine ⟨And.right, fun ⟨x, hx, hj⟩ => ⟨?_, x, hx, hj⟩⟩
    have := hbound x hx
    omega
  refine ⟨(hbit 0).mpr ⟨m, hmem, Nat.sub_self m⟩, fun k => ?_⟩
  rw [names_iff, hbit]
  have hshift {x : Nat} (hx : x ∈ slots) : atSlot (atSlot (tableFirst s) m) (x - m) = atSlot (tableFirst s) x := by
    have hle := hleast x hx
    unfold atSlot
    rw [BitVec.add_assoc, ← BitVec.ofNat_add, Nat.add_sub_cancel' hle]
  constructor
  · rintro ⟨x, hx, hxk⟩
    obtain ⟨r, hr, hsel, hrx⟩ := (hslots x).mp hx
    refine ⟨r, hr, ?_, hsel⟩
    rw [← atSlot_slotOf (tableFirst s) r.interval, hrx, ← hshift hx, hxk, atSlot_slotOf]
  · rintro ⟨r, hr, rfl, hsel⟩
    have hx := (hslots _).mpr ⟨r, hr, hsel, rfl⟩
    refine ⟨_, hx, ?_⟩
    have hsmall := hbound _ hx
    rw [← slotOf_atSlot (atSlot (tableFirst s) m) (slotOf (tableFirst s) r.interval - m) (by omega), hshift hx, atSlot_slotOf]

theorem withdrawQueued_withdrawProcedure (q : Reason) (sel : CRecord → Bool) (s : State) :
    WithdrawQueued (withdrawContent q s sel) s (withdrawProcedure q sel s) := by
  unfold withdrawProcedure
  generalize hv : s.setTable _ = v
  refine withdrawQueued_enqueue (u := v) (by rw [← hv]; rfl) (by rw [← hv]; rfl) (by simp) ?_
  exact (flagsKept_raiseEvent .withdrawn _).trans (flagsKept_of_host (by simp))

/-- The intervals of the horizon that a direction's withdrawal affects. -/
def OwnerHit (before after : PledgeEngine) (d : Direction) (table : List CRecord) (k : Word) : Prop :=
  ∃ r ∈ table, r.interval = k ∧ newlyUnavailable before after d r = true

theorem announced_ownerWithdrawal (hhorizon : ∀ r ∈ s.table, inHorizon (tableFirst s) r.interval = true) :
    Announced .owner (OwnerHit before after d s.table) s (ownerWithdrawal before after d s) := by
  unfold ownerWithdrawal
  split
  next hany =>
    have hsome : ∃ r ∈ s.table, newlyUnavailable before after d r = true := List.any_eq_true.mp hany
    obtain ⟨hzero, hnames⟩ := withdrawContent_names .owner hhorizon hsome
    refine ⟨fun hnone => ?_, fun k _ => ⟨_, rfl, hzero, hnames, withdrawQueued_withdrawProcedure ..⟩⟩
    obtain ⟨r, hr, hsel⟩ := hsome
    exact absurd ⟨r, hr, rfl, hsel⟩ (hnone r.interval)
  next hnone =>
    refine ⟨fun _ => rfl, fun k ⟨r, hr, _, hsel⟩ => ?_⟩
    exact absurd (List.any_eq_true.mpr ⟨r, hr, hsel⟩) hnone

theorem flagsKept_ownerWithdrawal : FlagsKept s (ownerWithdrawal before after d s) := by
  unfold ownerWithdrawal
  split
  · unfold withdrawProcedure
    generalize hv : s.setTable _ = v
    exact ((flagsKept_of_host (by rw [← hv]; rfl)).trans (flagsKept_enqueue .withdraw
      (some (withdrawContent .owner s (newlyUnavailable before after d))) v)).trans
      ((flagsKept_raiseEvent .withdrawn _).trans (flagsKept_of_host (by simp)))
  · exact fun _ => id

theorem flagSet_ownerWithdrawal {r : CRecord} (hr : r ∈ s.table) (hsel : newlyUnavailable before after d r = true) :
    flagSet .withdrawn (ownerWithdrawal before after d s) = true := by
  unfold ownerWithdrawal
  rw [if_pos (List.any_eq_true.mpr ⟨r, hr, hsel⟩)]
  exact flagSet_recompute (flagSet_raiseEvent ..)

@[simp] theorem ownerWithdrawal_stands : (ownerWithdrawal before after d s).ctrl = s.ctrl ∧ (ownerWithdrawal before after d s).clock = s.clock ∧
    (ownerWithdrawal before after d s).pledge = s.pledge ∧ (ownerWithdrawal before after d s).host.log = s.host.log := by
  unfold ownerWithdrawal withdrawProcedure
  split <;> simp

end

/-! ### Both directions -/

theorem newlyUnavailable_iff {before after : PledgeEngine} {d : Direction} {r : CRecord} : newlyUnavailable before after d r = true ↔
    r.dir = d ∧ r.state ≠ .opened ∧ flagFor (availOf before r.interval) d = true ∧ flagFor (availOf after r.interval) d = false := by
  simp [newlyUnavailable, CRecord.committed, and_assoc]

theorem newlyUnavailable_withdraw (before after : PledgeEngine) (d : Direction) (q : Reason) (r : CRecord) :
    newlyUnavailable before after d (r.withdraw q) = newlyUnavailable before after d r := by
  simp [newlyUnavailable, CRecord.committed]

/-- A record withdrawn for OWNER where its flag is newly clear. -/
def ownerWithdrawn (before after : PledgeEngine) (d : Direction) (r : CRecord) : CRecord :=
  if newlyUnavailable before after d r = true then r.withdraw .owner else r

theorem ownerWithdrawn_other (before after : PledgeEngine) {d d' : Direction} {r : CRecord} :
    newlyUnavailable before after d' (ownerWithdrawn before after d r) = newlyUnavailable before after d' r := by
  unfold ownerWithdrawn
  split
  · exact newlyUnavailable_withdraw ..
  · rfl

/-- The two withdrawals of a record, of which its direction selects one. -/
theorem ownerWithdrawn_both (before after : PledgeEngine) (r : CRecord) :
    ownerWithdrawn before after .lower (ownerWithdrawn before after .raise r) =
      if newlyUnavailable before after r.dir r = true then r.withdraw .owner else r := by
  have hother {d : Direction} (h : r.dir ≠ d) : newlyUnavailable before after d r = false := by
    by_contra hne
    exact h (newlyUnavailable_iff.mp (by simpa using hne)).1
  cases hd : r.dir with
  | raise =>
    have hlower := hother (d := .lower) (by simp [hd])
    unfold ownerWithdrawn
    split <;> simp [newlyUnavailable_withdraw, hlower]
  | lower =>
    have hraise := hother (d := .raise) (by simp [hd])
    unfold ownerWithdrawn
    simp [hraise]

/-! ### SET_AVAILABILITY -/

/-- The engine before SET_AVAILABILITY, and with its flags stored. -/
abbrev engineBefore (s : State) : PledgeEngine := pruneEntries s.clock.current s.pledge

/-- The state of SET_AVAILABILITY between its two withdrawals. -/
def raiseWithdrawn (b : AvailabilityBody) (s : State) : State :=
  ownerWithdrawal (engineBefore s) (storeAvails b s).pledge .raise (storeAvails b s)

theorem storeAvailability_active (b : AvailabilityBody) {s : State} (hactive : isActive s = true) : storeAvailability b s =
    ownerWithdrawal (engineBefore s) (storeAvails b s).pledge .lower (raiseWithdrawn b s) := if_pos hactive

theorem storeAvailability_idle (b : AvailabilityBody) {s : State} (hidle : ¬ isActive s = true) : storeAvailability b s = storeAvails b s :=
  if_neg hidle

theorem storeAvailability_table (b : AvailabilityBody) {s : State} (hactive : isActive s = true) : (storeAvailability b s).table =
    s.table.map fun r => if newlyUnavailable (engineBefore s) (storeAvails b s).pledge r.dir r = true then r.withdraw .owner else r := by
  rw [storeAvailability_active b hactive, ownerWithdrawal_table, raiseWithdrawn, ownerWithdrawal_table, List.map_map]
  exact List.map_congr_left fun r _ => ownerWithdrawn_both (engineBefore s) (storeAvails b s).pledge r

theorem flagSet_storeAvailability (b : AvailabilityBody) {s : State} (hactive : isActive s = true) {r : CRecord} (hr : r ∈ s.table)
    (hsel : newlyUnavailable (engineBefore s) (storeAvails b s).pledge r.dir r = true) : flagSet .withdrawn (storeAvailability b s) = true := by
  rw [storeAvailability_active b hactive]
  have hraise (hd : r.dir = .raise) : flagSet .withdrawn (raiseWithdrawn b s) = true := flagSet_ownerWithdrawal hr (hd ▸ hsel)
  have hlower (hd : r.dir = .lower) : ∃ u ∈ (raiseWithdrawn b s).table,
      newlyUnavailable (engineBefore s) (storeAvails b s).pledge .lower u = true := by
    rw [raiseWithdrawn, ownerWithdrawal_table]
    refine ⟨_, List.mem_map_of_mem hr, (ownerWithdrawn_other (engineBefore s) (storeAvails b s).pledge).trans (hd ▸ hsel)⟩
  cases hd : r.dir with
  | raise => exact flagsKept_ownerWithdrawal _ (hraise hd)
  | lower =>
    obtain ⟨u, hu, hsel'⟩ := hlower hd
    exact flagSet_ownerWithdrawal hu hsel'

/-- The two announcements of SET_AVAILABILITY, RAISE first (R42, R158). -/
theorem storeAvailability_announced (b : AvailabilityBody) {s : State} (hactive : isActive s = true)
    (hhorizon : ∀ r ∈ s.table, inHorizon (tableFirst s) r.interval = true) :
    (raiseWithdrawn b s).clock = s.clock ∧ (HasLineLaw s → HasLineLaw (raiseWithdrawn b s)) ∧
    Announced .owner (OwnerHit (engineBefore s) (storeAvails b s).pledge .raise s.table) s (raiseWithdrawn b s) ∧
    Announced .owner (OwnerHit (engineBefore s) (storeAvails b s).pledge .lower s.table) (raiseWithdrawn b s) (storeAvailability b s) := by
  refine ⟨ownerWithdrawal_stands.2.1, fun hline => ?_, announced_ownerWithdrawal (s := storeAvails b s) hhorizon, ?_⟩
  · unfold raiseWithdrawn ownerWithdrawal
    split
    · exact hasLineLaw_withdrawProcedure _ _ hline
    · exact hline
  · have hfirst : tableFirst (raiseWithdrawn b s) = tableFirst s := by
      unfold tableFirst raiseWithdrawn
      rw [ownerWithdrawal_stands.2.1, ownerWithdrawal_stands.2.2.1]
      rfl
    have hhit (k : Word) : OwnerHit (engineBefore s) (storeAvails b s).pledge .lower (raiseWithdrawn b s).table k ↔
        OwnerHit (engineBefore s) (storeAvails b s).pledge .lower s.table k := by
      unfold OwnerHit
      rw [raiseWithdrawn, ownerWithdrawal_table]
      simp only [List.mem_map, exists_exists_and_eq_and]
      refine exists_congr fun r => and_congr_right fun _ => ?_
      have hkept := ownerWithdrawn_other (engineBefore s) (storeAvails b s).pledge (d := .raise) (d' := .lower) (r := r)
      have hinterval : (ownerWithdrawn (engineBefore s) (storeAvails b s).pledge .raise r).interval = r.interval := by
        unfold ownerWithdrawn
        split <;> simp
      unfold ownerWithdrawn at hkept hinterval
      rw [hkept, hinterval]
    rw [storeAvailability_active b hactive, ← funext fun k => propext (hhit k)]
    refine announced_ownerWithdrawal fun r hr => ?_
    rw [raiseWithdrawn, ownerWithdrawal_table] at hr
    obtain ⟨u, hu, rfl⟩ := List.mem_map.mp hr
    rw [hfirst]
    split
    · simpa using hhorizon u hu
    · exact hhorizon u hu

/-- An announcement told by the line, the clock and the flags it meets. -/
theorem announced_congr {q : Reason} {hit hit' : Word → Prop} {s s' t t' : State} (h : Announced q hit s t) (hhit : ∀ k, hit' k ↔ hit k)
    (hline : s'.line = s.line) (hclock : s'.clock = s.clock) (hline' : t'.line = t.line) (hflags : t'.host.flags = t.host.flags) :
    Announced q hit' s' t' := by
  obtain rfl : hit' = hit := funext fun k => propext (hhit k)
  unfold Announced WithdrawQueued flagSet at *
  rw [hline, hclock, hline', hflags]
  exact h

theorem horizon_of_horizonLaw {s : State} (hlaw : HorizonLaw s) {r : CRecord} (hr : r ∈ s.table) :
    inHorizon (tableFirst s) r.interval = true := by
  unfold HorizonLaw at hlaw
  split at hlaw
  · simp [hlaw.1] at hr
  · have hkey : (r.interval, r.dir) ∈ recordKeys s.table := List.mem_map_of_mem hr
    rw [hlaw] at hkey
    exact (mem_horizonPairs _ _ r.dir).mp hkey

/-- Settles O28: the flags that are stored, and the record and the announcement of each direction's withdrawal. -/
theorem availabilityStored : Obligations.AvailabilityStored := by
  unfold Obligations.AvailabilityStored
  intro n b s hstays hcomp hheld hlaw hpos hle
  have hfree := not_engineBusy hcomp hheld
  have hexec : exec (.setAvailability ⟨n, some b⟩) s =
      .next (holdAnswer (plain .done) (takenSetting false (storeAvailability b) (clockOut n s))) :=
    congrArg _ (hostCommand_of_accepted (checksSetting_serveSetting false storeAvailability (countAllowed_iff _)) hstays hfree (by omega))
  have hfirst : tableFirst s = s.clock.current := by simp [tableFirst, hheld]
  obtain ⟨hctrl, hclock, hview, -, hfreq, -, hpending⟩ := storeAvailability_frame (clockOut n s) b
  obtain ⟨-, -, -, -, hacc, -⟩ := takenSetting_figures false (storeAvailability b) (clockOut n s)
  have honly := takenSetting_only false (storeAvailability b) (clockOut n s)
  obtain ⟨hnamed, hother⟩ := availOf_storeAvails b s hle
  have havail {k : Word} (hk : inHorizon s.clock.current k = true) :
      availOf (takenSetting false (storeAvailability b) (clockOut n s)).pledge k = availOf (storeAvails b s).pledge k := by
    rw [takenSetting_avail (s := clockOut n s) hclock hk, storeAvailability_pledge]
    rfl
  generalize takenSetting false (storeAvailability b) (clockOut n s) = t at *
  have hcleared {r : CRecord} (hr : r ∈ s.table) : newlyUnavailable (engineBefore s) (storeAvails b s).pledge r.dir r = true ↔
      r.state ≠ .opened ∧ flagFor (availOf s.pledge r.interval) r.dir = true ∧ flagFor (availOf t.pledge r.interval) r.dir = false := by
    have hin := hfirst ▸ horizon_of_horizonLaw hlaw hr
    rw [newlyUnavailable_iff, availOf_pruneEntries s.pledge hin, havail hin]
    simp
  have htable : t.table = (storeAvailability b (clockOut n s)).table := by rw [honly]
  have hline : t.line = (storeAvailability b (clockOut n s)).line := by rw [honly]
  have hflags : t.host.flags = (storeAvailability b (clockOut n s)).host.flags := by rw [honly]
  have hactiveIff : isActive (clockOut n s) = true ↔ s.ctrl.station = .active := by simp [isActive_iff]
  refine ⟨_, hexec, by simp, fun i f hf hk => (havail hk).trans (hnamed i f hf hk), fun k hk hnot => (havail hk).trans (hother k hk hnot),
    ?_, fun i r hi => ?_, fun hactive hqueue => ?_, fun hidle => ?_, ?_⟩
  · by_cases hactive : isActive (clockOut n s) = true
    · simp [htable, storeAvailability_table b hactive]
    · simp [htable, storeAvailability_idle b hactive, storeAvails]
  · have hr := List.mem_of_getElem? hi
    by_cases hactive : isActive (clockOut n s) = true
    · have hget : t.table[i]? =
          some (if newlyUnavailable (engineBefore s) (storeAvails b s).pledge r.dir r = true then r.withdraw .owner else r) := by
        rw [htable, storeAvailability_table b hactive, List.getElem?_map]
        exact congrArg _ hi
      by_cases hsel : newlyUnavailable (engineBefore s) (storeAvails b s).pledge r.dir r = true
      · rw [if_pos hsel] at hget
        obtain ⟨⟨-, -, -, -, -, -, hhold, hflag, -⟩, -⟩ := withdraw_fields r .owner
        refine ⟨_, hget, fun hnot => absurd ⟨hactiveIff.mp hactive, (hcleared hr).mp hsel⟩ hnot, fun _ =>
          ⟨withdrawnRecord_withdraw .owner r, hhold, hflag, ?_⟩⟩
        have hset := flagSet_storeAvailability b hactive (s := clockOut n s) hr hsel
        unfold flagSet at hset ⊢
        rw [← hflags] at hset
        exact hset
      · rw [if_neg hsel] at hget
        exact ⟨_, hget, fun _ => rfl, fun hyes => absurd ((hcleared hr).mpr hyes.2) hsel⟩
    · have hidle := mt hactiveIff.mpr hactive
      refine ⟨r, ?_, fun _ => rfl, fun hyes => absurd hyes.1 hidle⟩
      simpa [htable, storeAvailability_idle b hactive, storeAvails] using hi
  · have hnow := hactiveIff.mpr hactive
    obtain ⟨hclock', hkept, hraise, hlower⟩ := storeAvailability_announced b hnow (fun r hr => horizon_of_horizonLaw hlaw hr)
    have hhit (d : Direction) (k : Word) : (∃ r ∈ s.table, r.interval = k ∧ r.dir = d ∧ r.state ≠ .opened ∧
        flagFor (availOf s.pledge k) d = true ∧ flagFor (availOf t.pledge k) d = false) ↔
        OwnerHit (engineBefore s) (storeAvails b s).pledge d s.table k := by
      refine exists_congr fun r => and_congr_right fun hr => and_congr_right fun hk => ?_
      subst hk
      constructor
      · rintro ⟨rfl, hrest⟩
        exact (hcleared hr).mpr hrest
      · intro hsel
        obtain rfl := (newlyUnavailable_iff.mp hsel).1
        exact ⟨rfl, (hcleared hr).mp hsel⟩
    refine ⟨_, hclock', (queueLaw_iff _).mpr (hkept ((queueLaw_iff s).mp hqueue)), ?_, ?_⟩
    · exact announced_congr hraise (hhit .raise) rfl rfl rfl rfl
    · exact announced_congr hlower (hhit .lower) rfl rfl hline hflags
  · rw [storeAvailability_idle b (mt hactiveIff.mp hidle)] at hline hflags honly
    exact ⟨hline, by rw [honly]; rfl, hflags⟩
  · have hlog : (storeAvailability b (clockOut n s)).host.log = s.host.log := by
      unfold storeAvailability
      split <;> simp
    have hacc' : (storeAvailability b (clockOut n s)).pledge.acc = s.pledge.acc := by
      rw [storeAvailability_pledge]
      rfl
    refine ⟨?_, ?_, ?_, ?_, ?_, hacc.trans hacc', ?_⟩
    · rw [honly]; exact hctrl
    · rw [honly]; exact hclock
    · rw [honly]; exact hview
    · rw [honly]; exact hfreq
    · rw [honly]; exact hlog
    · rw [honly]; exact hpending

end Sys2Proof.Machine


/-! PROOFS. The single write of a pledge computation: what becomes of the records, and the note of every take it lowers (R50, R123). -/

namespace Sys2Proof.Machine

/-! ### A lowered take is noted -/

/-- A record whose lowered take is noted: the hold starts afresh, and a trigger waits for it (R123, R119). -/
def CRecord.noted (c : StationConfig) (waits : Bool) (r : CRecord) : CRecord :=
  { r with hold := some (holdMs c), evalPending := r.evalPending || waits }

/-- The trigger of a lowered take finds an award in ACTIVE. -/
def waitsAt (s : State) (kd : Word × Direction) : Bool :=
  isActive s && (findRec s.table kd.1 kd.2).any fun r => r.award.isSome

/-- The change of a lowered take, before its trigger. -/
def loweringTold (s : State) (kd : Word × Direction) : State :=
  enqueue (.take kd.1 kd.2) none
    (noteTakeChange kd.1 kd.2 ((findRec s.table kd.1 kd.2).any fun r => r.state == .running) s)

theorem loweringTold_table (s : State) (kd : Word × Direction) :
    (loweringTold s kd).table = (s.updRec kd.1 kd.2 (CRecord.held s.ctrl.config)).table := by
  unfold loweringTold
  rw [(enqueue_frame ..).2.2.1]
  exact noteTakeChange_table _

theorem noteLowered_eq (s : State) (kd : Word × Direction) : noteLowered s kd =
    if waitsAt s kd = true then setEvalPending kd.1 kd.2 true (loweringTold s kd) else loweringTold s kd := by
  have hactive : isActive (loweringTold s kd) = isActive s := by simp [loweringTold, isActive]
  change triggerEvaluation (loweringTold s kd) kd = _
  have hfound : findRec (loweringTold s kd).table kd.1 kd.2 = (findRec s.table kd.1 kd.2).map (CRecord.held s.ctrl.config) := by
    rw [loweringTold_table]
    exact findRec_mapRec_self kd.1 kd.2 (CRecord.held s.ctrl.config) s.table fun _ => ⟨rfl, rfl⟩
  unfold triggerEvaluation waitsAt
  rw [hfound, hactive]
  cases findRec s.table kd.1 kd.2 with
  | none => simp
  | some r => simp [CRecord.held]

theorem noteLowered_table (s : State) (kd : Word × Direction) : (noteLowered s kd).table =
    s.table.map fun u => if u.is kd.1 kd.2 = true then u.noted s.ctrl.config (waitsAt s kd) else u := by
  rw [noteLowered_eq]
  split
  next hwaits =>
    rw [setEvalPending, State.updRec, State.setTable_table, loweringTold_table, hwaits]
    simp only [State.updRec, State.setTable_table, mapRec, List.map_map]
    refine List.map_congr_left fun u _ => ?_
    by_cases hu : u.is kd.1 kd.2 = true
    · have hheld : (u.held s.ctrl.config).is kd.1 kd.2 = true := hu
      simp only [Function.comp_apply, hu, hheld, if_true]
      simp [CRecord.held, CRecord.noted]
    · simp [hu]
  next hwaits =>
    rw [loweringTold_table, Bool.eq_false_iff.mpr hwaits]
    refine List.map_congr_left fun u _ => ?_
    simp [CRecord.held, CRecord.noted]

theorem allocates_loweringTold (s : State) (kd : Word × Direction) : Allocates s (loweringTold s kd) :=
  (allocates_noteTakeChange kd.1 kd.2 _ s).trans (allocates_enqueueTake kd.1 kd.2 _)

theorem allocates_noteLowered (s : State) (kd : Word × Direction) : Allocates s (noteLowered s kd) := by
  rw [noteLowered_eq]
  split
  · exact (allocates_loweringTold s kd).trans (allocates_updRec kd.1 kd.2 (f := fun r => { r with evalPending := true }) (fun _ => rfl) _)
  · exact allocates_loweringTold s kd

theorem noteLowered_line (s : State) (kd : Word × Direction) : (noteLowered s kd).line = (loweringTold s kd).line ∧
    (noteLowered s kd).host = (loweringTold s kd).host := by
  rw [noteLowered_eq]
  split <;> exact ⟨rfl, rfl⟩

theorem takeHeld_of_line {k : Word} {d : Direction} {s t : State} (hline : t.line = s.line) (hflags : FlagsKept s t)
    (h : TakeHeld k d s) : TakeHeld k d t := by
  unfold TakeHeld at h ⊢
  rw [hline]
  exact h.imp_left fun h => ⟨h.1, hflags _ h.2⟩

theorem pledgeHeld_of_line {s t : State} (hline : t.line = s.line) (hflags : FlagsKept s t) (h : PledgeHeld s) : PledgeHeld t := by
  unfold PledgeHeld at h ⊢
  rw [hline]
  exact h.imp_left (hflags _)

theorem takeHeld_noteLowered (s : State) (kd : Word × Direction) : TakeHeld kd.1 kd.2 (noteLowered s kd) := by
  obtain ⟨hline, hhost⟩ := noteLowered_line s kd
  exact takeHeld_of_line hline (flagsKept_of_host hhost) (takeHeld_enqueue kd.1 kd.2 _)

theorem flagSet_noteLowered (s : State) (kd : Word × Direction) : flagSet .take (noteLowered s kd) = true := by
  refine flagsKept_of_host (noteLowered_line s kd).2 _ ?_
  exact (allocates_enqueueTake kd.1 kd.2 _).flags _ (flagSet_noteTakeChange _)

theorem entriesFrom_noteLowered {s : State} {kd : Word × Direction} {k : Word} {d : Direction} (hne : (k, d) ≠ kd) :
    EntriesFrom (.take k d) s (noteLowered s kd) := by
  have htold : EntriesFrom (.take k d) s (loweringTold s kd) :=
    (entriesFrom_of_queue (by simp) _).trans ((aside_enqueueTake kd.1 kd.2 _).entries k d hne)
  exact htold.trans (entriesFrom_of_queue (by rw [(noteLowered_line s kd).1]) _)

theorem waitsAt_of_allocates {s t : State} (h : Allocates s t) (kd : Word × Direction) : waitsAt t kd = waitsAt s kd := by
  have haward (r : Option CRecord) : r.any (fun r => r.award.isSome) = (r.map CRecord.fixed).any fun r => r.award.isSome := by
    cases r <;> rfl
  unfold waitsAt isActive
  rw [h.ctrl, haward, findRec_fixed h.fixed, ← haward]

/-- A record after the notes of some lowered takes. -/
def notedRecord (s : State) (pairs : Report) (u : CRecord) : CRecord :=
  if (u.interval, u.dir) ∈ pairs then u.noted s.ctrl.config (waitsAt s (u.interval, u.dir)) else u

theorem noted_noted (c : StationConfig) (waits : Bool) (u : CRecord) : (u.noted c waits).noted c waits = u.noted c waits := by
  simp [CRecord.noted]

/-- What the notes of the lowered takes leave. -/
structure LoweringsNoted (pairs : Report) (s t : State) : Prop where
  all : Allocates s t
  table : t.table = s.table.map (notedRecord s pairs)
  noted : ∀ kd ∈ pairs, TakeHeld kd.1 kd.2 t ∧ flagSet .take t = true
  entries : ∀ k d, (k, d) ∉ pairs → EntriesFrom (.take k d) s t

theorem loweringsNoted_foldl (pairs : Report) (s : State) : LoweringsNoted pairs s (pairs.foldl noteLowered s) := by
  induction pairs generalizing s with
  | nil => exact ⟨.refl s, (List.map_id'' (fun _ => if_neg List.not_mem_nil) _).symm, nofun, fun _ _ _ => entriesFrom_of_queue rfl _⟩
  | cons kd pairs ih =>
    have hfirst := allocates_noteLowered s kd
    have hrest := ih (noteLowered s kd)
    rw [List.foldl_cons]
    refine ⟨hfirst.trans hrest.all, ?_, fun kd' hkd => ?_, fun k d hnot => ?_⟩
    · rw [hrest.table, noteLowered_table, List.map_map]
      refine List.map_congr_left fun u _ => ?_
      have hwaits := waitsAt_of_allocates hfirst
      by_cases hu : (u.interval, u.dir) = kd
      · have his : u.is kd.1 kd.2 = true := by simp [CRecord.is, ← hu]
        have hkey : ((u.noted s.ctrl.config (waitsAt s kd)).interval, (u.noted s.ctrl.config (waitsAt s kd)).dir) = kd := hu
        simp only [Function.comp, his, if_true, notedRecord, hkey, hu, List.mem_cons_self, hwaits, hfirst.ctrl]
        split
        · exact noted_noted ..
        · rfl
      · have his : ¬ u.is kd.1 kd.2 = true := by
          simp only [CRecord.is, Bool.and_eq_true, beq_iff_eq]
          exact fun h => hu (Prod.ext h.1 h.2)
        simp only [Function.comp, his, notedRecord, hwaits, hfirst.ctrl, List.mem_cons, hu, false_or]
        simp
    · obtain rfl | hin := List.mem_cons.mp hkd
      · exact ⟨hrest.all.takes _ _ (takeHeld_noteLowered s kd'), hrest.all.flags _ (flagSet_noteLowered s kd')⟩
      · exact hrest.noted kd' hin
    · simp only [List.mem_cons, not_or] at hnot
      exact (entriesFrom_noteLowered hnot.1).trans (hrest.entries k d hnot.2)

/-! ### The records written -/

/-- The state of a computation's end once the lowered takes are noted, before its PLEDGE. -/
def loweringsDone (c : Computation) (s : State) : State :=
  (loweredPairs s c).foldl noteLowered (formLadders (frozenPairs s c) (s.setTable (writtenTable s c)))

theorem endComputation_eq (c : Computation) (s : State) :
    endComputation c s = afterWrite (pledgeInsert (writeChanges s c || c.refresh || c.price) (loweringsDone c s)) := rfl

/-- What the single write and its notes make of a record. -/
def writtenNoted (s : State) (c : Computation) (r : CRecord) : CRecord :=
  notedRecord (s.setTable (writtenTable s c)) (loweredPairs s c) (writtenRecord s c r)

theorem loweringsNoted_done (c : Computation) (s : State) :
    LoweringsNoted (loweredPairs s c) (formLadders (frozenPairs s c) (s.setTable (writtenTable s c))) (loweringsDone c s) :=
  loweringsNoted_foldl ..

theorem loweringsDone_table (c : Computation) (s : State) : (loweringsDone c s).table = s.table.map (writtenNoted s c) := by
  rw [(loweringsNoted_done c s).table, (formLadders_frame ..).2.2.1]
  have hnoted : notedRecord (formLadders (frozenPairs s c) (s.setTable (writtenTable s c))) (loweredPairs s c) =
      notedRecord (s.setTable (writtenTable s c)) (loweredPairs s c) := by
    funext u
    simp [notedRecord, waitsAt, isActive]
  rw [hnoted]
  simp [writtenTable, writtenNoted]

theorem mem_loweredPairs {s : State} {c : Computation} {kd : Word × Direction} : kd ∈ loweredPairs s c ↔
    ∃ r ∈ s.table, (writtenRecord s c r).take < r.take ∧ (r.interval, r.dir) = kd := by
  simp [loweredPairs, and_assoc]

theorem writtenNoted_of_lowered {s : State} {c : Computation} {r : CRecord} (hkd : (r.interval, r.dir) ∈ loweredPairs s c) :
    writtenNoted s c r = (writtenRecord s c r).noted s.ctrl.config (waitsAt (s.setTable (writtenTable s c)) (r.interval, r.dir)) := by
  obtain ⟨hinterval, hdir⟩ := writtenRecord_key s c r
  rw [writtenNoted, notedRecord, hinterval, hdir, if_pos hkd]
  rfl

theorem writtenNoted_of_not {s : State} {c : Computation} {r : CRecord} (hkd : (r.interval, r.dir) ∉ loweredPairs s c) :
    writtenNoted s c r = writtenRecord s c r := by
  obtain ⟨hinterval, hdir⟩ := writtenRecord_key s c r
  rw [writtenNoted, notedRecord, hinterval, hdir, if_neg hkd]

/-- The notes leave everything but the hold and the pending flag. -/
theorem writtenNoted_eq (s : State) (c : Computation) (r : CRecord) :
    writtenNoted s c r = { writtenRecord s c r with hold := (writtenNoted s c r).hold, evalPending := (writtenNoted s c r).evalPending } := by
  unfold writtenNoted notedRecord
  split <;> rfl

/-- With one record for each pair a record stands among the lowered ones exactly where its own take was lowered. -/
theorem mem_loweredPairs_of_nodup {s : State} {c : Computation} (hkeys : (recordKeys s.table).Nodup) {r : CRecord} (hr : r ∈ s.table) :
    (r.interval, r.dir) ∈ loweredPairs s c ↔ (writtenRecord s c r).take < r.take := by
  refine ⟨fun hkd => ?_, fun hlt => mem_loweredPairs.mpr ⟨r, hr, hlt, rfl⟩⟩
  obtain ⟨q, hq, hlt, hkey⟩ := mem_loweredPairs.mp hkd
  obtain ⟨hk, hd⟩ := Prod.mk.inj hkey
  obtain rfl : q = r := Option.some.inj ((findRec_of_mem hkeys hq).symm.trans (hk ▸ hd ▸ findRec_of_mem hkeys hr))
  exact hlt

theorem waitsAt_written {s : State} {c : Computation} (hkeys : (recordKeys s.table).Nodup) {r : CRecord} (hr : r ∈ s.table) :
    waitsAt (s.setTable (writtenTable s c)) (r.interval, r.dir) = (isActive s && r.award.isSome) := by
  obtain ⟨hinterval, hdir⟩ := writtenRecord_key s c r
  have hfound : findRec (writtenTable s c) r.interval r.dir = some (writtenRecord s c r) := by
    rw [← hinterval, ← hdir]
    exact findRec_of_mem (by rwa [recordKeys_writtenTable]) (List.mem_map_of_mem hr)
  have haward : (writtenRecord s c r).award = r.award :=
    writtenRecord_preserves (L := fun u => u.award = r.award) (fun _ => rfl) (fun _ => rfl) (fun _ => by simp)
  simp [waitsAt, hfound, haward, isActive]

theorem lowerCap_run (r : CRecord) (x : Nat) : (r.lowerCap x).lastSent = r.lastSent ∧ (r.lowerCap x).withdrawn = r.withdrawn ∧
    ((r.lowerCap x).take < r.take → (r.lowerCap x).run =
      r.run.map fun f => { f with maxTake := max f.maxTake (r.lowerCap x).take, minTake := min f.minTake (r.lowerCap x).take }) ∧
    ((r.lowerCap x).take = r.take → (r.lowerCap x).run = r.run) := by
  unfold CRecord.lowerCap
  dsimp only
  split
  next hlt => exact ⟨rfl, rfl, fun _ => rfl, fun h => absurd h (by simpa [CRecord.withTake] using hlt.ne)⟩
  next => exact ⟨rfl, rfl, fun h => absurd h (lt_irrefl _), fun _ => rfl⟩

/-- What the write itself leaves of a record's other pieces. -/
theorem writtenRecord_aside (s : State) (c : Computation) (r : CRecord) :
    (writtenRecord s c r).award = r.award ∧ (writtenRecord s c r).withdrawn = r.withdrawn ∧
    (writtenRecord s c r).lastSent = r.lastSent ∧ (writtenRecord s c r).hold = r.hold ∧
    (writtenRecord s c r).evalPending = r.evalPending ∧
    ((writtenRecord s c r).take < r.take → (writtenRecord s c r).run = r.run.map fun f =>
      { f with maxTake := max f.maxTake (writtenRecord s c r).take, minTake := min f.minTake (writtenRecord s c r).take }) ∧
    ((writtenRecord s c r).take = r.take → (writtenRecord s c r).run = r.run) := by
  refine writtenRecord_preserves (L := fun u => u.award = r.award ∧ u.withdrawn = r.withdrawn ∧ u.lastSent = r.lastSent ∧
    u.hold = r.hold ∧ u.evalPending = r.evalPending ∧ (u.take < r.take → u.run = r.run.map fun f =>
      { f with maxTake := max f.maxTake u.take, minTake := min f.minTake u.take }) ∧ (u.take = r.take → u.run = r.run))
    (fun _ => ⟨rfl, rfl, rfl, rfl, rfl, fun h => absurd h (lt_irrefl _), fun _ => rfl⟩)
    (fun _ => ⟨rfl, rfl, rfl, rfl, rfl, fun h => absurd h (lt_irrefl _), fun _ => rfl⟩) (fun _ => ?_)
  obtain ⟨hsent, hwithdrawn, hlower, hsame⟩ := lowerCap_run r (writtenFresh s c r)
  exact ⟨by simp, hwithdrawn, hsent, by simp, by simp, hlower, hsame⟩

/-- The record written, in the statement's words (R50, R29, R26). -/
theorem written_writtenRecord (s : State) (c : Computation) (r : CRecord) : Written s c r (writtenRecord s c r) := by
  obtain ⟨hinterval, hdir⟩ := writtenRecord_key s c r
  obtain ⟨haward, hwithdrawn, hsent, -⟩ := writtenRecord_aside s c r
  have hfresh : (if s.ctrl.station = .active then freshPledge s.ctrl.config s.pledge c (slotOf (tableFirst s) r.interval) r.dir
      (c.openRecs.any fun kd => kd.1 == r.interval && kd.2 == r.dir) else 0) = writtenFresh s c r := by
    unfold writtenFresh
    simp only [isActive_iff]
  unfold Written
  dsimp only
  rw [hfresh]
  refine ⟨hinterval, hdir, haward, hwithdrawn, hsent, fun hopen hgate => ?_, fun hopen hgate => ?_, fun hnot => ?_, ?_⟩
  · rw [writtenRecord_live hopen hgate]
    exact ⟨hopen, rfl, rfl, rfl, rfl⟩
  · rw [writtenRecord_frozen hopen hgate]
    refine ⟨rfl, rfl, rfl, rfl, ?_⟩
    cases hd : r.dir <;> rfl
  · rw [writtenRecord_committed hnot]
    simp
  · split
    next hopen => exact writtenRecord_preserves (L := fun u => u.take = r.take) (fun _ => rfl) (fun _ => rfl) (fun hnot => absurd hopen hnot)
    next hnot =>
      rw [writtenRecord_committed hnot]
      simp

theorem written_writtenNoted (s : State) (c : Computation) (r : CRecord) : Written s c r (writtenNoted s c r) := by
  rw [writtenNoted_eq]
  exact written_writtenRecord s c r

/-- A lowered take with its note; `t` is any state that holds what the notes held. -/
theorem loweringNoted_written {s t : State} {c : Computation} {r : CRecord} (hr : r ∈ s.table)
    (hnoted : ∀ kd ∈ loweredPairs s c, TakeHeld kd.1 kd.2 t ∧ flagSet .take t = true) : LoweringNoted s r (writtenNoted s c r) t := by
  obtain ⟨-, -, -, hhold, hpending, hlowered, hstands⟩ := writtenRecord_aside s c r
  have htake : (writtenNoted s c r).take = (writtenRecord s c r).take := by rw [writtenNoted_eq]
  have hrun : (writtenNoted s c r).run = (writtenRecord s c r).run := by rw [writtenNoted_eq]
  unfold LoweringNoted
  rw [hrun, htake]
  have hpair (hlt : (writtenRecord s c r).take < r.take) : (r.interval, r.dir) ∈ loweredPairs s c := mem_loweredPairs.mpr ⟨r, hr, hlt, rfl⟩
  refine ⟨fun hlt => ?_, fun hlaw hlt => ?_, fun hlaw hsame => ?_⟩
  · obtain ⟨hheld, hflag⟩ := hnoted _ (hpair hlt)
    refine ⟨by rw [writtenNoted_of_lowered (hpair hlt)]; rfl, hflag, ?_, hlowered hlt⟩
    obtain ⟨hshut, hdrop⟩ | hentry := hheld
    · exact .inl ⟨hshut.1, hdrop⟩
    · exact .inr hentry
  · rw [writtenNoted_of_lowered (hpair hlt), waitsAt_written (recordKeys_nodup hlaw) hr]
    simp [CRecord.noted, hpending, isActive]
  · have hnot : (r.interval, r.dir) ∉ loweredPairs s c := fun hkd =>
      ((mem_loweredPairs_of_nodup (recordKeys_nodup hlaw) hr).mp hkd).ne hsame
    rw [writtenNoted_of_not hnot]
    exact ⟨hhold, hpending, hstands hsame⟩

end Sys2Proof.Machine


/-! PROOFS. The offer ladders of a computation's end (R87, R90 to R92, Table 5-5). -/

namespace Sys2Proof.Machine

/-! ### A ladder -/

theorem cumulativeFrom_length (acc : Nat) (xs : List Nat) : (cumulativeFrom acc xs).length = xs.length := by
  induction xs generalizing acc with
  | nil => rfl
  | cons x xs ih => simp [cumulativeFrom, ih]

theorem getElem?_cumulativeFrom (acc : Nat) (xs : List Nat) {b : Nat} (hb : b < xs.length) :
    (cumulativeFrom acc xs)[b]? = some (acc + (xs.take (b + 1)).sum) := by
  induction xs generalizing acc b with
  | nil => simp at hb
  | cons x xs ih =>
    cases b with
    | zero => simp [cumulativeFrom]
    | succ b =>
      rw [cumulativeFrom, List.getElem?_cons_succ, ih (acc + x) (by simpa using hb)]
      simp [Nat.add_assoc]

/-- The running sums of a ladder's 16 bands. -/
theorem getElem?_cumulativeFrom_range (f : Nat → Nat) {n b : Nat} (hb : b < n) :
    (cumulativeFrom 0 ((List.range n).map f))[b]? = some ((List.range (b + 1)).map f).sum := by
  rw [getElem?_cumulativeFrom 0 _ (by simpa using hb), Nat.zero_add, ← List.map_take, List.take_range, Nat.min_eq_left (by omega)]

/-- The entries of the FRESH records of a pattern that hold one for an interval (R87). -/
def ladderOffers (view : List Peer) (k compare mask : Word) : List SlotEntry :=
  (view.filter fun p => p.status == .fresh && zoneMatch p.zone compare mask).filterMap (·.entryAt k)

theorem membersOf_offers (view : List Peer) (k : Word) (d : Direction) (compare mask : Word) :
    (membersOf view k d compare mask).map (fun m => (m.band, m.qty)) =
      (ladderOffers view k compare mask).map fun e => (e.band d, e.qty d) := by
  unfold membersOf ladderOffers
  rw [List.map_filterMap, List.filterMap_filter, List.map_filterMap]
  refine List.filterMap_congr fun p _ => ?_
  unfold Peer.asMember
  by_cases hp : p.status = .fresh ∧ zoneMatch p.zone compare mask = true
  · simp [hp, Function.comp_def]
  · have hnot : (p.status == .fresh && zoneMatch p.zone compare mask) = false := by simpa using hp
    simp [hp, hnot]

theorem membersOf_sum (view : List Peer) (k : Word) (d : Direction) (compare mask : Word) (b : Nat) :
    (((membersOf view k d compare mask).filter fun m => m.band == b).map (·.qty)).sum =
      (((ladderOffers view k compare mask).filter fun e => e.band d == b).map (·.qty d)).sum := by
  have hpairs := congrArg (fun l => ((l.filter fun x => x.1 == b).map Prod.snd).sum) (membersOf_offers view k d compare mask)
  simpa only [List.filter_map, List.map_map, Function.comp_def] using hpairs

theorem membersOf_count (view : List Peer) (k : Word) (d : Direction) (compare mask : Word) :
    ((membersOf view k d compare mask).filter fun m => decide (0 < m.qty)).length =
      ((ladderOffers view k compare mask).filter fun e => decide (0 < e.qty d)).length := by
  have hpairs := congrArg (fun l => (l.filter fun x => decide (0 < x.2)).length) (membersOf_offers view k d compare mask)
  simpa only [List.filter_map, List.length_map, Function.comp_def] using hpairs

/-- The ladder of a record that holds a frozen band (Table 5-5). -/
theorem ladderOf_formLadder {s : State} {u : CRecord} (hband : u.frozenBand.isSome = true) : LadderOf s u (formLadder s u) := by
  obtain ⟨band, hband⟩ := Option.isSome_iff_exists.mp hband
  have hbandSum (b : Nat) : bandSum (fun x => x == b) (membersOf s.view u.interval u.dir s.ctrl.config.bidCompare s.ctrl.config.bidMask)
      (if zoneMatch s.ctrl.config.zone s.ctrl.config.bidCompare s.ctrl.config.bidMask then some ⟨u.frozen.getD 0, u.frozenBand.getD 0⟩
        else none) =
      (((ladderOffers s.view u.interval s.ctrl.config.bidCompare s.ctrl.config.bidMask).filter fun e => e.band u.dir == b).map
        (·.qty u.dir)).sum +
      (if zoneMatch s.ctrl.config.zone s.ctrl.config.bidCompare s.ctrl.config.bidMask = true ∧ u.frozenBand = some b then
        u.frozen.getD 0 else 0) := by
    unfold bandSum
    rw [membersOf_sum]
    congr 1
    by_cases hzone : zoneMatch s.ctrl.config.zone s.ctrl.config.bidCompare s.ctrl.config.bidMask = true
    · simp [hzone, hband]
    · simp [hzone]
  refine ⟨rfl, rfl, rfl, rfl, by simp [formLadder, ladderSums], by simp [formLadder, ladderSums, cumulativeFrom_length],
    fun b hb => ⟨?_, ?_⟩, ?_, rfl⟩
  · have hb : b < 16 := List.mem_range.mp hb
    simp only [formLadder, ladderSums, List.getElem?_map, List.getElem?_range hb, Option.map_some]
    exact congrArg some (hbandSum b)
  · have hb : b < 16 := List.mem_range.mp hb
    have hsums := getElem?_cumulativeFrom_range (fun x => bandSum (fun y => y == x)
      (membersOf s.view u.interval u.dir s.ctrl.config.bidCompare s.ctrl.config.bidMask)
      (if zoneMatch s.ctrl.config.zone s.ctrl.config.bidCompare s.ctrl.config.bidMask then
        some ⟨u.frozen.getD 0, u.frozenBand.getD 0⟩ else none)) hb
    refine Eq.trans hsums ?_
    exact congrArg some (congrArg List.sum (List.map_congr_left fun x _ => hbandSum x))
  · refine congrArg₂ (· + ·) (membersOf_count ..) ?_
    by_cases hzone : zoneMatch s.ctrl.config.zone s.ctrl.config.bidCompare s.ctrl.config.bidMask = true
    · simp only [hzone, if_true]
      simp [zoneMatch] at hzone
      simp [hzone]
    · simp only [hzone]
      simp [zoneMatch] at hzone
      simp [hzone]

/-- A ladder is told by the pattern, the view and what is frozen of the record. -/
theorem formLadder_congr {s t : State} {u v : CRecord} (hctrl : t.ctrl = s.ctrl) (hview : t.view = s.view)
    (hkey : v.interval = u.interval ∧ v.dir = u.dir) (hfrozen : v.frozen = u.frozen) (hband : v.frozenBand = u.frozenBand) :
    formLadder t v = formLadder s u := by
  unfold formLadder
  rw [hctrl, hview, hkey.1, hkey.2, hfrozen, hband]

/-! ### The ladders held -/

/-- The ladders held for a pair. -/
def laddersOf (ladders : List Ladder) (kd : Word × Direction) : List Ladder :=
  ladders.filter fun m => m.interval == kd.1 && m.dir == kd.2

theorem laddersOf_held {ladders : List Ladder} {l : Ladder} (kd : Word × Direction) :
    laddersOf (ladders.filter (fun m => !(m.interval == l.interval && m.dir == l.dir)) ++ [l]) kd =
      if kd = (l.interval, l.dir) then [l] else laddersOf ladders kd := by
  unfold laddersOf
  rw [List.filter_append, List.filter_filter]
  split
  next hkd =>
    subst hkd
    have hnone : (ladders.filter fun m => (m.interval == l.interval && m.dir == l.dir) && !(m.interval == l.interval && m.dir == l.dir)) = [] :=
      List.filter_eq_nil_iff.mpr (by simp)
    rw [hnone]
    simp
  next hkd =>
    have hself : [l].filter (fun m => m.interval == kd.1 && m.dir == kd.2) = [] := by
      refine List.filter_eq_nil_iff.mpr fun m hm h => hkd ?_
      rw [List.mem_singleton.mp hm, Bool.and_eq_true, beq_iff_eq, beq_iff_eq] at h
      exact Prod.ext h.1.symm h.2.symm
    rw [hself, List.append_nil]
    refine List.filter_congr fun m _ => ?_
    by_cases hm : (m.interval == kd.1 && m.dir == kd.2) = true
    · simp only [hm, Bool.true_and, Bool.not_eq_true', Bool.and_eq_false_imp, beq_iff_eq, beq_eq_false_iff_ne]
      intro h h'
      rw [Bool.and_eq_true, beq_iff_eq, beq_iff_eq] at hm
      exact hkd (Prod.ext (hm.1.symm.trans h) (hm.2.symm.trans h'))
    · simp [hm]

/-- The ladders of some pairs have been formed. -/
structure LaddersFormed (pairs : Report) (s t : State) : Prop where
  table : t.table = s.table
  ctrl : t.ctrl = s.ctrl
  view : t.view = s.view
  formed : ∀ kd ∈ pairs, ∀ r, findRec s.table kd.1 kd.2 = some r → laddersOf t.pledge.ladders kd = [formLadder s r]
  others : ∀ kd, kd ∉ pairs → laddersOf t.pledge.ladders kd = laddersOf s.pledge.ladders kd

theorem laddersOf_addLadder (s : State) (kd kd' : Word × Direction) : laddersOf (addLadder s kd).pledge.ladders kd' =
    match findRec s.table kd.1 kd.2 with
    | some r => if kd' = kd then [formLadder s r] else laddersOf s.pledge.ladders kd'
    | none => laddersOf s.pledge.ladders kd' := by
  unfold addLadder
  cases hr : findRec s.table kd.1 kd.2 with
  | none => rfl
  | some r =>
    obtain ⟨-, hk, hd⟩ := findRec_some hr
    have hkey : ((formLadder s r).interval, (formLadder s r).dir) = kd := Prod.ext hk hd
    refine (laddersOf_held kd').trans ?_
    rw [hkey]

theorem laddersFormed_foldl (pairs : Report) (s : State) : LaddersFormed pairs s (pairs.foldl addLadder s) := by
  induction pairs generalizing s with
  | nil => exact ⟨rfl, rfl, rfl, nofun, fun _ _ => rfl⟩
  | cons kd pairs ih =>
    obtain ⟨htable, hctrl, hview, hformed, hothers⟩ := ih (addLadder s kd)
    obtain ⟨hctrl', -, htable', -, hview', -⟩ := addLadder_frame s kd
    have hsame (r : CRecord) : formLadder (addLadder s kd) r = formLadder s r :=
      formLadder_congr hctrl' hview' ⟨rfl, rfl⟩ rfl rfl
    rw [List.foldl_cons]
    refine ⟨htable.trans htable', hctrl.trans hctrl', hview.trans hview', fun kd' hkd' r hr => ?_, fun kd' hnot => ?_⟩
    · by_cases hrest : kd' ∈ pairs
      · rw [hformed kd' hrest r (by rw [htable']; exact hr), hsame]
      · obtain rfl := (List.mem_cons.mp hkd').resolve_right hrest
        rw [hothers kd' hrest, laddersOf_addLadder, hr]
        exact if_pos rfl
    · simp only [List.mem_cons, not_or] at hnot
      rw [hothers kd' hnot.2, laddersOf_addLadder]
      split
      · exact if_neg hnot.1
      · rfl

theorem mem_laddersOf {ladders : List Ladder} {l : Ladder} : l ∈ ladders ↔ l ∈ laddersOf ladders (l.interval, l.dir) := by
  simp [laddersOf]

/-! ### The ladders of a computation's end -/

theorem mem_frozenPairs {s : State} {c : Computation} {kd : Word × Direction} : kd ∈ frozenPairs s c ↔
    ∃ r ∈ s.table, r.state = .opened ∧ (c.boundary = true ∧ 1 ≤ slotOf (tableFirst s) r.interval ∧
      slotOf (tableFirst s) r.interval ≤ s.ctrl.config.gateLead) ∧ (r.interval, r.dir) = kd := by
  have hstate {r : CRecord} (hopen : r.state = .opened) : (writtenRecord s c r).state = .closed ↔ (c.boundary = true ∧
      1 ≤ slotOf (tableFirst s) r.interval ∧ slotOf (tableFirst s) r.interval ≤ s.ctrl.config.gateLead) := by
    constructor
    · intro hclosed
      by_contra hgate
      rw [writtenRecord_live hopen hgate] at hclosed
      cases hopen.symm.trans hclosed
    · intro hgate
      rw [writtenRecord_frozen hopen hgate]
      rfl
  simp only [frozenPairs, List.mem_map, List.mem_filter, Bool.and_eq_true, beq_iff_eq, and_assoc]
  refine exists_congr fun r => and_congr_right fun _ => and_congr_right fun hopen => ?_
  rw [hstate hopen]
  simp only [and_assoc]

/-- The ladders after the single write, over the records of one horizon (R90, R92). -/
theorem formLadders_made {s : State} {c : Computation} (huplink : s.ctrl.config.uplink = true) (hkeys : (recordKeys s.table).Nodup) :
    let ladders := (formLadders (frozenPairs s c) (s.setTable (writtenTable s c))).pledge.ladders
    (∀ r ∈ s.table, (r.interval, r.dir) ∈ frozenPairs s c →
      laddersOf ladders (r.interval, r.dir) = [formLadder s (writtenRecord s c r)]) ∧
    ∀ l : Ladder, (l.interval, l.dir) ∉ frozenPairs s c → (l ∈ ladders ↔ l ∈ s.pledge.ladders) := by
  have hform : formLadders (frozenPairs s c) (s.setTable (writtenTable s c)) =
      (frozenPairs s c).foldl addLadder (s.setTable (writtenTable s c)) := if_pos huplink
  rw [hform]
  have hmade := laddersFormed_foldl (frozenPairs s c) (s.setTable (writtenTable s c))
  refine ⟨fun r hr hkd => ?_, fun l hnot => ?_⟩
  · obtain ⟨hinterval, hdir⟩ := writtenRecord_key s c r
    refine hmade.formed _ hkd _ ?_
    have hfound := findRec_of_mem (table := writtenTable s c) (by rwa [recordKeys_writtenTable]) (List.mem_map_of_mem hr)
    rw [hinterval, hdir] at hfound
    exact hfound
  · rw [mem_laddersOf, hmade.others _ hnot]
    exact mem_laddersOf.symm

end Sys2Proof.Machine


/-! PROOFS. The end of a lock: the merit takes of an entry into ACTIVE, then the waiting evaluations (R106, R119). -/

namespace Sys2Proof.Machine

/-! ### What every piece of the work keeps -/

theorem allocates_triggerEvaluation (s : State) (kd : Word × Direction) : Allocates s (triggerEvaluation s kd) := by
  cases hr : findRec s.table kd.1 kd.2 with
  | none => rw [triggerEvaluation_of_absent hr]; exact .refl s
  | some r => exact (triggerEvaluation_reported hr).1.all

theorem allocates_evaluate (k : Word) (d : Direction) (s : State) : Allocates s (evaluate k d s) := by
  cases hr : findRec s.table k d with
  | none =>
    unfold evaluate
    rw [hr]
    exact .refl s
  | some r =>
    by_cases hnot : isActive s = false ∨ r.award = none
    · rw [evaluate_of_not hr hnot]
      exact .refl s
    · simp only [not_or, Bool.not_eq_false] at hnot
      obtain ⟨a, ha⟩ := Option.ne_none_iff_exists'.mp hnot.2
      exact (evaluate_spec hr ha hnot.1).1.all

theorem allocates_runPending (s : State) (kd : Word × Direction) : Allocates s (runPending s kd) :=
  (allocates_updRec kd.1 kd.2 (f := fun r => { r with evalPending := false }) (fun _ => rfl) s).trans (allocates_evaluate ..)

theorem writeMerit_of_not {k : Word} {d : Direction} {s : State} (hnot : ∀ r, findRec s.table k d = some r → r.award = none) :
    writeMerit k d s = s := by
  unfold writeMerit
  split
  next r hr => rw [hnot r hr]
  next => rfl

theorem allocates_meritAndTrigger (s : State) (kd : Word × Direction) : Allocates s (meritAndTrigger s kd) := by
  have hmerit : Allocates s (writeMerit kd.1 kd.2 s) := by
    by_cases hnot : ∀ r, findRec s.table kd.1 kd.2 = some r → r.award = none
    · rw [writeMerit_of_not hnot]
      exact .refl s
    · push Not at hnot
      obtain ⟨r, hr, haward⟩ := hnot
      obtain ⟨a, ha⟩ := Option.ne_none_iff_exists'.mp haward
      exact (writeMerit_spec hr ha).all
  unfold meritAndTrigger
  split
  · exact hmerit.trans (allocates_triggerEvaluation ..)
  · exact .refl s

theorem allocates_entryMerits (s : State) : Allocates (s.setEntryDue false) (entryMerits s) := by
  unfold entryMerits
  split
  · exact foldl_preserves (P := Allocates (s.setEntryDue false)) (fun u kd h => h.trans (allocates_meritAndTrigger u kd)) _ (.refl _)
  next hdue =>
    have hsame : s.setEntryDue false = s := by
      obtain hdue := Bool.eq_false_iff.mpr hdue
      rw [← hdue]
      rfl
    rw [hsame]
    exact .refl s

theorem allocates_lockEnds (s : State) : Allocates (s.setEntryDue false) (lockEnds s) :=
  foldl_preserves (P := Allocates (s.setEntryDue false)) (fun u kd h => h.trans (allocates_runPending u kd)) _ (allocates_entryMerits s)

/-! ### One pair after the other -/

/-- Work at each of some pairs: the record that it makes of each, and the takes that are tested. -/
theorem pairMade_foldl {f : State → Word × Direction → State} {g : CRecord → CRecord} {tests : CRecord → List Nat} {sel : CRecord → Bool}
    {I : State → Prop} (hkept : ∀ {s t}, I s → Allocates s t → I t) (hall : ∀ s kd, Allocates s (f s kd))
    (hwork : ∀ {s k d r}, I s → findRec s.table k d = some r → sel r = true → AllocatesAt k d r (g r) (tests r) s (f s (k, d)))
    {pairs : Report} (hnodup : pairs.Nodup) {s : State} (hs : I s)
    (hfound : ∀ kd ∈ pairs, ∃ r, findRec s.table kd.1 kd.2 = some r ∧ sel r = true)
    {k : Word} {d : Direction} {r : CRecord} (hr : findRec s.table k d = some r) :
    PairMade k d r (if (k, d) ∈ pairs then g r else r) (if (k, d) ∈ pairs then tests r else []) s (pairs.foldl f s) := by
  induction pairs generalizing s r with
  | nil => exact .refl hr
  | cons kd pairs ih =>
    obtain ⟨hfresh, hrest⟩ := List.nodup_cons.mp hnodup
    obtain ⟨r₀, hr₀, hsel₀⟩ := hfound kd List.mem_cons_self
    have hat := hwork hs hr₀ hsel₀
    have hs' := hkept hs hat.all
    have hfound' : ∀ kd' ∈ pairs, ∃ r, findRec (f s kd).table kd'.1 kd'.2 = some r ∧ sel r = true := by
      intro kd' hkd'
      obtain ⟨r', hr', hsel'⟩ := hfound kd' (List.mem_cons_of_mem _ hkd')
      have hne : kd' ≠ kd := fun h => hfresh (h ▸ hkd')
      exact ⟨r', (hat.aside.records kd'.1 kd'.2 hne).trans hr', hsel'⟩
    have hlater : Allocates (f s kd) (pairs.foldl f (f s kd)) :=
      foldl_preserves (P := Allocates (f s kd)) (fun u kd' h => h.trans (hall u kd')) _ (.refl _)
    rw [List.foldl_cons]
    by_cases hhere : (k, d) = kd
    · subst hhere
      obtain rfl : r = r₀ := Option.some.inj (hr.symm.trans hr₀)
      have hrestMade := ih hrest hs' hfound' hat.pair.after
      rw [if_neg hfresh, if_neg hfresh] at hrestMade
      rw [if_pos List.mem_cons_self, if_pos List.mem_cons_self, ← List.append_nil (tests r)]
      exact hat.pair.trans hrestMade hlater
    · have hrestMade := ih hrest hs' hfound' ((hat.aside.records k d hhere).trans hr)
      have hmem : (k, d) ∈ kd :: pairs ↔ (k, d) ∈ pairs := by simp [hhere]
      simp only [hmem]
      exact (hat.aside.pair hhere hr).trans hrestMade hlater

theorem mem_pairsWhere {table : List CRecord} {sel : CRecord → Bool} {kd : Word × Direction} :
    kd ∈ pairsWhere table sel ↔ ∃ r ∈ table, sel r = true ∧ (r.interval, r.dir) = kd := by
  simp [pairsWhere, and_assoc]

section
variable {table : List CRecord} (hkeys : (recordKeys table).Nodup) (sel : CRecord → Bool)
include hkeys

theorem pairsWhere_nodup : (pairsWhere table sel).Nodup :=
  hkeys.sublist (List.filter_sublist.map _)

theorem pairsWhere_found : ∀ kd ∈ pairsWhere table sel, ∃ r, findRec table kd.1 kd.2 = some r ∧ sel r = true := by
  intro kd hkd
  obtain ⟨r, hr, hsel, rfl⟩ := mem_pairsWhere.mp hkd
  exact ⟨r, findRec_of_mem hkeys hr, hsel⟩

theorem mem_pairsWhere_of_found {k : Word} {d : Direction} {r : CRecord} (hr : findRec table k d = some r) :
    (k, d) ∈ pairsWhere table sel ↔ sel r = true := by
  obtain ⟨hmem, hk, hd⟩ := findRec_some hr
  refine ⟨fun hin => ?_, fun hsel => mem_pairsWhere.mpr ⟨r, hmem, hsel, Prod.ext hk hd⟩⟩
  obtain ⟨q, hq, hsel, hkey⟩ := mem_pairsWhere.mp hin
  obtain ⟨rfl, rfl⟩ := Prod.mk.inj hkey
  obtain rfl := Option.some.inj (hr.symm.trans (findRec_of_mem hkeys hq))
  exact hsel

end

/-! ### The two parts of the end of a lock -/

/-- The takes tested at a record by the merit take of an entry into ACTIVE and the trigger after it. -/
def entryTests (s : State) (u : CRecord) : List Nat :=
  match u.award with
  | some a =>
    if s.entryTakesDue = true ∧ s.ctrl.station = .active then
      meritOf (membersFor s.view u.interval u.dir a) a u ::
        changeTest (takeChanged s.ctrl.config (meritOf (membersFor s.view u.interval u.dir a) a u) u) (entryRecord s u)
    else []
  | none => []

/-- The blocks that the end of a lock reads stand as they were. -/
structure LockOf (s u : State) : Prop where
  ctrl : u.ctrl = s.ctrl
  view : u.view = s.view
  free : busy u = false

theorem LockOf.after {s u v : State} (h : LockOf s u) (hv : Allocates u v) : LockOf s v :=
  ⟨hv.ctrl.trans h.ctrl, hv.view.trans h.view, by have := h.free; unfold busy at this ⊢; rw [hv.pledge]; exact this⟩

theorem meritAndTrigger_entry {s u : State} {k : Word} {d : Direction} {r : CRecord} (hlock : LockOf s u) (hdue : s.entryTakesDue = true)
    (hr : findRec u.table k d = some r) (haward : r.award.isSome = true) :
    AllocatesAt k d r (entryRecord s r) (entryTests s r) u (meritAndTrigger u (k, d)) := by
  obtain ⟨-, hk, hd⟩ := findRec_some hr
  obtain ⟨a, ha⟩ := Option.isSome_iff_exists.mp haward
  by_cases hactive : s.ctrl.station = .active
  · have hmade := meritAndTrigger_spec hr ha ((isActive_iff u).mpr (by rw [hlock.ctrl]; exact hactive)) hlock.free
    have hentry : entryRecord s r = allocatedRecord s.ctrl.config (membersFor s.view k d a) a r := by
      simp [entryRecord, ha, hdue, hactive, hk, hd]
    have htests : entryTests s r = meritOf (membersFor s.view k d a) a r ::
        changeTest (takeChanged s.ctrl.config (meritOf (membersFor s.view k d a) a r) r) (entryRecord s r) := by
      simp [entryTests, ha, hdue, hactive, hk, hd]
    rw [htests, hentry]
    rw [hlock.ctrl, hlock.view] at hmade
    exact hmade
  · have hidle : isActive u = false := by simpa [isActive, hlock.ctrl] using hactive
    have hsame : meritAndTrigger u (k, d) = u := by simp [meritAndTrigger, hidle]
    have hentry : entryRecord s r = r := by simp [entryRecord, ha, hactive]
    have htests : entryTests s r = [] := by simp [entryTests, ha, hactive]
    rw [hsame, hentry, htests]
    exact .refl hr

theorem runPending_waiting {s u : State} {k : Word} {d : Direction} {r : CRecord} (hlock : LockOf s u) (hr : findRec u.table k d = some r)
    (hsel : (r.evalPending && r.hold.isNone) = true) :
    AllocatesAt k d r (waitingRecord s r) (changeTest r (waitingRecord s r)) u (runPending u (k, d)) := by
  obtain ⟨-, hk, hd⟩ := findRec_some hr
  have hwaits : r.evalPending = true ∧ r.hold = none := by simpa using hsel
  have hclear := allocatesAt_setEvalPending false hr
  have hnow : LockOf s (setEvalPending k d false u) := hlock.after hclear.all
  change AllocatesAt k d r _ _ u (evaluate k d (setEvalPending k d false u))
  by_cases hnot : s.ctrl.station ≠ .active ∨ r.award = none
  · have hwaiting : waitingRecord s r = { r with evalPending := false } := by
      simp only [waitingRecord, hwaits, and_self, if_true]
      split
      next a ha => exact if_neg (hnot.resolve_right (by simp [ha]))
      next => rfl
    rw [hwaiting, changeTest, if_pos rfl, evaluate_of_not hclear.pair.after
      (hnot.imp_left fun h => by simpa [isActive, hlock.ctrl] using h)]
    exact hclear
  · simp only [not_or, not_not] at hnot
    obtain ⟨a, ha⟩ := Option.ne_none_iff_exists'.mp hnot.2
    obtain ⟨hmade, -⟩ := evaluate_spec hclear.pair.after (a := a) ha ((isActive_iff _).mpr (by rw [hnow.ctrl]; exact hnot.1))
    rw [hnow.ctrl, hnow.view] at hmade
    have hwaiting : waitingRecord s r =
        evaluatedRecord s.ctrl.config (membersFor s.view k d a) a { r with evalPending := false } := by
      simp [waitingRecord, hwaits, ha, hnot.1, hk, hd]
    rw [hwaiting]
    exact hclear.trans hmade

/-- The end of a lock at the record of (k, d), over the records of one horizon. -/
theorem lockEnds_made {s u : State} {k : Word} {d : Direction} {r : CRecord} (hlock : LockOf s u) (hdue : u.entryTakesDue = s.entryTakesDue)
    (hkeys : (recordKeys u.table).Nodup) (hr : findRec u.table k d = some r) :
    PairMade k d r (waitingRecord s (entryRecord s r))
      (entryTests s r ++ changeTest (entryRecord s r) (waitingRecord s (entryRecord s r))) (u.setEntryDue false) (lockEnds u) := by
  have hentry : PairMade k d r (entryRecord s r) (entryTests s r) (u.setEntryDue false) (entryMerits u) := by
    by_cases hdue' : s.entryTakesDue = true
    · have hmerits : entryMerits u = (pairsWhere u.table fun r => r.award.isSome).foldl meritAndTrigger (u.setEntryDue false) :=
        if_pos (hdue.trans hdue')
      have hmade := pairMade_foldl (I := LockOf s) (fun h => h.after) allocates_meritAndTrigger (fun h => meritAndTrigger_entry h hdue')
        (pairsWhere_nodup hkeys fun r => r.award.isSome) (s := u.setEntryDue false) ⟨hlock.ctrl, hlock.view, hlock.free⟩
        (pairsWhere_found hkeys _) hr
      rw [← hmerits] at hmade
      simp only [mem_pairsWhere_of_found hkeys _ hr] at hmade
      cases ha : r.award with
      | none => simpa [ha, entryRecord, entryTests] using hmade
      | some a => simpa [ha] using hmade
    · have hmerits : entryMerits u = u.setEntryDue false := by
        have hfalse : u.entryTakesDue = false := by simpa [hdue] using hdue'
        unfold entryMerits
        rw [if_neg (by simp [hfalse]), ← hfalse]
        rfl
      have hrecord : entryRecord s r = r := by
        unfold entryRecord
        split <;> simp [hdue']
      have htests : entryTests s r = [] := by
        unfold entryTests
        split <;> simp [hdue']
      rw [hmerits, hrecord, htests]
      exact .refl hr
  have hall := allocates_entryMerits u
  have hlock' : LockOf s (entryMerits u) := LockOf.after (u := u.setEntryDue false) ⟨hlock.ctrl, hlock.view, hlock.free⟩ hall
  have hkeys' : (recordKeys (entryMerits u).table).Nodup := by rw [recordKeys_of_fixed hall.fixed]; exact hkeys
  have hmade := pairMade_foldl (I := LockOf s) (fun h => h.after) allocates_runPending runPending_waiting
    (pairsWhere_nodup hkeys' fun r => r.evalPending && r.hold.isNone) hlock' (pairsWhere_found hkeys' _) hentry.after
  simp only [mem_pairsWhere_of_found hkeys' _ hentry.after] at hmade
  have hwaiting : PairMade k d (entryRecord s r) (waitingRecord s (entryRecord s r))
      (changeTest (entryRecord s r) (waitingRecord s (entryRecord s r))) (entryMerits u) (lockEnds u) := by
    by_cases hwaits : ((entryRecord s r).evalPending && (entryRecord s r).hold.isNone) = true
    · rw [if_pos hwaits, if_pos hwaits] at hmade
      exact hmade
    · have hsame : waitingRecord s (entryRecord s r) = entryRecord s r := if_neg (by simpa using hwaits)
      rw [if_neg hwaits, if_neg hwaits] at hmade
      rw [hsame, changeTest, if_pos rfl]
      exact hmade
  refine hentry.trans hwaiting ?_
  exact foldl_preserves (P := Allocates (entryMerits u)) (fun v kd h => h.trans (allocates_runPending v kd)) _ (.refl _)

end Sys2Proof.Machine


/-! PROOFS. The end of a pledge computation: the write, its ladders and PLEDGE, and what follows it (R50, R51, R56, R90). -/

namespace Sys2Proof.Machine

/-! ### The state before what follows the write -/

/-- The state after the write, its ladders, its lowered takes and its PLEDGE. -/
def writeDone (c : Computation) (s : State) : State :=
  pledgeInsert (writeChanges s c || c.refresh || c.price) (loweringsDone c s)

/-- A PLEDGE is due to the write (R56). -/
def pledgeDue (c : Computation) (s : State) : Prop :=
  (writeChanges s c = true ∨ c.refresh = true ∨ c.price = true) ∧
    (s.ctrl.station = .listening ∨ s.ctrl.station = .active ∨ s.ctrl.station = .suspended)

theorem pledgeInsert_eq (c : Computation) {s u : State} (hctrl : u.ctrl = s.ctrl) :
    (pledgeDue c s → pledgeInsert (writeChanges s c || c.refresh || c.price) u = enqueue .pledge none u) ∧
    (¬ pledgeDue c s → pledgeInsert (writeChanges s c || c.refresh || c.price) u = u) := by
  have hiff : ((writeChanges s c || c.refresh || c.price) && (u.ctrl.station == .listening || u.ctrl.station == .active ||
      u.ctrl.station == .suspended)) = true ↔ pledgeDue c s := by
    simp [pledgeDue, hctrl, or_assoc]
  exact ⟨fun h => if_pos (hiff.mpr h), fun h => if_neg (mt hiff.mp h)⟩

/-- What the write has made of every block. -/
structure WriteMade (c : Computation) (s t : State) : Prop where
  ctrl : t.ctrl = s.ctrl
  clock : t.clock = s.clock
  view : t.view = s.view
  freq : t.freq = s.freq
  due : t.entryTakesDue = s.entryTakesDue
  pending : t.pending = s.pending
  log : t.host.log = s.host.log
  pledge : ∃ l, t.pledge = { s.pledge with ladders := l }
  ladders : t.pledge.ladders = (formLadders (frozenPairs s c) (s.setTable (writtenTable s c))).pledge.ladders
  table : t.table = s.table.map (writtenNoted s c)
  noted : ∀ kd ∈ loweredPairs s c, TakeHeld kd.1 kd.2 t ∧ flagSet .take t = true
  entries : ∀ k d, (k, d) ∉ loweredPairs s c → EntriesFrom (.take k d) s t
  inserted : pledgeDue c s → PledgeHeld t
  kept : ¬ pledgeDue c s → EntriesFrom .pledge s t

theorem writeMade (c : Computation) (s : State) : WriteMade c s (writeDone c s) := by
  have hnoted := loweringsNoted_done c s
  have hpledge : (loweringsDone c s).pledge = (formLadders (frozenPairs s c) (s.setTable (writtenTable s c))).pledge := hnoted.all.pledge
  have hctrl : (loweringsDone c s).ctrl = s.ctrl := by rw [hnoted.all.ctrl]; simp
  obtain ⟨l, hl⟩ := formLadders_pledge (frozenPairs s c) (s.setTable (writtenTable s c))
  have hstart (key : NoticeKey) : EntriesFrom key s (formLadders (frozenPairs s c) (s.setTable (writtenTable s c))) :=
    entriesFrom_of_queue (by simp) _
  obtain ⟨hdue, hnot⟩ := pledgeInsert_eq c hctrl
  have hlog : (loweringsDone c s).host.log = s.host.log := by rw [hnoted.all.log]; simp
  have hinserted {P : State → Prop} (hsame : P (loweringsDone c s)) (hnew : P (enqueue .pledge none (loweringsDone c s))) :
      P (writeDone c s) := by
    unfold writeDone
    by_cases h : pledgeDue c s
    · rw [hdue h]; exact hnew
    · rw [hnot h]; exact hsame
  refine ⟨by simp [writeDone, hctrl], ?_, ?_, ?_, ?_, ?_, ?_, ⟨l, ?_⟩, ?_, ?_, fun kd hkd => ?_, fun k d hkd => ?_, fun h => ?_, fun h => ?_⟩
  · simp [writeDone, hnoted.all.clock]
  · simp [writeDone, hnoted.all.view]
  · simp [writeDone, hnoted.all.freq]
  · simp [writeDone, hnoted.all.due]
  · simp [writeDone, hnoted.all.pending]
  · exact hinserted (P := fun u => u.host.log = s.host.log) hlog (by simpa using hlog)
  · simp [writeDone, hpledge, hl]
  · simp [writeDone, hpledge]
  · simp [writeDone, loweringsDone_table]
  · obtain ⟨hheld, hflag⟩ := hnoted.noted kd hkd
    exact hinserted (P := fun u => TakeHeld kd.1 kd.2 u ∧ flagSet .take u = true) ⟨hheld, hflag⟩
      ⟨hheld.enqueue rfl, flagsKept_enqueue _ _ _ _ hflag⟩
  · have hbefore := (hstart _).trans (hnoted.entries k d hkd)
    exact hinserted (P := EntriesFrom (.take k d) s) hbefore (hbefore.trans (entriesFrom_enqueue rfl (fun h => by cases h) _ _))
  · unfold writeDone
    rw [hdue h]
    exact pledgeHeld_enqueue _
  · unfold writeDone
    rw [hnot h]
    exact (hstart _).trans hnoted.all.entries

/-! ### What follows -/

/-- What stands of the queue through what follows the write. -/
structure Follows (s t : State) : Prop where
  flags : FlagsKept s t
  takes : ∀ k d, TakeHeld k d s → TakeHeld k d t
  pledges : PledgeHeld s → PledgeHeld t
  entries : EntriesFrom .pledge s t

theorem follows_of_line {s t : State} (hline : t.line = s.line) (hflags : FlagsKept s t) : Follows s t :=
  ⟨hflags, fun _ _ => takeHeld_of_line hline hflags, pledgeHeld_of_line hline hflags, entriesFrom_of_queue (by rw [hline]) _⟩

theorem flagsKept_handInterval (k : Word) (s : State) : FlagsKept s (handInterval k s) := by
  refine foldl_preserves (P := FlagsKept s) (fun u r hu => hu.trans ?_) _ (fun _ => id)
  unfold handRecord addSettlement
  split
  · dsimp only
    generalize hv : u.setHost _ = v
    have hset : FlagsKept u v := fun e he => by rw [← hv]; exact he
    exact (hset.trans (flagsKept_raiseWhen _ _ v)).trans (flagsKept_raiseEvent _ _)
  · exact fun _ => id

theorem flagsKept_performBoundary (s : State) : FlagsKept s (performBoundary s) :=
  (flagsKept_handInterval (s.clock.current - 1) s).trans (flagsKept_of_host (by simp [performBoundary]))

/-- The records handed over make the same log on the same records and log. -/
theorem handInterval_log (k : Word) {s t : State} (htable : t.table = s.table) (hlog : t.host.log = s.host.log) :
    (handInterval k t).host.log = (handInterval k s).host.log := by
  have hone (r : CRecord) {u v : State} (h : v.host.log = u.host.log) : (handRecord v r).host.log = (handRecord u r).host.log := by
    unfold handRecord addSettlement
    split
    · simp [h]
    · exact h
  have hfold (rs : List CRecord) {u v : State} (h : v.host.log = u.host.log) :
      (rs.foldl handRecord v).host.log = (rs.foldl handRecord u).host.log := by
    induction rs generalizing u v with
    | nil => exact h
    | cons r rs ih => exact ih (hone r h)
  unfold handInterval
  rw [htable]
  exact hfold _ hlog

theorem afterWrite_held {s : State} (h : s.pledge.boundaryPending = true) : afterWrite s =
    startComputation true (s.pledge.rerun.getD false) false (performBoundary (s.setPledge { s.pledge with rerun := none })) :=
  if_pos h

theorem afterWrite_rerun {s : State} {mark : Bool} (h : s.pledge.boundaryPending = false) (hrerun : s.pledge.rerun = some mark) :
    afterWrite s = startComputation false mark false (s.setPledge { s.pledge with rerun := none }) := by
  refine (if_neg (by simp [h])).trans ?_
  rw [hrerun]

/-- The state whose lock ends. -/
def unlocked (s : State) : State := s.setPledge { s.pledge with rerun := none, comp := none }

theorem afterWrite_free {s : State} (h : s.pledge.boundaryPending = false) (hrerun : s.pledge.rerun = none) :
    afterWrite s = lockEnds (unlocked s) := by
  refine (if_neg (by simp [h])).trans ?_
  rw [hrerun]
  rfl

theorem follows_afterWrite (s : State) : Follows s (afterWrite s) := by
  cases hheld : s.pledge.boundaryPending with
  | true =>
    rw [afterWrite_held hheld]
    refine follows_of_line (by simp) ?_
    exact (flagsKept_performBoundary (s.setPledge { s.pledge with rerun := none })).trans (flagsKept_of_host (by simp))
  | false =>
    cases hrerun : s.pledge.rerun with
    | some mark =>
      rw [afterWrite_rerun hheld hrerun]
      exact follows_of_line (by simp) (flagsKept_of_host (by simp))
    | none =>
      rw [afterWrite_free hheld hrerun]
      have hlock := allocates_lockEnds (unlocked s)
      have hstart : Follows s ((unlocked s).setEntryDue false) := follows_of_line rfl fun _ => id
      exact ⟨hstart.flags.trans hlock.flags, fun k d h => hlock.takes k d (hstart.takes k d h),
        fun h => hlock.pledges (hstart.pledges h), hstart.entries.trans hlock.entries⟩

/-- The Pledge Engine after what follows the write. -/
theorem afterWrite_pledge (s : State) : (afterWrite s).pledge.eHost = s.pledge.eHost ∧ (afterWrite s).pledge.acc = s.pledge.acc ∧
    (afterWrite s).pledge.rerun = none ∧ (afterWrite s).pledge.boundaryPending = false ∧
    (s.pledge.boundaryPending = true → (afterWrite s).pledge.comp.map (·.boundary) = some true) ∧
    (s.pledge.boundaryPending = false → s.pledge.rerun = none → (afterWrite s).pledge.comp = none) ∧
    (∀ mark, s.pledge.rerun = some mark → (afterWrite s).pledge.comp.map (·.refresh) = some mark) ∧
    (s.pledge.boundaryPending = false → (afterWrite s).pledge.ladders = s.pledge.ladders) := by
  cases hheld : s.pledge.boundaryPending with
  | true =>
    rw [afterWrite_held hheld]
    obtain ⟨-, hboundary, hrefresh, -⟩ := startComputation_marks true (s.pledge.rerun.getD false) false
      (performBoundary (s.setPledge { s.pledge with rerun := none }))
    refine ⟨?_, ?_, ?_, ?_, fun _ => hboundary, nofun, fun mark hmark => ?_, nofun⟩
    · simp [startComputation, performBoundary, pruneEntries, keepLadders]
    · simp [startComputation, performBoundary, pruneEntries, keepLadders]
    · simp [startComputation, performBoundary, pruneEntries, keepLadders]
    · simp [startComputation, performBoundary, pruneEntries, keepLadders]
    · rw [hrefresh, hmark]
      rfl
  | false =>
    cases hrerun : s.pledge.rerun with
    | some mark =>
      rw [afterWrite_rerun hheld hrerun]
      obtain ⟨-, -, hrefresh, -⟩ := startComputation_marks false mark false (s.setPledge { s.pledge with rerun := none })
      exact ⟨rfl, rfl, rfl, hheld, nofun, nofun, fun mark' hmark => by rw [hrefresh]; exact hmark, fun _ => rfl⟩
    | none =>
      rw [afterWrite_free hheld hrerun, (lockEnds_frame _).2.2.1]
      exact ⟨rfl, rfl, rfl, hheld, nofun, fun _ _ => rfl, nofun, fun _ => rfl⟩

end Sys2Proof.Machine


/-! PROOFS. The single write of a pledge computation, and what follows it, settled (R50, R51). -/

namespace Sys2Proof.Machine

section
variable {c : Computation} {s y : State} (hw : WriteMade c s y)
include hw

/-- What the write wrote at an index. -/
theorem WriteMade.recordAt {i : Nat} {r : CRecord} (hi : s.table[i]? = some r) : y.table[i]? = some (writtenNoted s c r) := by
  rw [hw.table, List.getElem?_map, hi]
  rfl

theorem WriteMade.keys : recordKeys y.table = recordKeys s.table := by
  rw [hw.table]
  simp only [recordKeys, List.map_map]
  refine List.map_congr_left fun r _ => ?_
  obtain ⟨hinterval, hdir, -⟩ := written_writtenNoted s c r
  exact Prod.ext hinterval hdir

/-- The write changes an offer exactly where the statement's words say it (R56). -/
theorem WriteMade.changed_iff : (∃ i : Nat, ∃ r ∈ s.table[i]?, ∃ u ∈ y.table[i]?,
    u.live ≠ r.live ∨ u.cap ≠ r.cap ∨ u.state ≠ r.state) ↔ writeChanges s c = true := by
  have hone (r : CRecord) :
      ((writtenNoted s c r).live ≠ r.live ∨ (writtenNoted s c r).cap ≠ r.cap ∨ (writtenNoted s c r).state ≠ r.state) ↔
      ((writtenRecord s c r).live != r.live || (writtenRecord s c r).cap != r.cap || (writtenRecord s c r).state != r.state) = true := by
    rw [writtenNoted_eq]
    simp [or_assoc]
  simp only [writeChanges, List.any_eq_true, ← hone]
  constructor
  · rintro ⟨i, r, hr, u, hu, hne⟩
    obtain rfl := Option.some.inj ((hw.recordAt hr).symm.trans hu)
    exact ⟨r, List.mem_of_getElem? hr, hne⟩
  · rintro ⟨r, hr, hne⟩
    obtain ⟨i, hi⟩ := List.getElem?_of_mem hr
    exact ⟨i, r, hi, _, hw.recordAt hi, hne⟩

/-- The entries for a record whose take was not lowered are those from before. -/
theorem WriteMade.entriesOf (hlaw : HorizonLaw s) {r : CRecord} (hr : r ∈ s.table) (hsame : (writtenNoted s c r).take = r.take) :
    EntriesFrom (.take r.interval r.dir) s y := by
  refine hw.entries _ _ fun hkd => ?_
  rw [mem_loweredPairs_of_nodup (recordKeys_nodup hlaw) hr] at hkd
  rw [writtenNoted_eq] at hsame
  exact hkd.ne hsame

/-! ### A held boundary -/

/-- A held boundary is performed on the records as written (R30, R51). -/
theorem WriteMade.boundary (hheld : s.pledge.boundaryPending = true) (hlaw : HorizonLaw s) (hjoined : s.ctrl.station ≠ .unjoined) :
    HorizonLaw (afterWrite y) ∧
    (afterWrite y).host.log = (handInterval (s.clock.current - 1) { s with table := y.table }).host.log ∧
    ∀ u ∈ y.table, u.interval ≠ s.clock.current - 1 → findRec (afterWrite y).table u.interval u.dir =
      some (if u.interval = s.clock.current then { u with state := .running, run := some ⟨u.take, u.take, 0, 0, 0⟩ } else u) := by
  obtain ⟨l, hl⟩ := hw.pledge
  have hkeys : recordKeys y.table = horizonPairs (s.clock.current - 1) := by
    rw [hw.keys, (horizonLaw_of_joined hjoined).mp hlaw, Machine.tableFirst, if_pos hheld]
  obtain ⟨hnext, hlater, -⟩ := findRec_slideTable hkeys
  have hpending : (afterWrite y).pledge.boundaryPending = false := (afterWrite_pledge y).2.2.2.1
  have hclock : (afterWrite y).clock = s.clock := by simp [hw.clock]
  have hstation : (afterWrite y).ctrl.station ≠ .unjoined := by simpa [hw.ctrl] using hjoined
  have hafter := afterWrite_held (s := y) (by rw [hl]; exact hheld)
  have htable : (afterWrite y).table = slideTable s.clock.current y.table := by
    rw [hafter, (startComputation_frame ..).2.2.1, performBoundary_table]
    exact congrArg (fun c => slideTable c y.table) (congrArg _ hw.clock)
  refine ⟨(horizonLaw_of_joined hstation).mpr ?_, ?_, fun u hu hne => ?_⟩
  · rw [htable, hnext, Machine.tableFirst, if_neg (by simp [hpending]), hclock]
  · rw [hafter]
    have hlog := handInterval_log (s.clock.current - 1) (s := { s with table := y.table })
      (t := y.setPledge { y.pledge with rerun := none }) rfl hw.log
    simpa [performBoundary, hw.clock] using hlog
  · rw [htable, hlater u hu hne]
    rfl

/-! ### The end of the lock -/

variable (hheld : s.pledge.boundaryPending = false)
include hheld

theorem WriteMade.free_or_rerun : (s.pledge.rerun = none ∧ afterWrite y = lockEnds (unlocked y)) ∨
    (s.pledge.rerun.isSome = true ∧ (afterWrite y).table = y.table ∧ (afterWrite y).entryTakesDue = s.entryTakesDue) := by
  obtain ⟨l, hl⟩ := hw.pledge
  have hheld' : y.pledge.boundaryPending = false := by rw [hl]; exact hheld
  cases hrerun : s.pledge.rerun with
  | none => exact .inl ⟨rfl, afterWrite_free hheld' (by rw [hl]; exact hrerun)⟩
  | some mark =>
    refine .inr ⟨rfl, ?_⟩
    rw [afterWrite_rerun hheld' (mark := mark) (by rw [hl]; exact hrerun)]
    exact ⟨by simp, by simpa using hw.due⟩

theorem WriteMade.fixed : fixedTable (afterWrite y).table = fixedTable y.table := by
  obtain ⟨-, hafter⟩ | ⟨-, htable, -⟩ := hw.free_or_rerun hheld
  · rw [hafter]
    exact (allocates_lockEnds (unlocked y)).fixed
  · rw [htable]

/-- What stands of a record at the end of the lock. -/
theorem WriteMade.recordKept {i : Nat} {u : CRecord} (hi : y.table[i]? = some u) :
    ∃ v, (afterWrite y).table[i]? = some v ∧ v.fixed = u.fixed := by
  have hfixed := congrArg (fun l => l[i]?) (hw.fixed hheld)
  simp only [fixedTable, List.getElem?_map, hi, Option.map_some] at hfixed
  exact Option.map_eq_some_iff.mp hfixed

/-- With no merit take due and no evaluation waiting the written records stand. -/
theorem WriteMade.stands (hdue : s.entryTakesDue = false) (hnone : ∀ q ∈ s.table, q.evalPending = false) :
    (afterWrite y).table = y.table := by
  obtain ⟨-, hafter⟩ | ⟨-, htable, -⟩ := hw.free_or_rerun hheld
  · have hdue' : (unlocked y).entryTakesDue = false := hw.due.trans hdue
    have hentry : entryMerits (unlocked y) = unlocked y := if_neg (by simp [hdue'])
    have hidle : (pairsWhere (unlocked y).table fun r => r.evalPending && r.hold.isNone) = [] := by
      refine List.map_eq_nil_iff.mpr (List.filter_eq_nil_iff.mpr fun u hu => ?_)
      have hu : u ∈ y.table := hu
      rw [hw.table] at hu
      obtain ⟨r, hr, rfl⟩ := List.mem_map.mp hu
      by_cases hkd : (r.interval, r.dir) ∈ loweredPairs s c
      · rw [writtenNoted_of_lowered hkd]
        simp [CRecord.noted]
      · obtain ⟨-, -, -, -, hpending, -⟩ := writtenRecord_aside s c r
        rw [writtenNoted_of_not hkd, hpending, hnone r hr]
        simp
    rw [hafter, lockEnds, hentry]
    rw [hidle]
    rfl
  · exact htable

end

theorem takeTested_from {xs : List Nat} {r : CRecord} {s y t : State} (hbefore : EntriesFrom (.take r.interval r.dir) s y)
    (h : TakeTested xs r y t) : TakeTested xs r s t :=
  ⟨h.1, fun hnone => EntriesFrom.trans hbefore (h.2 hnone)⟩

theorem mem_changeTest {r u : CRecord} {x : Nat} : x ∈ changeTest r u ↔ u.take ≠ r.take ∧ x = u.take := by
  unfold changeTest
  split
  next h => simp [h]
  next h => simp [h]

/-- The takes that the end of a lock tests, as the statement lists them. -/
theorem lockTests {s : State} {u v : CRecord} {x : Nat} :
    let w := entryRecord s u
    let merits := (u.award.map fun a => meritOf (membersFor s.view u.interval u.dir a) a u).toList
    (s.entryTakesDue = true ∧ s.ctrl.station = .active ∧ u.award.isSome = true →
      (x ∈ merits ++ [w.take, v.take] ↔ x ∈ entryTests s u ++ changeTest w v)) ∧
    (¬ (s.entryTakesDue = true ∧ s.ctrl.station = .active ∧ u.award.isSome = true) →
      (x ∈ (if v.take = u.take then [] else [v.take]) ↔ x ∈ entryTests s u ++ changeTest w v)) := by
  intro w merits
  refine ⟨fun ⟨hdue, hactive, haward⟩ => ?_, fun hnot => ?_⟩
  · obtain ⟨a, ha⟩ := Option.isSome_iff_exists.mp haward
    have hmerits : merits = [meritOf (membersFor s.view u.interval u.dir a) a u] := by simp [merits, ha]
    have htests : entryTests s u = meritOf (membersFor s.view u.interval u.dir a) a u ::
        changeTest (takeChanged s.ctrl.config (meritOf (membersFor s.view u.interval u.dir a) a u) u) w := by
      simp [entryTests, ha, hdue, hactive, w]
    rw [hmerits, htests]
    simp only [List.mem_append, List.mem_cons, List.not_mem_nil, or_false, mem_changeTest, takeChanged_take]
    generalize meritOf (membersFor s.view u.interval u.dir a) a u = m
    by_cases hw : w.take = m
    · subst hw
      by_cases hv : v.take = w.take <;> simp [hv]
    · by_cases hv : v.take = w.take <;> simp [hw, hv, or_assoc]
  · have hplain : w = u ∧ entryTests s u = [] := by
      simp only [w]
      unfold entryRecord entryTests
      cases ha : u.award with
      | none => simp
      | some a =>
        have hidle : ¬ (s.entryTakesDue = true ∧ s.ctrl.station = .active) := fun h => hnot ⟨h.1, h.2, by simp [ha]⟩
        simp [hidle]
    rw [hplain.1, hplain.2]
    exact Iff.rfl

/-- The end of the lock at each record (R106, R119). -/
theorem WriteMade.lockEnded {c : Computation} {s y : State} (hw : WriteMade c s y) (hheld : s.pledge.boundaryPending = false)
    (hrerun : s.pledge.rerun = none) (hlaw : HorizonLaw s) {i : Nat} {r u : CRecord} (hi : s.table[i]? = some r)
    (hu : y.table[i]? = some u) : ∃ v, (afterWrite y).table[i]? = some v ∧ LockEnded s r u v (afterWrite y) := by
  obtain ⟨v, hv, hfixed⟩ := hw.recordKept hheld hu
  have hafter : afterWrite y = lockEnds (unlocked y) := ((hw.free_or_rerun hheld).resolve_right (by simp [hrerun])).2
  have hr := List.mem_of_getElem? hi
  obtain rfl : writtenNoted s c r = u := Option.some.inj ((hw.recordAt hi).symm.trans hu)
  obtain ⟨hinterval, hdir, -⟩ := written_writtenNoted s c r
  obtain ⟨hinterval', hdir', -⟩ := fields_of_fixed hfixed
  have hkeys : (recordKeys y.table).Nodup := by rw [hw.keys]; exact recordKeys_nodup hlaw
  have hmade := lockEnds_made (s := s) (u := unlocked y) ⟨hw.ctrl, hw.view, rfl⟩ hw.due hkeys
    (findRec_of_mem hkeys (List.mem_of_getElem? hu))
  rw [← hafter] at hmade
  have hkeys' : (recordKeys (afterWrite y).table).Nodup := by rw [recordKeys_of_fixed (hw.fixed hheld)]; exact hkeys
  have hfound := findRec_of_mem hkeys' (List.mem_of_getElem? hv)
  rw [hinterval', hdir'] at hfound
  obtain rfl := Option.some.inj (hfound.symm.trans hmade.after)
  refine ⟨_, hv, rfl, hmade.raised, fun hsame => ?_⟩
  have hbefore := hw.entriesOf hlaw hr hsame
  rw [← hinterval, ← hdir] at hbefore
  have htested {ys : List Nat} (h : ∀ x, x ∈ ys ↔ x ∈ _) : TakeTested ys (writtenNoted s c r) s (afterWrite y) :=
    takeTested_from hbefore (hmade.tested h)
  split
  next hall => exact htested fun x => lockTests.1 hall
  next hnot => exact htested fun x => lockTests.2 hnot

/-! ### The ladders -/

/-- The ladders of the records frozen at the gate, and every other ladder (R90, R92). -/
theorem WriteMade.laddersMade {c : Computation} {s y : State} (hw : WriteMade c s y) (huplink : s.ctrl.config.uplink = true)
    (hlaw : HorizonLaw s) :
    let gate (r : CRecord) : Prop := c.boundary = true ∧ 1 ≤ slotOf (Machine.tableFirst s) r.interval ∧
      slotOf (Machine.tableFirst s) r.interval ≤ s.ctrl.config.gateLead
    (∀ (i : Nat) (r u : CRecord), s.table[i]? = some r → y.table[i]? = some u → r.state = .opened → gate r →
      ∃ l, (y.pledge.ladders.filter fun m => m.interval == r.interval && m.dir == r.dir) = [l] ∧ LadderOf s u l) ∧
    ∀ l : Ladder, (∀ r ∈ s.table, r.state = .opened → gate r → (l.interval, l.dir) ≠ (r.interval, r.dir)) →
      (l ∈ y.pledge.ladders ↔ l ∈ s.pledge.ladders) := by
  intro gate
  obtain ⟨hmade, hothers⟩ := formLadders_made (c := c) huplink (recordKeys_nodup hlaw)
  rw [hw.ladders]
  refine ⟨fun i r u hi hu hopen hgate => ?_, fun l hnone => hothers l fun hkd => ?_⟩
  · have hr := List.mem_of_getElem? hi
    obtain rfl := Option.some.inj ((hw.recordAt hi).symm.trans hu)
    obtain ⟨hinterval, hdir, -⟩ := written_writtenNoted s c r
    have hrecord : formLadder s (writtenRecord s c r) = formLadder s (writtenNoted s c r) :=
      formLadder_congr rfl rfl (by rw [writtenNoted_eq]; exact ⟨rfl, rfl⟩) (by rw [writtenNoted_eq]) (by rw [writtenNoted_eq])
    have hband : (writtenNoted s c r).frozenBand.isSome = true := by
      rw [writtenNoted_eq, writtenRecord_frozen hopen hgate]
      rfl
    exact ⟨_, hmade r hr (mem_frozenPairs.mpr ⟨r, hr, hopen, hgate, rfl⟩), hrecord ▸ ladderOf_formLadder hband⟩
  · obtain ⟨r, hr, hopen, hgate, hkey⟩ := mem_frozenPairs.mp hkd
    exact hnone r hr hopen hgate hkey.symm

/-- Settles O30: the write by record, then each of the three things that follow it. -/
theorem computationWrites : Obligations.ComputationWrites := by
  unfold Obligations.ComputationWrites
  intro c s hcomp
  have hexec : exec .computationEnd s = .next (endComputation c s) := by
    change execComputationEnd s = _
    rw [execComputationEnd, hcomp]
  have hw := writeMade c s
  have hend : endComputation c s = afterWrite (writeDone c s) := endComputation_eq c s
  obtain ⟨hctrl, hclock, hview, hfreq, -, hpending⟩ := endComputation_frame s c
  rw [hend] at hexec hctrl hclock hview hfreq hpending
  generalize writeDone c s = y at hw hexec hctrl hclock hview hfreq hpending
  obtain ⟨l, hl⟩ := hw.pledge
  obtain ⟨hhost, hacc, hrerun, hnotheld, hboundary, hfree, hmark, hladders⟩ := afterWrite_pledge y
  have hfollows := follows_afterWrite y
  have hheldEq : y.pledge.boundaryPending = s.pledge.boundaryPending := by rw [hl]
  have hrerunEq : y.pledge.rerun = s.pledge.rerun := by rw [hl]
  rw [hheldEq] at hboundary hfree hladders
  rw [hrerunEq] at hfree hmark
  refine ⟨_, hexec, hctrl, hclock, hview, hfreq, by rw [hhost, hl], by rw [hacc, hl], hrerun, hnotheld, hpending,
    fun hheld hlaw => ⟨hboundary hheld, fun hjoined => (hw.boundary hheld hlaw hjoined).1⟩, hfree, hmark, y.table,
    by rw [hw.table, List.length_map], fun i r hi => ⟨_, hw.recordAt hi, written_writtenNoted s c r, ?_⟩,
    fun hheld => ⟨hw.stands hheld, fun hsome => ?_, fun hnone hlaw => ⟨?_, fun i r u hi hu => hw.lockEnded hheld hnone hlaw hi hu⟩,
      fun i u hu => ?_, fun huplink => ?_, fun huplink hlaw => ?_⟩, ⟨fun hwanted => ?_, fun hnot => ?_⟩,
    fun hheld hjoined hlaw => (hw.boundary hheld hlaw hjoined).2⟩
  · exact loweringNoted_written (List.mem_of_getElem? hi) fun kd hkd =>
      ⟨hfollows.takes _ _ (hw.noted kd hkd).1, hfollows.flags _ (hw.noted kd hkd).2⟩
  · obtain ⟨hnone, -⟩ | ⟨-, hrest⟩ := hw.free_or_rerun hheld
    · simp [hnone] at hsome
    · exact hrest
  · obtain ⟨-, hafter⟩ | ⟨hsome, -⟩ := hw.free_or_rerun hheld
    · rw [hafter, (allocates_lockEnds _).due]
      rfl
    · simp [hnone] at hsome
  · obtain ⟨v, hv, hfixed⟩ := hw.recordKept hheld hu
    exact ⟨v, hv, fields_of_fixed hfixed⟩
  · rw [hladders hheld, hw.ladders, formLadders, if_neg (by simp [huplink])]
    rfl
  · rw [hladders hheld]
    exact hw.laddersMade huplink hlaw
  · rw [hw.changed_iff] at hwanted
    exact hfollows.pledges (hw.inserted hwanted)
  · rw [hw.changed_iff] at hnot
    exact EntriesFrom.trans (hw.kept hnot) hfollows.entries

end Sys2Proof.Machine
